-- ==== Sys2Proof/Word.lean ====
section
/-! DEFINITION. The words of the device and the sparse table that holds what it has many of. -/

namespace Sys2Proof

/-- One byte. -/
abbrev Byte := BitVec 8

/-- A register, an address, a GFA: 64 bits (R15, R46). -/
abbrev Word := BitVec 64

/-- A 32-bit value: sequence numbers, Laps, generations, epochs, endpoint IDs (R20, R85). -/
abbrev Word32 := BitVec 32

/-- Something the device has many of, by number: the pairs (number, value) whose value is not
the one an unlisted number has, the numbers strictly rising. -/
abbrev Table (α : Type) := List (Nat × α)

end Sys2Proof
end

