-- ==== Sys2Proof/Syntax.lean ====
section
/-! DEFINITION. The commands of the block: one constructor per row of spec/opcode_table.json. -/

namespace Sys2Proof

/-- A network address of a frame's source or destination (R81, R459). -/
inductive IpAddr where
  | v6 (a : BitVec 128)
  | v4 (a : BitVec 32)
  /-- the frame carries no IP packet -/
  | noIp
deriving DecidableEq, Repr

/-- The RVT header of R94, without its type byte, which the row of the table gives. -/
structure Hdr where
  ver : Byte := 2
  hdrLen : Byte := 6
  status : Byte := 0
  flags : BitVec 16 := 0
  ctx : BitVec 16 := 0
  dstSess : Word32 := 0
  seq : Word32 := 0
  ack : Word32 := 0
  epoch : Word32 := 0
  srcEp : Word32 := 0
  dstEp : Word32 := 0
  tag : Word32 := 0
  payLen : BitVec 16 := 0
  opLen : BitVec 16 := 0
  addr : Word := 0
deriving DecidableEq, Repr

/-- One received RVT frame as the hub endpoint delivers it to ingress parse (R81 to R83, R107). -/
structure Frame where
  hdr : Hdr
  payload : List Byte
  /-- the CRC-32C trailer (R83) -/
  crc : Word32
  /-- UDP destination port (R82) -/
  udpPort : BitVec 16
  /-- the UDP and IP lengths agree with each other and with the datagram (row 1 of R107) -/
  lensOk : Bool := true
  srcIp : IpAddr
  /-- the frame carries a CE mark (R113) -/
  ce : Bool := false
deriving DecidableEq, Repr

/-- A memory-protection upset that the words of one request meet on the logic dies (R481 to R483):
what no row of its own brings, so the request that meets it carries it. -/
inductive Upset where
  | none
  /-- a single-bit error, corrected where it is found (R481) -/
  | corrected
  /-- an uncorrectable datapath word that carries memory data, byte `off` of the access (R482) -/
  | data (off : Nat)
  /-- the NAND codeword that holds byte `off` of the access cannot be corrected (R239) -/
  | nand (off : Nat)
  /-- an uncorrectable word of the request's header or internal descriptor (R482) -/
  | header
  /-- an uncorrectable SRAM word of the structure named (R483) -/
  | context (c : Nat)
  | segment (c sg : Nat)
  | extent (n : Nat)
  | route (d : Nat)
  | dirEntry (q : Nat) (line : Nat)
  | versionMap (r : Nat)
  | session (n : Nat)
  | cacheLine (q : Nat) (line : Nat)
  | engineState (unit q queue : Nat)
  | lane (l : Nat)
  | hurdle (h : Nat)
  | starterMem
  /-- pipeline control of a quadrant (R488) -/
  | quadCore (q : Nat)
  | hubCore
deriving DecidableEq, Repr

/-- The RVT message that a frame carries: type byte, header, payload, CRC-32C trailer (R83, R94). -/
structure Rvt where
  typ : Byte
  hdr : Hdr
  payload : List Byte
  crc : Word32
  /-- the UDP and IP lengths agree with each other and with the datagram (row 1 of R107) -/
  lensOk : Bool := true
deriving DecidableEq, Repr

/-- What a frame carries behind its addresses, as far as the device reads or writes it. -/
inductive EthBody where
  | other
  | rvt (r : Rvt)
  /-- an LLDP frame that the device sends: its TLVs, type and value, in order (R456) -/
  | lldp (tlvs : List (Nat × List Byte))
deriving DecidableEq, Repr

/-- An Ethernet frame as the switch core sees it: transit, terminated, or generated by an internal
endpoint (R81 to R84, R433, R434, R441, R443, R460 to R462). -/
structure EthFrame where
  dstMac : BitVec 48 := 0
  srcMac : BitVec 48 := 0
  /-- VLAN ID of the 802.1Q tag; `none` for an untagged frame -/
  vlan : Option (BitVec 12) := some 0
  pcp : BitVec 3 := 0
  dei : Bool := false
  fcsOk : Bool := true
  src : IpAddr
  dst : IpAddr
  proto : Byte := 17
  srcPort : BitVec 16 := 0
  dstPort : BitVec 16 := 0
  ttl : Byte := 64
  dscp : BitVec 6 := 0
  /-- the ECN codepoint: 0 Not-ECT, 1 ECT(1), 2 ECT(0), 3 CE -/
  ecn : BitVec 2 := 0
  /-- the IPv4 header checksum; 0 for a frame without an IPv4 header -/
  csum : BitVec 16 := 0
  body : EthBody := .other
  /-- bytes from destination address to FCS -/
  len : Nat
  /-- for a frame an internal endpoint generates: the context it is generated for (R434) -/
  ctx : Option Nat := none
deriving DecidableEq, Repr

/-- What the LLDP frame of a neighbour holds (R456, R457). -/
structure LldpFrame where
  srcMac : BitVec 48
  /-- seconds; 0 expires at once -/
  ttl : BitVec 16
  /-- the information string of the TLV of lldp_oui and subtype 1, if present -/
  info : Option (List Byte)
  /-- organisation identifier and subtype of that TLV -/
  oui : BitVec 24
  subtype : Byte
deriving DecidableEq, Repr

/-- A received Sync, with what its Follow_Up adds (R478, R479). -/
structure PtpSync where
  port : Nat
  domain : Byte
  mapping : BitVec 2
  /-- source port identity of the transmitter -/
  source : BitVec 80
  /-- the transmitter's origin time, ns -/
  origin : Nat
  /-- the counter's time at the reference plane when the Sync arrived, ns -/
  arrival : Nat
  /-- the transmitter's identifier that a Delay_Req of this Sync carries -/
  seqId : BitVec 16
deriving DecidableEq, Repr

/-- The NAND population that the parameter pages report at a start (R235). -/
structure NandPop where
  /-- channel c matches channel 0 -/
  chOk : BitVec 32
  targets : Nat
  pageKib : Nat
  spareKib : Nat
  suspend : Bool
  /-- raw capacity in 64 GiB units -/
  rawCap : Nat
  ratedPe : Nat
  /-- blocks of a channel, and 4 KiB places of a block -/
  blocks : Nat
  blockPages : Nat
deriving DecidableEq, Repr

/-- What THROTTLE_EVAL samples: temperatures in °C of the eight logic dies and sixteen stacks, and
the core power over 1 ms in W (R564, R567). -/
structure Sensors where
  die : List Nat
  stk : List Nat
  coreW : Nat
deriving DecidableEq, Repr

/-- A TAP instruction (R579). -/
inductive TapIr where
  | bypass | idcode | samplePreload | extest
  /-- any other instruction code -/
  | other (code : Nat)
deriving DecidableEq, Repr

/-- The commands. A message row takes its frame; a register row takes the word written (the row's
own op or action bit is set by the row); an internal event takes what names its object. -/
inductive Instr where
  -- 03 Ralval Transport
  | rvtOpen (f : Frame)
  | rvtAccept (f : Frame)
  | rvtClose (f : Frame)
  | rvtAck (f : Frame)
  | rvtNak (f : Frame)
  | ackDelayExpiry (sess cls : Nat)
  | retxTimerExpiry (sess cls : Nat)
  | openingTimeout (sess : Nat)
  | sessionDrained (sess : Nat)
  | memRead (f : Frame) (u : Upset)
  | memWrite (f : Frame) (u : Upset)
  | memAtomic (f : Frame)
  | memSignal (f : Frame)
  | orderedSignalRelease (cmd : Nat)
  | memFence (f : Frame)
  | fenceComplete (cmd : Nat)
  | memDrain (f : Frame)
  | drainComplete (cmd : Nat)
  | mgRead (f : Frame) (codeBad : Option Nat)
  | mgWrite (f : Frame) (codeBad : Option Nat)
  | regWrite (off : BitVec 32) (v : Word)
  | ptInval (f : Frame)
  | eventSend
  | rvtCpl (f : Frame)
  -- 04 Memory Model
  | cacheFlush (f : Frame)
  | cacheInval (f : Frame)
  | ecEvict (q : BitVec 2) (line : Nat)
  -- 05 Directory
  | cohReadS (f : Frame)
  | cohReadE (f : Frame)
  | cohUpgrade (f : Frame)
  | cohWb (f : Frame)
  | cohEvict (f : Frame)
  | cohRecallAnswer (f : Frame)
  | cohRecallReceived (f : Frame)
  | recallTimeout (tag : Nat)
  | domainEnterDown (d : BitVec 8)
  | parkedRequestStart (line : Nat)
  | deviceRetryBackoff (cmd : Nat)
  | dirDomUp (d : BitVec 8) (v : Word)
  | dirDomDown (d : BitVec 8) (v : Word)
  | dirDomClear (d : BitVec 8) (v : Word)
  | dirPeekAddr (q : BitVec 2) (v : Word)
  -- 02 Extents
  | extActivate (n : BitVec 12) (v : Word)
  | extRevoke (n : BitVec 12) (v : Word)
  | extRelease (n : BitVec 12) (v : Word)
  | extFillDone (n : BitVec 12)
  | extentDrained (n : BitVec 12)
  | segAttrCommit (c : BitVec 12) (sg : BitVec 4) (v : Word)
  | hubRcInval (v : Word)
  | sessAbort (sess : Nat) (v : Word)
  -- 06 Versioned Regions
  | vrDeclare (r : BitVec 16) (v : Word)
  | vrUndeclare (r : BitVec 16) (v : Word)
  | vrDeclareRecallsDone (r : BitVec 16)
  | vrFold (r : BitVec 16) (page : Nat)
  | vrFoldingDone (r : BitVec 16)
  | vrPoolAttach (q : BitVec 2) (k : BitVec 2) (v : Word)
  | vrOpen (f : Frame)
  | vrPublish (f : Frame)
  | vrRelease (f : Frame)
  -- 07 Tiers
  | flsStart (v : Word)
  | flsStartingDone (metaOk : Bool)
  | tier1Timeout (cmd : Nat)
  | flashStageSpace (cmd : Nat)
  | flashWearLevel (ch : BitVec 5)
  | flashRefresh (page : Nat) (patrol : Bool) (correctable : Bool)
  | flashGc (ch : BitVec 5) (failed : Bool)
  | borrowTimeout (tag : Nat)
  | paceStart (f : Frame)
  | paceStop (f : Frame)
  | paceFetch (q : BitVec 2) (k : BitVec 3)
  | tileStaged (q : BitVec 2) (k : BitVec 3) (tile : Nat)
  | paceStreamIdle (q : BitVec 2) (k : BitVec 3)
  | paceLateTimeout (cmd : Nat)
  | tileMove (f : Frame)
  | flashSync (f : Frame)
  -- 08 Tensor engine
  | teRun (f : Frame)
  | teLoad (q : BitVec 2) (queue : BitVec 4)
  | teMatmul (q : BitVec 2) (queue : BitVec 4)
  | teAttend (q : BitVec 2) (queue : BitVec 4)
  | teNorm (q : BitVec 2) (queue : BitVec 4)
  | teAcc (q : BitVec 2) (queue : BitVec 4)
  | teStore (q : BitVec 2) (queue : BitVec 4)
  | teQuantumSwitch (q : BitVec 2)
  -- 09 Sequence decode
  | sqOpen (f : Frame)
  | sqArm (f : Frame)
  | sqSetlen (f : Frame)
  | sqOffer (f : Frame)
  | sqQuery (f : Frame)
  | sqClose (f : Frame)
  | sqLaneDrop (l : BitVec 8)
  | batonOffer (f : Frame)
  | batonData (f : Frame)
  | batonDataSend (l : BitVec 8)
  | batonCommit (f : Frame)
  | batonRelease (f : Frame)
  | batonQuery (f : Frame)
  | batonToExpiry (l : BitVec 8)
  | batonWaitTimeout (q : BitVec 2) (queue : BitVec 4)
  -- 10 Vector search
  | seQuery (f : Frame)
  | seCfgScratch (q : BitVec 2) (v : Word)
  | seThreadFree (q : BitVec 2)
  -- 11 Embedding
  | guGather (f : Frame)
  | guScatter (f : Frame)
  | guHeat (f : Frame)
  | heatPartRetry (cmd part : Nat)
  | heldPartTimeout (cmd : Nat)
  | relayDetApply (g : BitVec 6)
  | relayTimeout (cmd : Nat)
  | guCfgBuffer (q : BitVec 2) (v : Word)
  -- 12 Contexts and Hurdles
  | qdCtxSaveArea (q : BitVec 2) (v : Word)
  | engQuiesce (unit : BitVec 3) (q : BitVec 2) (v : Word)
  | engKill (unit : BitVec 3) (q : BitVec 2) (v : Word)
  | engEnable (unit : BitVec 3) (q : BitVec 2) (v : Word)
  | quiesceToExpiry (unit : BitVec 3) (q : BitVec 2)
  | engDisabled (unit : BitVec 3) (q : BitVec 2)
  | hdlAlloc (f : Frame)
  | hdlFree (f : Frame)
  | hdlUpdate (f : Frame)
  | hdlRead (f : Frame)
  | hdlWatch (f : Frame)
  | hdlSave (f : Frame)
  | hdlRestore (f : Frame)
  | hdlPeer (f : Frame)
  | watchTimeout (cmd : Nat)
  -- 13 Switch core
  | frameReceive (port : Nat) (e : EthFrame) (cellUpset : Bool)
  | pfcPauseRepeat (port : Nat) (cls : BitVec 3)
  | outputService (port : Nat)
  | pauseFrameReceive (port : Nat) (cls : BitVec 3) (quanta : BitVec 16)
  | swFlowCommit (r : BitVec 8) (v : Word)
  | swPolRate (p : Nat) (v : Word)
  | gateCommit (e : BitVec 3) (v : Word)
  | gateDisable (e : BitVec 3) (v : Word)
  | gateListStart (e : BitVec 3)
  | gateEntryChange (e : BitVec 3)
  -- 14 Fabric
  | linkDown (port : BitVec 5)
  | linkUp (port : BitVec 5)
  | lldpSend
  | lldpReceive (port : BitVec 5) (l : LldpFrame)
  | neighbourExpiry (port : BitVec 5)
  | fabJoin (v : Word)
  | fabIsolate (v : Word)
  | fabRelease (v : Word)
  | fabChg (v : Word)
  | fabCommit (v : Word)
  | fabDiscard (v : Word)
  | fabLeaseRenew (v : Word)
  | leaseExpiry
  | heartbeat
  | suspicionExpiry (d : BitVec 16)
  | ptpSync (p : PtpSync)
  | ptpSyncSilence
  -- 16 Boot, trust
  | secAttest (f : Frame)
  | attestSigned
  -- 15 Errors
  | scrubRead (stack : BitVec 4) (sector : Nat) (state : BitVec 2)
  | hubErrLogAck (v : Word)
  | hubErrInj (v : Word)
  | stackTrainingLoss (stack : BitVec 4) (retrained : Bool)
  | quadrantHeartbeatLoss (q : BitVec 2)
  | starterWatchdogExpiry (digestOk : Bool)
  | microcodeWatchdogExpiry (q : BitVec 2) (unit : BitVec 3)
  | flashWatchdogExpiry
  | dspWatchdogExpiry (p : BitVec 1)
  | starterRestartDone
  | secUpdStage (v : Word)
  | secUpdWriteDone (deviceOk : Bool)
  | secUpdActivate (v : Word)
  | secUpdConfirm (v : Word)
  | secUpdCancel (v : Word)
  | secRecWrite (v : Word)
  | secRecCommit (v : Word)
  | secRecReset (v : Word)
  -- 17 Management
  | hubLock (v : Word)
  | hubEvtPop (v : Word)
  | smbRead (count : Nat) (off : BitVec 32) (pecOk codeOk : Bool)
  | smbWrite (count : Nat) (off : BitVec 32) (v : Word) (pecOk codeOk : Bool)
  | smbStatusRead
  | smbAlertResponse
  -- 18 Package and power
  | throttleEval (x : Sensors)
  | avsRead (ok : Bool) (mv amps : Nat)
  | avsWriteRetry (ok : Bool)
  | pwrCfgWrite (v : Word) (avsOk : Bool)
  | thermalTrip (stack : Bool) (n : Nat) (temp : Nat)
  | refclkLoss (n : BitVec 3)
  | refclkReturn (n : BitVec 3)
  | phPortCfg (p : BitVec 1) (k : BitVec 2) (v : Word)
  | connectorUnseated (e : BitVec 3)
  | hubRstCtl (v : Word)
  | perstFall (lowNs : Nat) (resets : Bool)
  | perstRise (smbAddr : BitVec 3) (recovery : Bool) (norOk idOk : Bool) (nand : NandPop)
  | startComplete (linksUp : BitVec 32)
  | pwrgdFall
  | pwrgdRise
  | coreUndervolt (mv : Nat)
  | supplyBelowMin (supply : BitVec 3)
  | jtagInstruction (ir : TapIr)
  | pauseQuantaExpiry (port : Nat) (cls : BitVec 3)
  | flashProgramDone
  | ptpDelayResp (port : Nat) (source : BitVec 80) (seqId : BitVec 16) (sent received : Nat)
  | connectorSeated (e : BitVec 3)
  | hdlPeerTimeout (tag : Nat)
  | deviceResetRegister
  | secRecOpDone (ok : Bool)
deriving DecidableEq, Repr

end Sys2Proof
end

