-- ==== Sys2Proof/Decode.lean ====
section
/-! DEFINITION. The words of commands. No row of the opcode table gives bits: the block is commanded by
messages, register writes, pins and events, so no word spells a command. -/

namespace Sys2Proof

/-- The command that an `nbits`-bit word spells by the table's bits: none has any. -/
def decodeTableWord (_nbits _w : Nat) : Option Instr := none

end Sys2Proof
end

