-- ==== Sys2Proof/Machine/Bits.lean ====
section
/-! DEFINITION. Byte order (R7), bit ranges, and the serial-number order of R20 and R21. -/

namespace Sys2Proof.Machine

/-- Bits [hi:lo] of a word, as a number (R7: a range includes both ends). -/
def bits (w : Word) (hi lo : Nat) : Nat := w.toNat / 2 ^ lo % 2 ^ (hi + 1 - lo)

/-- Bit i of a word. -/
def bit (w : Word) (i : Nat) : Bool := w.toNat / 2 ^ i % 2 == 1

/-- The word whose bits [hi:lo] are `x` and whose others are `w`'s. -/
def putBits (w : Word) (hi lo : Nat) (x : Nat) : Word :=
  BitVec.ofNat 64 (w.toNat - bits w hi lo * 2 ^ lo + x % 2 ^ (hi + 1 - lo) * 2 ^ lo)

/-- The value of bytes that stand lowest first (R7). -/
def leNat : List Byte → Nat
  | [] => 0
  | b :: bs => b.toNat + 256 * leNat bs

/-- The n bytes of a value, lowest first (R7), modulo 2^(8n). -/
def leBytes : Nat → Nat → List Byte
  | 0, _ => []
  | n + 1, v => BitVec.ofNat 8 v :: leBytes n (v / 256)

/-- n bytes at `off`; bytes beyond the end read zero. -/
def slice (bs : List Byte) (off n : Nat) : List Byte :=
  let t := (bs.drop off).take n
  t ++ List.replicate (n - t.length) 0

/-- The n-byte little-endian number at `off` of a message, descriptor or format. -/
def field (bs : List Byte) (off n : Nat) : Nat := leNat (slice bs off n)

/-- Every byte of [off, off + n) is zero: a reserved range (R10). -/
def zeroAt (bs : List Byte) (off n : Nat) : Bool := (slice bs off n).all (· == 0)

/-- The bytes of `bs` with `new` written over them at `off`. -/
def patch (bs : List Byte) (off : Nat) (new : List Byte) : List Byte :=
  bs.take off ++ new ++ bs.drop (off + new.length)

/-- Two's complement value of the low n bits. -/
def signed (n v : Nat) : Int :=
  let m := v % 2 ^ n
  if m < 2 ^ (n - 1) then m else (m : Int) - 2 ^ n

/-- The n-bit two's complement form of an integer. -/
def unsigned (n : Nat) (v : Int) : Nat := (v % (2 ^ n : Int)).toNat

/-- R20, R21: `b` is newer than `a`; at a distance of exactly 2^31 it is not. -/
def newer (a b : Word32) : Bool :=
  let d := (b - a).toNat
  1 ≤ d && d < 2 ^ 31

/-- R20: `b` is older than `a`. -/
def older (a b : Word32) : Bool :=
  2 ^ 31 < (b - a).toNat

/-- Round up to a multiple. -/
def roundUp (n m : Nat) : Nat := (n + m - 1) / m * m

/-- Two byte ranges of positive length meet. -/
def overlaps (a n b m : Nat) : Bool := 0 < n && 0 < m && a < b + m && b < a + n

/-- The bytes [a, a+n) stand inside [b, b+m). -/
def within (a n b m : Nat) : Bool := b ≤ a && a + n ≤ b + m

/-- Bit i of a byte list that is a bit map, bit 0 of byte 0 first. -/
def mapBit (bs : List Byte) (i : Nat) : Bool := field bs (i / 8) 1 / 2 ^ (i % 8) % 2 == 1

/-- The index of the least number below n that meets p. -/
def leastBelow (n : Nat) (p : Nat → Bool) : Option Nat := (List.range n).find? p

/-- Insert into a list ordered by `lt`, before the elements that are not less. -/
def insertBy {α : Type} (lt : α → α → Bool) (x : α) : List α → List α
  | [] => [x]
  | y :: ys => if lt y x then y :: insertBy lt x ys else x :: y :: ys

/-- Stable insertion sort. -/
def sortBy {α : Type} (lt : α → α → Bool) : List α → List α
  | [] => []
  | x :: xs => insertBy lt x (sortBy lt xs)

/-- The largest n with n * n ≤ v, by bisection over `fuel` bits. -/
def isqrtGo (v : Nat) : Nat → Nat → Nat
  | 0, r => r
  | k + 1, r => let r' := r + 2 ^ k; isqrtGo v k (if r' * r' ≤ v then r' else r)

def isqrt (v : Nat) : Nat := isqrtGo v (v.log2 / 2 + 1) 0

end Sys2Proof.Machine
end

