-- ==== Sys2Proof/Machine/Crypto.lean ====
section
/-! DEFINITION. The codes and the cryptography that the manual names: CRC-32C (R83), SHAKE256 and KMAC256
(R504 to R518) and Ed448 (R504, R510). -/

namespace Sys2Proof.Machine

/-! ### CRC-32C (Castagnoli) -/

def crcBit (c : Nat) : Nat := if c % 2 = 1 then (c / 2) ^^^ 0x82F63B78 else c / 2

def crcByte (c : Nat) (b : Byte) : Nat :=
  (List.range 8).foldl (fun c _ => crcBit c) (c ^^^ b.toNat)

/-- CRC-32C of a byte list. -/
def crc32c (bs : List Byte) : Word32 :=
  BitVec.ofNat 32 ((bs.foldl crcByte 0xFFFFFFFF) ^^^ 0xFFFFFFFF)

/-! ### Keccak-f[1600] (FIPS 202), on 25 lanes in the order of the string, lane (x, y) at 5y + x -/

/-- A lane turned left by n bits. -/
def turned (n v : Nat) : Nat := v <<< n % 2 ^ 64 ||| v >>> (64 - n)

/-- One step of the register that the round constants are bits of. -/
def lfsr (r : Nat) : Nat := if 128 ≤ r then 2 * r - 256 ^^^ 0x71 else 2 * r

/-- The constant of the round that finds the register at r, and the register behind it: output j stands
at bit 2^j - 1. -/
def roundConst (r : Nat) : Nat × Nat :=
  (List.range 7).foldl (fun w j => (w.1 + w.2 % 2 * 2 ^ (2 ^ j - 1), lfsr w.2)) (0, r)

/-- The walk of rho from lane p, at its t-th step: lane and rotation of this step and the n - 1 that
follow. -/
def rhoWalk : Nat → Nat → Nat → List (Nat × Nat)
  | 0, _, _ => []
  | n + 1, t, p =>
    (p, (t + 1) * (t + 2) / 2 % 64) :: rhoWalk n (t + 1) (5 * ((2 * (p % 5) + 3 * (p / 5)) % 5) + p / 5)

/-- Rotation of each lane: lane 0 stays, the others are met on the walk from lane (1, 0). -/
def rhoOf (p : Nat) : Nat := (((rhoWalk 24 0 1).find? fun e => e.1 = p).map fun e => e.2).getD 0

/-- Where pi takes the lane that ends at place p from, and its rotation, for each p. -/
def rhoPi : List (Nat × Nat) := (List.range 25).map fun p =>
  let src := 5 * (p % 5) + (p % 5 + 3 * (p / 5)) % 5
  (src, rhoOf src)

/-- The parity of each column. -/
def columns (a : List Nat) : List Nat :=
  (List.range 5).map fun x => (List.range 5).foldl (fun v y => v ^^^ a.getD (5 * y + x) 0) 0

/-- theta. -/
def theta (a : List Nat) : List Nat :=
  let c := columns a
  a.zipIdx.map fun e => e.1 ^^^ c.getD ((e.2 + 4) % 5) 0 ^^^ turned 1 (c.getD ((e.2 + 1) % 5) 0)

/-- chi on one plane of five lanes. -/
def chi (pl : List Nat) : List Nat :=
  pl.zipIdx.map fun e => e.1 ^^^ ((2 ^ 64 - 1 ^^^ pl.getD ((e.2 + 1) % 5) 0) &&& pl.getD ((e.2 + 2) % 5) 0)

/-- A round with its constant. -/
def keccakRound (k : Nat) (a : List Nat) : List Nat :=
  let a := theta a
  let b := rhoPi.map fun e => turned e.2 (a.getD e.1 0)
  let a := (List.range 5).flatMap fun y => chi ((b.drop (5 * y)).take 5)
  a.modifyHead (· ^^^ k)

/-- The rounds that are left, with the register of their constants. -/
def keccakGo : Nat → Nat → List Nat → List Nat
  | 0, _, a => a
  | n + 1, r, a => keccakGo n (roundConst r).2 (keccakRound (roundConst r).1 a)

def keccakF (a : List Nat) : List Nat := keccakGo 24 1 a

/-- XOR a block of at most 200 bytes into the state. -/
def absorb (a : List Nat) (blk : List Byte) : List Nat :=
  (List.range 25).map fun i => a.getD i 0 ^^^ field blk (8 * i) 8

def absorbAll : Nat → List Nat → List Byte → List Nat
  | 0, a, _ => a
  | n + 1, a, bs => absorbAll n (keccakF (absorb a (bs.take 136))) (bs.drop 136)

def squeeze : Nat → List Nat → List Byte
  | 0, _ => []
  | n + 1, a => (a.flatMap (leBytes 8)).take 136 ++ squeeze n (keccakF a)

/-- The sponge with rate 136 and a domain suffix byte. -/
def sponge (suffix : Byte) (m : List Byte) (n : Nat) : List Byte :=
  let k := m.length % 136
  let pad : List Byte :=
    if k = 135 then [suffix ||| 0x80] else suffix :: List.replicate (134 - k) 0 ++ [0x80]
  let p := m ++ pad
  (squeeze (n / 136 + 1) (absorbAll (p.length / 136) (List.replicate 25 0) p)).take n

/-- SHAKE256, n bytes. -/
def shake256 (m : List Byte) (n : Nat) : List Byte := sponge 0x1F m n

/-! ### KMAC256 (NIST SP 800-185) -/

/-- Big-endian bytes of v, at least one. -/
def beMin (v : Nat) : List Byte := (leBytes (v.log2 / 8 + 1) v).reverse

def leftEncode (v : Nat) : List Byte := BitVec.ofNat 8 (beMin v).length :: beMin v
def rightEncode (v : Nat) : List Byte := beMin v ++ [BitVec.ofNat 8 (beMin v).length]
def encodeString (b : List Byte) : List Byte := leftEncode (8 * b.length) ++ b
def bytepad (b : List Byte) (w : Nat) : List Byte :=
  let z := leftEncode w ++ b
  z ++ List.replicate (roundUp z.length w - z.length) 0

def asciiBytes (t : String) : List Byte := t.toList.map fun c => BitVec.ofNat 8 c.toNat

/-- KMAC256 of message m under key k, customisation string c, n bytes. -/
def kmac256 (k m c : List Byte) (n : Nat) : List Byte :=
  let pre := bytepad (encodeString (asciiBytes "KMAC") ++ encodeString c) 136
  sponge 0x04 (pre ++ bytepad (encodeString k) 136 ++ m ++ rightEncode (8 * n)) n

/-! ### Ed448 (RFC 8032) -/

def edP : Nat := 2 ^ 448 - 2 ^ 224 - 1
def edL : Nat := 2 ^ 446 - 13818066809895115352007386748515426880336692474882178609894547503885
def edD : Nat := edP - 39081

def powModGo (m : Nat) : Nat → Nat → Nat → Nat → Nat
  | 0, _, _, acc => acc
  | f + 1, b, e, acc =>
    if e = 0 then acc
    else powModGo m f (b * b % m) (e / 2) (if e % 2 = 1 then acc * b % m else acc)

def powMod (b e m : Nat) : Nat := powModGo m (e.log2 + 1) (b % m) e 1

def invMod (x : Nat) : Nat := powMod x (edP - 2) edP

/-- A point in projective coordinates (X : Y : Z). -/
structure EdPoint where
  x : Nat
  y : Nat
  z : Nat
deriving DecidableEq, Repr

def EdPoint.zero : EdPoint := { x := 0, y := 1, z := 1 }

def EdPoint.base : EdPoint :=
  { x := 224580040295924300187604334099896036246789641632564134246125461686950415467406032909029192869357953282578032075146446173674602635247710
    y := 298819210078481492676017930443930673437544040154080242095928241372331506189835876003536878655418784733982303233503462500531545062832660
    z := 1 }

/-- Complete addition on the untwisted curve x^2 + y^2 = 1 + d x^2 y^2. -/
def EdPoint.add (p q : EdPoint) : EdPoint :=
  let a := p.z * q.z % edP
  let b := a * a % edP
  let c := p.x * q.x % edP
  let d := p.y * q.y % edP
  let e := edD * (c * d % edP) % edP
  let f := (b + edP - e) % edP
  let g := (b + e) % edP
  let h := (p.x + p.y) * (q.x + q.y) % edP
  { x := a * f % edP * ((h + 2 * edP - c - d) % edP) % edP
    y := a * g % edP * ((d + edP - c) % edP) % edP
    z := f * g % edP }

def EdPoint.mulGo : Nat → Nat → EdPoint → EdPoint → EdPoint
  | 0, _, _, acc => acc
  | f + 1, n, p, acc =>
    if n = 0 then acc else EdPoint.mulGo f (n / 2) (p.add p) (if n % 2 = 1 then acc.add p else acc)

def EdPoint.mul (n : Nat) (p : EdPoint) : EdPoint := EdPoint.mulGo (n.log2 + 1) n p EdPoint.zero

def EdPoint.eq (p q : EdPoint) : Bool :=
  p.x * q.z % edP == q.x * p.z % edP && p.y * q.z % edP == q.y * p.z % edP

/-- 57-byte form: y, and the sign of x in the top bit. -/
def EdPoint.encode (p : EdPoint) : List Byte :=
  let zi := invMod p.z
  let x := p.x * zi % edP
  let y := p.y * zi % edP
  leBytes 57 (y + (x % 2) * 2 ^ 455)

/-- Decode a 57-byte point. -/
def edDecode (bs : List Byte) : Option EdPoint :=
  let v := leNat bs
  let sign := v / 2 ^ 455
  let y := v % 2 ^ 455
  if bs.length ≠ 57 ∨ edP ≤ y then none
  else
    let u := (y * y + edP - 1) % edP
    let w := (edD * (y * y % edP) + edP - 1) % edP
    -- x = u^3 w (u^5 w^3)^((p-3)/4)
    let u3 := u * u % edP * u % edP
    let u5w3 := u3 * u % edP * u % edP * (w * w % edP * w % edP) % edP
    let x := u3 * w % edP * powMod u5w3 ((edP - 3) / 4) edP % edP
    if w * (x * x % edP) % edP ≠ u then none
    else if x = 0 ∧ sign = 1 then none
    else some { x := if x % 2 = sign then x else (edP - x) % edP, y := y, z := 1 }

def edDom (ctx : List Byte) : List Byte :=
  asciiBytes "SigEd448" ++ [0, BitVec.ofNat 8 ctx.length] ++ ctx

/-- Clamped scalar and prefix of a 57-byte secret. -/
def edExpand (sk : List Byte) : Nat × List Byte :=
  let h := shake256 sk 114
  let a := leNat (h.take 56)
  (a - a % 4 - a / 2 ^ 447 % 2 * 2 ^ 447 + 2 ^ 447, h.drop 57)

def edPublic (sk : List Byte) : List Byte := (EdPoint.mul (edExpand sk).1 EdPoint.base).encode

/-- Sign a message under a context string. -/
def edSign (sk ctx m : List Byte) : List Byte :=
  let (a, pre) := edExpand sk
  let r := leNat (shake256 (edDom ctx ++ pre ++ m) 114) % edL
  let rb := (EdPoint.mul r EdPoint.base).encode
  let k := leNat (shake256 (edDom ctx ++ rb ++ edPublic sk ++ m) 114) % edL
  rb ++ leBytes 57 ((r + k * a) % edL)

/-- Verify a 114-byte signature. -/
def edVerify (pk ctx m sig : List Byte) : Bool :=
  match edDecode pk, edDecode (sig.take 57) with
  | some a, some r =>
    let s := leNat (sig.drop 57)
    let k := leNat (shake256 (edDom ctx ++ sig.take 57 ++ pk ++ m) 114) % edL
    sig.length == 114 && s < edL &&
      (EdPoint.mul (4 * s) EdPoint.base).eq ((EdPoint.mul 4 r).add (EdPoint.mul (4 * k) a))
  | _, _ => false

end Sys2Proof.Machine
end

