-- ==== Sys2Proof/Machine/Frames.lean ====
section
/-! DEFINITION. Frames as bytes: the flags of the RVT header (R94), what the CRC-32C covers (R83), addresses,
the IPv4 header checksum, and the changes that the switch makes to a frame (R441, R446, R462). -/

namespace Sys2Proof

open Machine (leBytes)

/-! ### Flags of R94 -/

def flag (f : BitVec 16) (i : Nat) : Bool := f.getLsbD i
def Hdr.gfa (h : Hdr) : Bool := flag h.flags 11
def Hdr.vol (h : Hdr) : Bool := flag h.flags 10
def Hdr.unord (h : Hdr) : Bool := flag h.flags 9
def Hdr.allCls (h : Hdr) : Bool := flag h.flags 8
def Hdr.retx (h : Hdr) : Bool := flag h.flags 7
def Hdr.ece (h : Hdr) : Bool := flag h.flags 6
def Hdr.cwr (h : Hdr) : Bool := flag h.flags 5
def Hdr.ackreq (h : Hdr) : Bool := flag h.flags 4
def Hdr.nc (h : Hdr) : Bool := flag h.flags 3
def Hdr.cls (h : Hdr) : Nat := h.flags.toNat % 8
def Hdr.context (h : Hdr) : Nat := h.ctx.toNat % 4096


/-- The 48 bytes of the RVT header of type typ (R94). -/
def Hdr.bytes (h : Hdr) (typ : Byte) : List Byte :=
  [h.ver, h.hdrLen, typ, h.status] ++ leBytes 2 h.flags.toNat ++ leBytes 2 h.ctx.toNat
    ++ leBytes 4 h.dstSess.toNat ++ leBytes 4 h.seq.toNat ++ leBytes 4 h.ack.toNat
    ++ leBytes 4 h.epoch.toNat ++ leBytes 4 h.srcEp.toNat ++ leBytes 4 h.dstEp.toNat
    ++ leBytes 4 h.tag.toNat ++ leBytes 2 h.payLen.toNat ++ leBytes 2 h.opLen.toNat
    ++ leBytes 8 h.addr.toNat

/-! ### Addresses -/

/-- Bytes of an address as a frame carries it, most significant first. -/
def addrBytes : IpAddr → List Byte
  | .v6 x => (leBytes 16 x.toNat).reverse
  | .v4 x => (leBytes 4 x.toNat).reverse
  | .noIp => []

/-- EUI-64 of a MAC address. -/
def eui64 (m : BitVec 48) : Nat := m.toNat / 2 ^ 24 * 2 ^ 40 + 0xFFFE * 2 ^ 24 + m.toNat % 2 ^ 24

/-! ### The IPv4 header checksum (R441, R462) -/

/-- A sum of 16-bit words with its carries folded in. -/
def onesSum (n : Nat) : Nat :=
  let t := n % 65536 + n / 65536
  t % 65536 + t / 65536

/-- The header checksum c of an IPv4 header of which one 16-bit word has changed from `old` to `new`
(RFC 1624). -/
def csumMoved (c : BitVec 16) (old new : Nat) : BitVec 16 :=
  BitVec.ofNat 16 (65535 - onesSum ((65535 - c.toNat) + (65535 - old) + new))

/-- The IPv4 header checksum of a frame after a change of the word that holds `old` to `new`; a frame without an
IPv4 header has none. -/
def EthFrame.recheck (e : EthFrame) (old new : Nat) : BitVec 16 :=
  match e.dst with
  | .v4 _ => csumMoved e.csum old new
  | _ => e.csum

/-- The frame marked CE (R441). -/
def EthFrame.markCe (e : EthFrame) : EthFrame :=
  let tos (c : Nat) : Nat := 0x4500 + 4 * e.dscp.toNat + c
  { e with ecn := 3, csum := e.recheck (tos e.ecn.toNat) (tos 3) }

/-- The frame one hop further (R462). -/
def EthFrame.hop (e : EthFrame) : EthFrame :=
  let w (l : Byte) : Nat := 256 * l.toNat + e.proto.toNat
  { e with ttl := e.ttl - 1, csum := e.recheck (w e.ttl) (w (e.ttl - 1)) }

/-! ### What a frame carries -/

/-- src_ep of the RVT header (R443). -/
def EthFrame.rvtEp (e : EthFrame) : Option Word32 := match e.body with
  | .rvt r => some r.hdr.srcEp
  | _ => none

/-- An RVT_CLOSE, an LLDP frame. -/
def EthFrame.isClose (e : EthFrame) : Bool := match e.body with | .rvt r => r.typ = 0x03 | _ => false
def EthFrame.isLldp (e : EthFrame) : Bool := match e.body with | .lldp _ => true | _ => false

/-- What its first 124 bytes hold of an RVT message in a frame of `len` bytes: the payload as far as it
reaches, no trailer. -/
def EthBody.cut (len : Nat) : EthBody → EthBody
  | .rvt r => .rvt { r with payload := r.payload.take (124 - (len - 8 - r.payload.length)), crc := 0, lensOk := false }
  | b => b

/-- A frame cut to its first 124 bytes, with a new FCS. -/
def EthFrame.cut (e : EthFrame) : EthFrame :=
  if 128 < e.len then { e with len := 128, fcsOk := true, body := e.body.cut e.len } else e

end Sys2Proof
end

