-- ==== Sys2Proof/Config.lean ====
section
/-! DEFINITION. What the manual leaves open and no step may know: free values without a body, and
the secrets and constants of the unit that the manual does not print. -/

namespace Sys2Proof

/-- FREE VALUE (R88): the initial sequence number that the device gives for its streams. -/
opaque Config.isn : Nat → Word32

/-- FREE VALUE (R82, R115): the UDP source port, the path, of a stream. -/
opaque Config.srcPort : Nat → BitVec 16

/-- FREE VALUE (R133): which line a full engine cache evicts. -/
opaque Config.victim : Nat → Nat

/-- FREE VALUE (R57): how many bytes of each stack a zero fill had reached when a REVOKE stopped it. -/
opaque Config.fillReached : Nat → Nat

/-- FREE VALUE (R298): the arrival rank of one chunk value of one result element when balancing is
on: draw, element, chunk. -/
opaque Config.arrival : Nat → Nat → Nat → Nat

/-- FREE VALUE (R479): the rate adjustment of the servo in ppm, which the step limits to 100. -/
opaque Config.ratePpm : Nat → Int

/-- FREE VALUE (R243, R581): a page that the staging buffer held at a loss of power has reached NAND. -/
opaque Config.stagedKept : Nat → Bool

/-- FREE VALUE (R246): the channels in which a program of staged pages fails. -/
opaque Config.programFails : Nat → BitVec 32

/-- FREE VALUE (R568, R571, R499): the type byte of the record of a device stop that is not an SRAM
failure. -/
opaque Config.stopType : Nat → Byte

/-- FREE VALUE (R522, R527): the status, not OK, of a NOR operation that failed; its code less one. -/
opaque Config.norStatus : Nat → Fin 17

/-- UNIT SECRET (R504): the 256-bit secret that the PUF reconstructs. -/
opaque Config.pufSecret : BitVec 256

/-- UNIT CONSTANT (R510): the Crarid root public keys 0 and 1, 57 bytes each. -/
opaque Config.rootKey : Bool → BitVec 456

/-- UNIT CONSTANT (R518): Crarid's fixed digest of the boot ROM. -/
opaque Config.romDigest : BitVec 512

/-- FREE VALUE (R517): the table of the Starter firmware that translates an MZ-800 register offset;
`none` where it has no counterpart. -/
opaque Config.mz800Offset : Nat → Option Nat

/-- UNIT CONSTANT (R456, R462): the MAC address of an external port. -/
opaque Config.portMac : Nat → BitVec 48

/-- FREE VALUE (R401): the 256 bytes of program state, whose layout belongs to the unit. -/
opaque Config.programState : Nat → Nat → Byte

end Sys2Proof
end

