-- ==== Sys2Proof/Machine/Tables.lean ====
section
/-! DEFINITION. The one sparse table of the model: keys strictly rising, no entry that equals what an
unlisted key reads as. HBM bytes, registers, directory entries and all else of which the device has
many are held so, hence equal contents are equal data. -/

namespace Sys2Proof.Machine

/-- What key `k` holds; `d` where the table lists nothing. -/
def tget {α : Type} (d : α) : Table α → Nat → α
  | [], _ => d
  | (k', v) :: t, k => if k = k' then v else tget d t k

/-- Erase key k. -/
def terase {α : Type} : Table α → Nat → Table α
  | [], _ => []
  | (k', v) :: t, k => if k = k' then t else (k', v) :: terase t k

/-- Put v at key k in order. -/
def tinsert {α : Type} : Table α → Nat → α → Table α
  | [], k, v => [(k, v)]
  | (k', v') :: t, k, v =>
    if k < k' then (k, v) :: (k', v') :: t
    else if k = k' then (k, v) :: t
    else (k', v') :: tinsert t k v

/-- Write v at key k: the value an unlisted key reads as removes the entry. -/
def tset {α : Type} [DecidableEq α] (d : α) (t : Table α) (k : Nat) (v : α) : Table α :=
  if v = d then terase t k else tinsert t k v

/-- Change what key k holds. -/
def tmod {α : Type} [DecidableEq α] (d : α) (t : Table α) (k : Nat) (f : α → α) : Table α :=
  tset d t k (f (tget d t k))

/-- The keys rise strictly from `lo` on. -/
def tsorted {α : Type} : Nat → Table α → Bool
  | _, [] => true
  | lo, (k, _) :: t => decide (lo ≤ k) && tsorted (k + 1) t

/-- The canonical form. -/
def twf {α : Type} [DecidableEq α] (d : α) (t : Table α) : Bool :=
  tsorted 0 t && t.all (fun e => !decide (e.2 = d))

/-- The sorted set of numbers that some structures are: insert. -/
def sinsert (k : Nat) : List Nat → List Nat
  | [] => [k]
  | a :: t => if k < a then k :: a :: t else if k = a then a :: t else a :: sinsert k t

/-- Remove from a set of numbers. -/
def serase (k : Nat) (t : List Nat) : List Nat := t.filter (· != k)

/-- The set rises strictly. -/
def ssorted : Nat → List Nat → Bool
  | _, [] => true
  | lo, k :: t => decide (lo ≤ k) && ssorted (k + 1) t

end Sys2Proof.Machine
end

