-- ==== Sys2Proof/Machine/RegMap.lean ====
section
/-! DEFINITION. The register map: every register of the manual's register tables, its block, its offset
in the block, its index dimensions, the masks of its stored, locked and write-1-to-clear fields, and the
reset value of its stored fields (R529 and the register tables of chapters 02 to 18). -/

namespace Sys2Proof.Machine

/-- The four kinds of block (R529). -/
inductive Blk where
  | hub | quad | phot | flash
deriving DecidableEq, Repr

/-- The registers of the manual, by name. -/
inductive Reg where
  | hubCtxCfg | hubCtxPtb | hubSegHbase | hubSegLen | hubSegGfa | hubSegAttr | hubExtOff
  | hubExtLen | hubExtBack | hubExtCtl | hubRvtCfg | hubRvtTimer | hubRvtCc | hubRvtDscp
  | hubRvtMgr | hubRvtUse | hubRvtEvt | hubRvtStat | hubRvtWrap | hubCtxOwner | hubSessInfo
  | hubSessCtl | hubRcCfg | hubRcInval | hubMmStat | hubMmWrap | qdEcCfg | qdEcStat | qdEcWrap
  | dirCfg | dirDomCfg | dirDomMember | dirExtDom | dirUse | dirPeekAddr | dirPeekLo | dirPeekHi
  | dirStat | dirWrap | vrCfg | vrStat | vrWrap | vrRegBase | vrRegLen | vrRegCtl | vrRegInfo
  | vrBind | vrPool | vrPoolFree | hubBorrowCfg | hubBorrowStat | hubBorrowWrap | qdPaceCfg
  | qdPaceSt | qdPaceHead | qdPaceStat | qdPaceWrap | flsInfo | flsCfg | flsMap | flsFtl
  | flsStatus | flsWear | flsStat | flsWrap | teCfg | teUse | teStat | teWrap | sqCfg | sqStat
  | sqWrap | sqLaneSt | sqLaneReq | sqLaneGen | sqLaneShape | sqLaneSize | sqLaneBase | sqLaneCtl
  | seCfg | seUse | seStat | seWrap | guGrpCfg | guGrpMember | guCfg | guUse | guStat | guWrap
  | hubEngCtl | hubDetCfg | hubHdlStat | hubHdlWrap | hubHdlInfo | hubHdlVal | hubTenQuota
  | hubTenUse | qdCtxCfg | qdEngCtl | swBufCfg | swBufUse | swPfcThr | swMirror | swMirIn
  | swMirOut | swStat | swWrap | swQCfg | swQUse | swInUse | swTenWt | swVlanTen | swFlowMatch
  | swFlowEp | swFlowAct | swPolRate | swPolBurst | swGateCtl | swGateBs | swGateBns | swGateEnt
  | fabId | fabCtl | fabEpoch | fabCommit | fabChg | fabHostFloor | fabHbCfg | fabSusCfg
  | fabLease | fabPfx4 | fabPfx6Hi | fabPfx6Lo | fabRtDef | fabPtpCfg | fabPtpSt | fabStat
  | fabWrap | fabMember | fabRt | fabEcmp | fabNbr | fabNbrUnit | fabNbrMac | fabNh | hubErrCfg
  | hubErrUnit | hubErrLogCtl | hubErrLogAck | hubErrInj | hubErrFatal | hubErrStat | hubErrWrap
  | hubErrLog | qdErrStat | qdErrWrap | secBoot | secUpdSrc | secUpdCtl | secImgInfo | secLogVal
  | secStat | secWrap | secRecCtl | secRecBuf | hubId | hubUnitId | hubIdPub | hubCap0 | hubCap1
  | hubCap2 | hubFwVer | hubLock | hubEvtQ | hubEvtPop | hubEvtHead | hubAlertStat | hubAlertMask
  | hubEvtStat | hubEvtWrap | hubPwrCfg | hubPwrSt | hubTempDie | hubTempStk | hubClkSt
  | hubRstCtl | hubPwrStat | hubPwrWrap | phPortCfg | phPortSt | phStat | phWrap
deriving DecidableEq, Repr

/-- One row of a register table. `dims` gives count and stride per index. -/
structure RegDesc where
  blk : Blk
  base : Nat
  dims : List (Nat × Nat) := []
  /-- RW fields -/
  rw : Word := 0
  /-- RWL fields (R539) -/
  rwl : Word := 0
  /-- W1C fields -/
  w1c : Word := 0
  /-- reset value of the stored fields -/
  reset : Word := 0
deriving DecidableEq, Repr

/-- The register tables. -/
def Reg.desc : Reg → RegDesc
  -- 02_addressing.md
  | .hubCtxCfg => { blk := .hub, base := 0x100000, dims := [(4096, 16)], rw := 0xff070003 }
  | .hubCtxPtb => { blk := .hub, base := 0x100008, dims := [(4096, 16)], rw := 0x7fffffff03e0 }
  | .hubSegHbase => { blk := .hub, base := 0x200000, dims := [(4096, 512), (16, 32)],
                      rw := 0xfffffffffffff000 }
  | .hubSegLen => { blk := .hub, base := 0x200008, dims := [(4096, 512), (16, 32)],
                    rw := 0xfffffffff000 }
  | .hubSegGfa => { blk := .hub, base := 0x200010, dims := [(4096, 512), (16, 32)],
                    rw := 0x7ffffffffffff000 }
  | .hubSegAttr => { blk := .hub, base := 0x200018, dims := [(4096, 512), (16, 32)], rw := 0xf }
  | .hubExtOff => { blk := .hub, base := 0x400000, dims := [(4096, 32)], rw := 0x7fffffff0000 }
  | .hubExtLen => { blk := .hub, base := 0x400008, dims := [(4096, 32)], rw := 0x7fffffff0000 }
  | .hubExtBack => { blk := .hub, base := 0x400010, dims := [(4096, 32)], rw := 0x7fffffffffff0000 }
  | .hubExtCtl => { blk := .hub, base := 0x400018, dims := [(4096, 32)], rw := 0xffff0000001fe0 }
  -- 03_transport.md
  | .hubRvtCfg => { blk := .hub, base := 0x1000, rw := 0x3fff03ffff, reset := 0x3000035a71 }
  | .hubRvtTimer => { blk := .hub, base := 0x1008, rw := 0xfffffffffff, reset := 0x14703e80140 }
  | .hubRvtCc => { blk := .hub, base := 0x1010, rw := 0x1ffffffffffff, reset := 0x1240020000080 }
  | .hubRvtDscp => { blk := .hub, base := 0x1018, rw := 0xffffffffffff, reset := 0xe30a20610200 }
  | .hubRvtMgr => { blk := .hub, base := 0x1020, rw := 0xffffffffffffffff,
                    reset := 0xffffffffffffffff }
  | .hubRvtUse => { blk := .hub, base := 0x1028 }
  | .hubRvtEvt => { blk := .hub, base := 0x1030, rw := 0x3ffff }
  | .hubRvtStat => { blk := .hub, base := 0x1100, dims := [(9, 8)] }
  | .hubRvtWrap => { blk := .hub, base := 0x1148, w1c := 0x1ff }
  | .hubCtxOwner => { blk := .hub, base := 0x110000, dims := [(4096, 8)], rw := 0x1ffffffff,
                      reset := 0xffffffff }
  | .hubSessInfo => { blk := .hub, base := 0x500000, dims := [(81920, 16)] }
  | .hubSessCtl => { blk := .hub, base := 0x500008, dims := [(81920, 16)] }
  -- 04_memory_model.md
  | .hubRcCfg => { blk := .hub, base := 0x2000, rw := 0x1ffff, reset := 0x10064 }
  | .hubRcInval => { blk := .hub, base := 0x2008 }
  | .hubMmStat => { blk := .hub, base := 0x2100, dims := [(4, 8)] }
  | .hubMmWrap => { blk := .hub, base := 0x2120, w1c := 0xf }
  | .qdEcCfg => { blk := .quad, base := 0x2000, rw := 0x1 }
  | .qdEcStat => { blk := .quad, base := 0x2100, dims := [(4, 8)] }
  | .qdEcWrap => { blk := .quad, base := 0x2120, w1c := 0xf }
  -- 05_directory.md
  | .dirCfg => { blk := .hub, base := 0x3000, rw := 0xffffffff, reset := 0x800002 }
  | .dirDomCfg => { blk := .hub, base := 0x3100, dims := [(256, 8)], rw := 0x10ffff0000,
                    reset := 0x1f400000 }
  | .dirDomMember => { blk := .hub, base := 0x700000, dims := [(256, 512), (64, 8)], rw := 0x3dfff }
  | .dirExtDom => { blk := .hub, base := 0x720000, dims := [(4096, 8)], rw := 0xff }
  | .dirUse => { blk := .quad, base := 0x3000 }
  | .dirPeekAddr => { blk := .quad, base := 0x3008, rw := 0xffffffffff }
  | .dirPeekLo => { blk := .quad, base := 0x3010 }
  | .dirPeekHi => { blk := .quad, base := 0x3018 }
  | .dirStat => { blk := .quad, base := 0x3100, dims := [(8, 8)] }
  | .dirWrap => { blk := .quad, base := 0x3140, w1c := 0xff }
  -- 06_versioned_regions.md
  | .vrCfg => { blk := .hub, base := 0x4000, rw := 0xffffffff, reset := 0x40000000 }
  | .vrStat => { blk := .hub, base := 0x4100, dims := [(8, 8)] }
  | .vrWrap => { blk := .hub, base := 0x4140, w1c := 0xff }
  | .vrRegBase => { blk := .hub, base := 0x800000, dims := [(65536, 32)], rw := 0x7fffffff0000 }
  | .vrRegLen => { blk := .hub, base := 0x800008, dims := [(65536, 32)], rw := 0x7fffffff0000 }
  | .vrRegCtl => { blk := .hub, base := 0x800010, dims := [(65536, 32)] }
  | .vrRegInfo => { blk := .hub, base := 0x800018, dims := [(65536, 32)], rw := 0xffffffff00000000 }
  | .vrBind => { blk := .hub, base := 0xa00000, dims := [(4096, 128), (16, 8)] }
  | .vrPool => { blk := .quad, base := 0x4000, dims := [(4, 8)], rw := 0x2fff }
  | .vrPoolFree => { blk := .quad, base := 0x4020 }
  -- 07_tiers.md
  | .hubBorrowCfg => { blk := .hub, base := 0x5000, rw := 0xffff, reset := 0x64 }
  | .hubBorrowStat => { blk := .hub, base := 0x5100, dims := [(2, 8)] }
  | .hubBorrowWrap => { blk := .hub, base := 0x5110, w1c := 0x3 }
  | .qdPaceCfg => { blk := .quad, base := 0x5000, rw := 0xff00ffff, reset := 0x100000c8 }
  | .qdPaceSt => { blk := .quad, base := 0x5100, dims := [(8, 16)] }
  | .qdPaceHead => { blk := .quad, base := 0x5108, dims := [(8, 16)] }
  | .qdPaceStat => { blk := .quad, base := 0x5200, dims := [(4, 8)] }
  | .qdPaceWrap => { blk := .quad, base := 0x5220, w1c := 0xf }
  | .flsInfo => { blk := .flash, base := 0x0 }
  | .flsCfg => { blk := .flash, base := 0x8, rw := 0x4ffffffff }
  | .flsMap => { blk := .flash, base := 0x10, rw := 0xfff }
  | .flsFtl => { blk := .flash, base := 0x18, rw := 0xffffffffffffff00, reset := 0x100003207140500 }
  | .flsStatus => { blk := .flash, base := 0x20 }
  | .flsWear => { blk := .flash, base := 0x28 }
  | .flsStat => { blk := .flash, base := 0x100, dims := [(8, 8)] }
  | .flsWrap => { blk := .flash, base := 0x140, w1c := 0xff }
  -- 08_tensor_engine.md
  | .teCfg => { blk := .quad, base := 0x6000, rw := 0xffff0001, reset := 0x640001 }
  | .teUse => { blk := .quad, base := 0x6008 }
  | .teStat => { blk := .quad, base := 0x6100, dims := [(6, 8)] }
  | .teWrap => { blk := .quad, base := 0x6140, w1c := 0x3f }
  -- 09_sequence_decode.md
  | .sqCfg => { blk := .hub, base := 0x7000, rw := 0xffff0000ffff, reset := 0xc8000003e8 }
  | .sqStat => { blk := .quad, base := 0x7100, dims := [(6, 8)] }
  | .sqWrap => { blk := .quad, base := 0x7140, w1c := 0x3f }
  | .sqLaneSt => { blk := .quad, base := 0x100000, dims := [(64, 64)] }
  | .sqLaneReq => { blk := .quad, base := 0x100008, dims := [(64, 64)] }
  | .sqLaneGen => { blk := .quad, base := 0x100010, dims := [(64, 64)] }
  | .sqLaneShape => { blk := .quad, base := 0x100018, dims := [(64, 64)] }
  | .sqLaneSize => { blk := .quad, base := 0x100020, dims := [(64, 64)] }
  | .sqLaneBase => { blk := .quad, base := 0x100028, dims := [(64, 64)] }
  | .sqLaneCtl => { blk := .quad, base := 0x100030, dims := [(64, 64)] }
  -- 10_vector_search.md
  | .seCfg => { blk := .quad, base := 0x8000, rw := 0x1fff }
  | .seUse => { blk := .quad, base := 0x8008 }
  | .seStat => { blk := .quad, base := 0x8100, dims := [(7, 8)] }
  | .seWrap => { blk := .quad, base := 0x8140, w1c := 0x7f }
  -- 11_embedding.md
  | .guGrpCfg => { blk := .hub, base := 0x9000, dims := [(64, 8)], rw := 0xffff007f3f000301,
                   reset := 0x7d0000000000000 }
  | .guGrpMember => { blk := .hub, base := 0xa80000, dims := [(64, 512), (64, 8)],
                      rw := 0x3fffffffffc3fff1 }
  | .guCfg => { blk := .quad, base := 0x9000, rw := 0x1fff }
  | .guUse => { blk := .quad, base := 0x9008 }
  | .guStat => { blk := .quad, base := 0x9100, dims := [(8, 8)] }
  | .guWrap => { blk := .quad, base := 0x9140, w1c := 0xff }
  -- 12_contexts_hurdles.md
  | .hubEngCtl => { blk := .hub, base := 0x6030, dims := [(2, 8)], rw := 0xffff0000000000,
                    reset := 0x640000000000 }
  | .hubDetCfg => { blk := .hub, base := 0x6100, rw := 0x3 }
  | .hubHdlStat => { blk := .hub, base := 0x6200, dims := [(6, 8)] }
  | .hubHdlWrap => { blk := .hub, base := 0x6230, w1c := 0x3f }
  | .hubHdlInfo => { blk := .hub, base := 0xb00000, dims := [(16384, 16)] }
  | .hubHdlVal => { blk := .hub, base := 0xb00008, dims := [(16384, 16)] }
  | .hubTenQuota => { blk := .hub, base := 0xb40000, dims := [(256, 16)], rw := 0x1ffff00007fff }
  | .hubTenUse => { blk := .hub, base := 0xb40008, dims := [(256, 16)] }
  | .qdCtxCfg => { blk := .quad, base := 0xa000, rw := 0x1fff }
  | .qdEngCtl => { blk := .quad, base := 0xa008, dims := [(5, 8)], rw := 0xffff0000000000,
                   reset := 0x640000000000 }
  -- 13_switch_core.md
  | .swBufCfg => { blk := .hub, base := 0xc000, rw := 0xff03ffff00000000,
                   reset := 0xff00800000000000 }
  | .swBufUse => { blk := .hub, base := 0xc008 }
  | .swPfcThr => { blk := .hub, base := 0xc010, rw := 0x3ffff0003ffff, reset := 0x80000000600 }
  | .swMirror => { blk := .hub, base := 0xc018, rw := 0xfffff0ff, reset := 0x1000000 }
  | .swMirIn => { blk := .hub, base := 0xc020, rw := 0xffffffff }
  | .swMirOut => { blk := .hub, base := 0xc028, rw := 0xffffffff }
  | .swStat => { blk := .hub, base := 0xc100, dims := [(10, 8)] }
  | .swWrap => { blk := .hub, base := 0xc150, w1c := 0x3ff }
  | .swQCfg => { blk := .hub, base := 0xc00000, dims := [(38, 64), (8, 8)],
                 rw := 0x3fffffffffffff, reset := 0x4000080000200 }
  | .swQUse => { blk := .hub, base := 0xc01000, dims := [(38, 64), (8, 8)] }
  | .swInUse => { blk := .hub, base := 0xc02000, dims := [(38, 64), (8, 8)] }
  | .swTenWt => { blk := .hub, base := 0xc03000, dims := [(256, 8)], rw := 0xff, reset := 0x1 }
  | .swVlanTen => { blk := .hub, base := 0xc04000, dims := [(4096, 8)], rw := 0xff }
  | .swFlowMatch => { blk := .hub, base := 0xc10000, dims := [(256, 32)], rw := 0x7fff00000000 }
  | .swFlowEp => { blk := .hub, base := 0xc10008, dims := [(256, 32)], rw := 0xffffffffffffffff }
  | .swFlowAct => { blk := .hub, base := 0xc10010, dims := [(256, 32)], rw := 0x103ff }
  | .swPolRate => { blk := .hub, base := 0xc20000, dims := [(1023, 32)], rw := 0xc0ffffff00ffffff }
  | .swPolBurst => { blk := .hub, base := 0xc20008, dims := [(1023, 32)], rw := 0xffffffffffffffff }
  | .swGateCtl => { blk := .hub, base := 0xc30000, dims := [(8, 32)], rw := 0x1ff00000001 }
  | .swGateBs => { blk := .hub, base := 0xc30008, dims := [(8, 32)], rw := 0xffffffffffff }
  | .swGateBns => { blk := .hub, base := 0xc30010, dims := [(8, 32)], rw := 0x3fffffff }
  | .swGateEnt => { blk := .hub, base := 0xc40000, dims := [(8, 4096), (2, 2048), (256, 8)],
                    rw := 0xffffffffff }
  -- 14_fabric.md
  | .fabId => { blk := .hub, base := 0xd000, rw := 0x1ffff }
  | .fabCtl => { blk := .hub, base := 0xd008, rw := 0xffff0000000000 }
  | .fabEpoch => { blk := .hub, base := 0xd010 }
  | .fabCommit => { blk := .hub, base := 0xd018 }
  | .fabChg => { blk := .hub, base := 0xd020 }
  | .fabHostFloor => { blk := .hub, base := 0xd028, rw := 0xffffffff }
  | .fabHbCfg => { blk := .hub, base := 0xd030, rw := 0xffffff01ffffffff, reset := 0x103e80064 }
  | .fabSusCfg => { blk := .hub, base := 0xd038, rw := 0xffff00ffffff, reset := 0xa003203e8 }
  | .fabLease => { blk := .hub, base := 0xd040 }
  | .fabPfx4 => { blk := .hub, base := 0xd048, rw := 0xffff0001 }
  | .fabPfx6Hi => { blk := .hub, base := 0xd050, rw := 0xffffffffffffffff }
  | .fabPfx6Lo => { blk := .hub, base := 0xd058, rw := 0xffffffffffff0000 }
  | .fabRtDef => { blk := .hub, base := 0xd060, rw := 0x303ff }
  | .fabPtpCfg => { blk := .hub, base := 0xd068, rw := 0xff0000ffffffffff, reset := 0x3e8 }
  | .fabPtpSt => { blk := .hub, base := 0xd070 }
  | .fabStat => { blk := .hub, base := 0xd100, dims := [(8, 8)] }
  | .fabWrap => { blk := .hub, base := 0xd140, w1c := 0xff }
  | .fabMember => { blk := .hub, base := 0xd00000, dims := [(65536, 8)] }
  | .fabRt => { blk := .hub, base := 0xd80000, dims := [(65536, 8)], rw := 0x303ff }
  | .fabEcmp => { blk := .hub, base := 0xe00000, dims := [(1024, 128), (16, 8)], rw := 0x3f }
  | .fabNbr => { blk := .hub, base := 0xe20000, dims := [(32, 32)] }
  | .fabNbrUnit => { blk := .hub, base := 0xe20008, dims := [(32, 32)] }
  | .fabNbrMac => { blk := .hub, base := 0xe20010, dims := [(32, 32)] }
  | .fabNh => { blk := .hub, base := 0xe20018, dims := [(32, 32)], rw := 0x1ffffffffffff }
  -- 15_errors.md
  | .hubErrCfg => { blk := .hub, base := 0xe000, rw := 0xffffffffff, rwl := 0x10000000000,
                    reset := 0x1810002710 }
  | .hubErrUnit => { blk := .hub, base := 0xe008 }
  | .hubErrLogCtl => { blk := .hub, base := 0xe010, w1c := 0x100000000 }
  | .hubErrLogAck => { blk := .hub, base := 0xe018 }
  | .hubErrInj => { blk := .hub, base := 0xe020 }
  | .hubErrFatal => { blk := .hub, base := 0xe040, dims := [(4, 8)] }
  | .hubErrStat => { blk := .hub, base := 0xe100, dims := [(8, 8)] }
  | .hubErrWrap => { blk := .hub, base := 0xe140, w1c := 0xff }
  | .hubErrLog => { blk := .hub, base := 0xf00000, dims := [(1024, 32), (4, 8)] }
  | .qdErrStat => { blk := .quad, base := 0xb100, dims := [(8, 8)] }
  | .qdErrWrap => { blk := .quad, base := 0xb140, w1c := 0xff }
  -- 16_boot_firmware.md
  | .secBoot => { blk := .hub, base := 0xf000 }
  | .secUpdSrc => { blk := .hub, base := 0xf008, rw := 0xfff }
  | .secUpdCtl => { blk := .hub, base := 0xf010, rw := 0xe0000000, reset := 0x60000000 }
  | .secImgInfo => { blk := .hub, base := 0xf018 }
  | .secLogVal => { blk := .hub, base := 0xf040, dims := [(8, 8)] }
  | .secStat => { blk := .hub, base := 0xf100, dims := [(6, 8)] }
  | .secWrap => { blk := .hub, base := 0xf130, w1c := 0x3f }
  | .secRecCtl => { blk := .hub, base := 0xf800, rw := 0x100001fff }
  | .secRecBuf => { blk := .hub, base := 0x10000, dims := [(512, 8)], rw := 0xffffffffffffffff }
  -- 17_register_map.md
  | .hubId => { blk := .hub, base := 0x0 }
  | .hubUnitId => { blk := .hub, base := 0x8 }
  | .hubIdPub => { blk := .hub, base := 0x10, dims := [(8, 8)] }
  | .hubCap0 => { blk := .hub, base := 0x50 }
  | .hubCap1 => { blk := .hub, base := 0x58 }
  | .hubCap2 => { blk := .hub, base := 0x60 }
  | .hubFwVer => { blk := .hub, base := 0x80, dims := [(5, 8)] }
  | .hubLock => { blk := .hub, base := 0x100, rwl := 0x3 }
  | .hubEvtQ => { blk := .hub, base := 0x200 }
  | .hubEvtPop => { blk := .hub, base := 0x208 }
  | .hubEvtHead => { blk := .hub, base := 0x210, dims := [(7, 8)] }
  | .hubAlertStat => { blk := .hub, base := 0x300, w1c := 0x1fff }
  | .hubAlertMask => { blk := .hub, base := 0x308, rw := 0x1fff, reset := 0x1280 }
  | .hubEvtStat => { blk := .hub, base := 0x400, dims := [(4, 8)] }
  | .hubEvtWrap => { blk := .hub, base := 0x420, w1c := 0xf }
  -- 18_package_power.md
  | .hubPwrCfg => { blk := .hub, base := 0x800, rw := 0xfffffffff3ff03ff,
                    reset := 0x6a45f6952a802ee }
  | .hubPwrSt => { blk := .hub, base := 0x808 }
  | .hubTempDie => { blk := .hub, base := 0x810 }
  | .hubTempStk => { blk := .hub, base := 0x818, dims := [(2, 8)] }
  | .hubClkSt => { blk := .hub, base := 0x828, w1c := 0x7f00 }
  | .hubRstCtl => { blk := .hub, base := 0x830 }
  | .hubPwrStat => { blk := .hub, base := 0x900, dims := [(4, 8)] }
  | .hubPwrWrap => { blk := .hub, base := 0x920, w1c := 0xf }
  | .phPortCfg => { blk := .phot, base := 0x0, dims := [(4, 16)], rw := 0x7, reset := 0x1 }
  | .phPortSt => { blk := .phot, base := 0x8, dims := [(4, 16)] }
  | .phStat => { blk := .phot, base := 0x100, dims := [(8, 8)] }
  | .phWrap => { blk := .phot, base := 0x140, w1c := 0xff }


/-- Registers, part 1. -/
def Reg.part1 : List Reg := [
  .hubCtxCfg, .hubCtxPtb, .hubSegHbase, .hubSegLen, .hubSegGfa, .hubSegAttr, .hubExtOff,
  .hubExtLen, .hubExtBack, .hubExtCtl, .hubRvtCfg, .hubRvtTimer, .hubRvtCc, .hubRvtDscp,
  .hubRvtMgr, .hubRvtUse, .hubRvtEvt, .hubRvtStat, .hubRvtWrap, .hubCtxOwner, .hubSessInfo,
  .hubSessCtl, .hubRcCfg, .hubRcInval, .hubMmStat, .hubMmWrap, .qdEcCfg, .qdEcStat, .qdEcWrap,
  .dirCfg, .dirDomCfg, .dirDomMember, .dirExtDom, .dirUse, .dirPeekAddr, .dirPeekLo, .dirPeekHi,
  .dirStat, .dirWrap, .vrCfg, .vrStat, .vrWrap, .vrRegBase, .vrRegLen, .vrRegCtl, .vrRegInfo,
  .vrBind, .vrPool]

/-- Registers, part 2. -/
def Reg.part2 : List Reg := [
  .vrPoolFree, .hubBorrowCfg, .hubBorrowStat, .hubBorrowWrap, .qdPaceCfg, .qdPaceSt, .qdPaceHead,
  .qdPaceStat, .qdPaceWrap, .flsInfo, .flsCfg, .flsMap, .flsFtl, .flsStatus, .flsWear, .flsStat,
  .flsWrap, .teCfg, .teUse, .teStat, .teWrap, .sqCfg, .sqStat, .sqWrap, .sqLaneSt, .sqLaneReq,
  .sqLaneGen, .sqLaneShape, .sqLaneSize, .sqLaneBase, .sqLaneCtl, .seCfg, .seUse, .seStat,
  .seWrap, .guGrpCfg, .guGrpMember, .guCfg, .guUse, .guStat, .guWrap, .hubEngCtl, .hubDetCfg,
  .hubHdlStat, .hubHdlWrap, .hubHdlInfo, .hubHdlVal, .hubTenQuota]

/-- Registers, part 3. -/
def Reg.part3 : List Reg := [
  .hubTenUse, .qdCtxCfg, .qdEngCtl, .swBufCfg, .swBufUse, .swPfcThr, .swMirror, .swMirIn,
  .swMirOut, .swStat, .swWrap, .swQCfg, .swQUse, .swInUse, .swTenWt, .swVlanTen, .swFlowMatch,
  .swFlowEp, .swFlowAct, .swPolRate, .swPolBurst, .swGateCtl, .swGateBs, .swGateBns, .swGateEnt,
  .fabId, .fabCtl, .fabEpoch, .fabCommit, .fabChg, .fabHostFloor, .fabHbCfg, .fabSusCfg,
  .fabLease, .fabPfx4, .fabPfx6Hi, .fabPfx6Lo, .fabRtDef, .fabPtpCfg, .fabPtpSt, .fabStat,
  .fabWrap, .fabMember, .fabRt, .fabEcmp, .fabNbr, .fabNbrUnit, .fabNbrMac]

/-- Registers, part 4. -/
def Reg.part4 : List Reg := [
  .fabNh, .hubErrCfg, .hubErrUnit, .hubErrLogCtl, .hubErrLogAck, .hubErrInj, .hubErrFatal,
  .hubErrStat, .hubErrWrap, .hubErrLog, .qdErrStat, .qdErrWrap, .secBoot, .secUpdSrc, .secUpdCtl,
  .secImgInfo, .secLogVal, .secStat, .secWrap, .secRecCtl, .secRecBuf, .hubId, .hubUnitId,
  .hubIdPub, .hubCap0, .hubCap1, .hubCap2, .hubFwVer, .hubLock, .hubEvtQ, .hubEvtPop,
  .hubEvtHead, .hubAlertStat, .hubAlertMask, .hubEvtStat, .hubEvtWrap, .hubPwrCfg, .hubPwrSt,
  .hubTempDie, .hubTempStk, .hubClkSt, .hubRstCtl, .hubPwrStat, .hubPwrWrap, .phPortCfg,
  .phPortSt, .phStat, .phWrap]

/-- All registers, in the order of the chapters. -/
def Reg.all : List Reg := Reg.part1 ++ Reg.part2 ++ Reg.part3 ++ Reg.part4

/-- One register of the space: its row, its block instance (quadrant or photonic engine) and indices. -/
structure RegAt where
  reg : Reg
  inst : Nat := 0
  i : Nat := 0
  j : Nat := 0
  k : Nat := 0
deriving DecidableEq, Repr

/-- First offset of a block instance (R529). -/
def Blk.base : Blk → Nat → Nat
  | .hub, _ => 0
  | .quad, q => 0x01000000 * (q + 1)
  | .phot, p => 0x05000000 + 0x01000000 * p
  | .flash, _ => 0x07000000

/-- The block and the instance of an offset (R529). -/
def Blk.of (off : Nat) : Option (Blk × Nat) :=
  match off / 0x01000000 with
  | 0 => some (.hub, 0)
  | 1 => some (.quad, 0) | 2 => some (.quad, 1) | 3 => some (.quad, 2) | 4 => some (.quad, 3)
  | 5 => some (.phot, 0) | 6 => some (.phot, 1)
  | 7 => some (.flash, 0)
  | _ => none

/-- The indices that an offset relative to a register's base spells, all dimensions. -/
def dimsAt : List (Nat × Nat) → Nat → Option (List Nat)
  | [], rel => if rel = 0 then some [] else none
  | (count, stride) :: ds, rel =>
    if rel / stride < count then (dimsAt ds (rel % stride)).map (rel / stride :: ·) else none

/-- The register of row r at an offset of its block. -/
def Reg.at? (r : Reg) (inst rel : Nat) : Option RegAt :=
  if r.desc.base ≤ rel then
    (dimsAt r.desc.dims (rel - r.desc.base)).map fun ix =>
      { reg := r, inst := inst, i := ix.getD 0 0, j := ix.getD 1 0, k := ix.getD 2 0 }
  else none

/-- The register at an offset of the management space; `none` where none lies (R15, R529). -/
def regAt? (off : Nat) : Option RegAt :=
  match Blk.of off with
  | none => none
  | some (b, inst) =>
    Reg.all.findSome? fun r => if r.desc.blk = b then r.at? inst (off % 0x01000000) else none

/-- Offset of the entry that indices i, j, k name. -/
def dimsOff : List (Nat × Nat) → List Nat → Nat
  | (_, st) :: ds, i :: is => i * st + dimsOff ds is
  | _, _ => 0

/-- The offset of a register in the management space. -/
def RegAt.off (a : RegAt) : Nat :=
  a.reg.desc.blk.base a.inst + a.reg.desc.base + dimsOff a.reg.desc.dims [a.i, a.j, a.k]

end Sys2Proof.Machine
end

