-- ==== Sys2Proof/Machine/State.lean ====
section
/-! DEFINITION. Everything the manual gives the device to hold, as plain data, and the state right
after reset. Registers that software writes stand in two banks keyed by their offset; everything the
device keeps behind a read-only field is typed, and the register is a view of it. -/

namespace Sys2Proof.Machine

/-- Why a step stops with a fault. The manual gives no command that stops the machine: every failure
is a status of R16, so no meaning raises one of these. -/
inductive Fault where
  /-- nobody raises it; kept because an outcome has the form. Safe: no command ends in it. -/
  | none
deriving DecidableEq, Repr

/-- Why a step refuses a command. -/
inductive Refusal where
  /-- raised by an arm of `exec` whose command has no meaning yet. Safe: nothing is claimed of it. -/
  | notModelled (mnemonic : String)
deriving DecidableEq, Repr

/-! ### Transport (03_transport.md) -/

/-- R91, HUB_SESS_INFO state codes. -/
inductive SessState where
  | closed | opening | open | closing | failed
deriving DecidableEq, Repr

/-- One RVT message the device sends: type byte, header, payload (R94, R95). -/
structure Msg where
  typ : Byte
  hdr : Hdr
  payload : List Byte
  /-- the context it is sent for, whose tenant its frame takes (R434) -/
  ctx : Option Nat := none
deriving DecidableEq, Repr

/-- The receive side of one stream (R100, R103, R113). -/
structure RxStream where
  /-- the expected sequence number e of R100 -/
  expected : Word32 := 0
  /-- when the last RVT_NAK left: at most one per rto_init (R100) -/
  lastNak : Option Nat := none
  /-- since when an acknowledgement is owed (R103) -/
  ackDue : Option Nat := none
  /-- the sequence number of the CE-marked message whose echo is owed (R113) -/
  echo : Option Word32 := none
deriving DecidableEq, Repr

/-- The transmit side of one stream (R88, R101 to R106, R112, R117). -/
structure TxStream where
  next : Word32 := 0
  /-- sent and not acknowledged, oldest first -/
  unacked : List Msg := []
  /-- waiting for room in cwnd, oldest first (R112) -/
  waiting : List Msg := []
  /-- retransmission timer: its length in ns, and when it was started -/
  rto : Nat := 0
  armed : Option Nat := none
  expiries : Nat := 0
  /-- bytes (R112) -/
  cwnd : Nat := 0
  /-- the sequence number that ends the current window, and whether it met an ece -/
  winEnd : Word32 := 0
  winEce : Bool := false
  /-- cwr is owed on the next sequenced message (R113) -/
  cwr : Bool := false
  /-- the stream's path (R82) -/
  srcPort : BitVec 16 := 0
deriving DecidableEq, Repr

/-- One session (R87 to R91). -/
structure Session where
  state : SessState := .closed
  ver : Byte := 0
  peerEp : Word32 := 0
  ip : IpAddr := .v6 0
  /-- the peer's session ID, the dst_sess of messages to it -/
  peerSess : Word32 := 0
  /-- isn and open_sess of the RVT_OPEN that opened it (R90) -/
  openIsn : Word32 := 0
  openSess : Word32 := 0
  /-- the device's own ISN -/
  isn : Word32 := 0
  /-- the device opened it -/
  opener : Bool := false
  /-- when it entered OPENING -/
  since : Nat := 0
  /-- which opening of this index it is -/
  inc : Nat := 0
  rx : Table RxStream := []
  tx : Table TxStream := []
deriving DecidableEq, Repr

/-- What a requester tag of the device's own requests is held for (R109). -/
inductive ReqKind where
  /-- part `part` of access `cmd`, forwarded to an owner (R49) or a lender (R234) -/
  | fwd (cmd part : Nat) (lender : Bool)
  /-- a recall of a line to host index `host` (R179) -/
  | recall (line : Nat) (host : Nat)
  /-- a Baton message of Lane `lane` (R325) -/
  | baton (lane : Nat) (typ : Byte)
  /-- a Heat part of relay command `cmd` (R384) -/
  | heat (cmd part : Nat)
  /-- a forwarded Hurdle command (R421) -/
  | hdlPeer (cmd : Nat)
  /-- a forwarded signal watch: where its signal goes, and whose quota it counts against -/
  | hdlSignal (gfa : Nat) (tenant ctx : Nat) (epoch : Nat)
  /-- FAB_REPORT (R473) -/
  | report
deriving DecidableEq, Repr

/-- A held requester tag. -/
structure DevReq where
  kind : ReqKind
  sess : Nat
  inc : Nat
  /-- when the request left (R234) -/
  since : Nat
  /-- device or endpoint it was sent to -/
  peer : Word32
deriving DecidableEq, Repr

/-- A device request that waits for a requester tag (R109), or for its session to open. -/
structure ReqWait where
  kind : ReqKind
  peer : Word32
  cls : Nat
  msg : Msg
deriving DecidableEq, Repr

structure Transport where
  sessions : Table Session := []
  /-- openings so far -/
  incs : Nat := 0
  /-- last RVT_CLOSE of R93 and last refusal of R588, per source address -/
  lastClose : List (IpAddr × Nat) := []
  lastRefuse : List (IpAddr × Nat) := []
  /-- requester tags 0 to 16,383 held (R109) -/
  reqs : List (Nat × DevReq) := []
  /-- where the search for a free requester tag starts -/
  reqNext : Nat := 0
  reqWait : List ReqWait := []
  /-- borrowed and forwarded requests that ended by their bound: tag, session, opening (R234) -/
  late : List (Nat × Nat × Nat) := []
  /-- Heat parts whose command has ended: tag, session, opening, quadrant (R391) -/
  lateHeat : List (Nat × Nat × Nat × Nat) := []
  /-- the hub's translation cache: table offset, entry index, entry (R70) -/
  ptCache : List (Nat × Nat × Word) := []
deriving DecidableEq, Repr

/-! ### Accepted commands (R35, R109) -/

/-- Where a run of bytes lies: an HBM address by stack * 2^36 + stack address, or a flash user
offset. A run never leaves its interleave unit. -/
inductive Loc where
  | hbm (a : Nat)
  | fls (off : Nat)
deriving DecidableEq, Repr

/-- VR_BIND modes (R205). -/
inductive BindMode where
  | none | read | write | retired
deriving DecidableEq, Repr

/-- One binding (R205). -/
structure Binding where
  mode : BindMode := .none
  region : Nat := 0
  slot : Nat := 0
  lap : Word32 := 0
deriving DecidableEq, Repr

/-- The message an accepted command came with, for its completion (R91, R92, R99, R109). -/
structure Origin where
  sess : Nat
  inc : Nat
  cls : Nat
  seq : Word32
  tag : Word32
  /-- the ctx field as sent, echoed -/
  ctxField : BitVec 16
  typ : Byte
  peer : Word32
  /-- the gfa flag was set: a peer request -/
  gfa : Bool
deriving DecidableEq, Repr

/-- Who an accepted command or internal request belongs to. -/
inductive Src where
  | msg (o : Origin)
  /-- an internal access of engine command `cmd` (R39) -/
  | engine (cmd : Nat)
  /-- an internal access that serves the held Heat part `cmd` (R386) -/
  | heat (cmd : Nat)
  /-- the signal of a Hurdle watch (R419) -/
  | hurdle
  /-- an engine-cache write-back of quadrant q; with `evict` the line leaves the cache behind it (R133) -/
  | writeBack (q : Nat) (evict : Bool)
  /-- page `page` of a tile that stream k of quadrant q moves; its write when `wr` (R253, R258) -/
  | tile (q k tile page : Nat) (wr : Bool)
  /-- a read of the Starter's update: which run of reads, and the byte of the image (R522) -/
  | update (run pos : Nat)
  /-- the corrective write of a scrubbed HBM sector, which a busy line has refused (R188, R487) -/
  | scrub (sector : Nat)
deriving DecidableEq, Repr

inductive AccKind where
  | read | write | atomic | signal
deriving DecidableEq, Repr

/-- How one part of an access ended: the stage that decided it, its status, its bytes. -/
structure PartRes where
  stage : Nat
  status : Byte
  data : List Byte
  /-- sectors of the part, from its first, whose marks gave POISON -/
  marks : List Nat := []
deriving DecidableEq, Repr

inductive PartState where
  /-- parked at stage 4 behind a busy line (R187) -/
  | parked
  /-- refused with RETRY and backing off: since when (R188) -/
  | backoff (since : Nat)
  /-- its line's transaction is in progress -/
  | txn
  /-- sent to another device; in stage 6 -/
  | fwd
  /-- in stage 6 at the flash die since then, on the runs and the home that stage 4 gave it: waits for
  buffer space, or for the tier (R36, R240, R497) -/
  | flash (since : Nat) (runs : List (Loc × Nat × Nat)) (home : Nat)
  | done (r : PartRes)
deriving DecidableEq, Repr

/-- One part of a request split by R60. -/
structure Part where
  pos : Nat
  len : Nat
  dev : Nat
  off : Nat
  /-- the extent that stage 3 found for it -/
  ext : Nat := 0
  /-- it was widened to whole lines when it was forwarded (R135) -/
  wide : Bool := false
  /-- the bound of its last backoff, 0 before any (R188) -/
  last : Nat := 0
  st : PartState
deriving DecidableEq, Repr

/-- A memory access: what it does, where, and how far it is. -/
structure Access where
  kind : AccKind
  vol : Bool := false
  unord : Bool := false
  bind : Option Binding := none
  gfa : Nat
  len : Nat
  data : List Byte := []
  aop : Byte := 0
  a : Word := 0
  b : Word := 0
  /-- byte of the access whose datapath word arrived uncorrectable (R482) -/
  hurt : Option Nat := none
  /-- sectors of the data, from the first, that are written marked (R486) -/
  marks : List Nat := []
  /-- the owner's answer had nc set (R94) -/
  nc : Bool := false
  /-- a write-back of a line writes only these bytes of it (R131) -/
  mask : Option (BitVec 128) := none
  /-- what stage 4 gave a read of a published version: the Lap of its pool page, or the base backing -/
  seen : Option (Option Word32) := none
  parts : List Part := []
deriving DecidableEq, Repr

inductive CohKind where
  | readS | readE | upgrade | wb | evict
deriving DecidableEq, Repr

/-- A coherence request of a host agent (R174). -/
structure CohReq where
  kind : CohKind
  line : Nat
  domain : Nat
  host : Nat
  data : List Byte
  keep : Bool
  /-- the binding that stage 3 attached (R206) -/
  bind : Option Binding := none
deriving DecidableEq, Repr

/-- An operand of an engine command, translated at acceptance (R67). -/
structure Opnd where
  gfa : Nat
  len : Nat
  rd : Bool
  wr : Bool
deriving DecidableEq, Repr

/-- Bytes fetched for one engine command, a line (R133, R134) or a 4 KiB page (R253): GFA line of the
first byte, bytes, marks of their sectors. -/
structure Fetched where
  line : Nat
  data : List Byte
  poison : BitVec 64
deriving DecidableEq, Repr

/-- The progress of a tensor program (R276 to R282, R302); no entries until its program is read. -/
structure TeProg where
  entries : List (List Byte) := []
  /-- entries completed -/
  next : Nat := 0
  /-- entry `next` has begun -/
  busy : Bool := false
  /-- the program slot it is resident in -/
  slot : Option Nat := none
  /-- it has run and is saved -/
  saved : Bool := false
  /-- place in the order in which programs became ready -/
  order : Nat := 0
  /-- when it became resident -/
  since : Nat := 0
  /-- one past the highest workspace byte written -/
  high : Nat := 0
  varied : Bool := false
  /-- bal of the command and the controls, as they stood at stage 6 (R297, R430) -/
  bal : Bool := false
  /-- Lanes of the current TE_ATTEND entry, its rows that have completed, and those that wait on their
  Lanes, with the time they began to (R318, R321) -/
  lanes : List Nat := []
  rowsDone : List Nat := []
  rowWait : List (Nat × Nat) := []
  /-- weight tiles that the current TE_MATMUL entry has read -/
  tiles : List (List Byte) := []
  /-- since when it waits for a tile of a stream (R260) -/
  waitSince : Option Nat := none
deriving DecidableEq, Repr

/-- A part of a Heat that a relay command sent (R384 to R386). -/
structure SentPart where
  owner : Nat
  payload : List Byte
  pos : Nat
  n : Nat
  answered : Bool := false
  /-- refused with RETRY: since when, and the bound in ns (R386) -/
  backoff : Option (Nat × Nat) := none
  bound : Nat := 0
deriving DecidableEq, Repr

/-- The progress of a gather or scatter command (R367 to R393). -/
structure GuRun where
  /-- the table header, once its checks have passed -/
  hdr : List Byte := []
  /-- GFA of the io operand (R371) -/
  io : Nat := 0
  /-- row indices, once they have passed their check -/
  idx : Option (List Nat) := none
  lap : Nat := 0
  /-- output rows or positions of its own share that are behind it -/
  next : Nat := 0
  done : Nat := 0
  padded : Nat := 0
  lapDiffers : Bool := false
  /-- its own share is done -/
  ownDone : Bool := false
  /-- member and position of the next part to send -/
  sendTo : Nat := 0
  sendPos : Nat := 0
  parts : List SentPart := []
  /-- members whose last part it has received, and how many parts each sent (R389) -/
  lastFrom : List (Nat × Nat) := []
  /-- the member of every part it has received -/
  gotFrom : List Nat := []
  /-- updates of its own share in a round with det 1: row, FP32 values (R389) -/
  upd : List (Nat × List Byte) := []
  /-- adds still to perform, in order: row, FP32 values, and whether they are a position of its own share -/
  work : List (Nat × List Byte × Bool) := []
  /-- a row is being written, or a position added: whether it is of its own share -/
  flight : Option Bool := none
  /-- a round with det 1 performs its adds -/
  applying : Bool := false
  /-- the status with which it refused a part of a round with det 1 -/
  refused : Option Byte := none
  /-- the write-backs of its output that it awaits before it advances its Hurdle (R422) -/
  backs : Option (List Nat) := none
deriving DecidableEq, Repr

inductive Phase where
  /-- not started, or nothing to remember -/
  | none
  | te (p : TeProg)
  | gu (g : GuRun)
  /-- a TILE_MOVE: next tile, and whether it copied a poisoned sector (R254) -/
  | move (next : Nat) (poisoned : Bool)
  /-- a query on a thread (R360), with what SE_STAT(2) to (5) have counted of it -/
  | thread (counted : List Nat)
  /-- a query that waits for a thread, in arrival order -/
  | noThread (order : Nat)
  /-- the write-backs that a common command waits for (R145) -/
  | cache (ids : List Nat)
  /-- a running stream's PACE_START -/
  | stream
  /-- a completion watch: registration number (R419) -/
  | watch (n : Nat)
  /-- waits for the answer of a peer -/
  | peer
  /-- SQ_OFFER or SQ_QUERY waits on its Lane -/
  | lane
deriving DecidableEq, Repr

/-- An accepted engine command (R122, R39). -/
structure Eng where
  unit : Nat
  quad : Nat
  queue : Nat
  op : Byte
  body : List Byte
  opnds : List Opnd := []
  binds : List Binding := []
  started : Bool := false
  /-- when it reached stage 6 -/
  since : Nat := 0
  phase : Phase := .none
  fetched : List Fetched := []
  /-- internal requests not answered -/
  waits : Nat := 0
  /-- conditions found so far -/
  conds : List Byte := []
  /-- the status of a kill, which replaces every condition (R406, R407) -/
  killed : Option Byte := none
  /-- its writes are out: it completes with `payload` when they have ended -/
  issued : Bool := false
  payload : List Byte := []
deriving DecidableEq, Repr

/-- A Heat part that an owner holds or serves (R386, R387). -/
structure HeldPart where
  group : Nat
  src : Nat
  quad : Nat
  payload : List Byte
  since : Nat
  /-- it stands in the buffer until it is answered (R387, R389) -/
  buffered : Bool := false
  /-- rows 5 and 6 of R386 have been passed -/
  checked : Bool := false
  /-- entries served, lines read, internal requests not answered, conditions found -/
  next : Nat := 0
  fetched : List Fetched := []
  waits : Nat := 0
  conds : List Byte := []
deriving DecidableEq, Repr

inductive Body where
  | access (a : Access)
  /-- an ordered signal held before stage 3 (R156) -/
  | held (a : Access)
  /-- per class covered, the number that ends the covered ones (R115) -/
  | fence (upto : List (Nat × Word32))
  /-- the accepted commands it waits for (R159) -/
  | drain (covers : List Nat)
  | coh (c : CohReq)
  | eng (e : Eng)
  /-- SEC_ATTEST queued to the key engine (R521) -/
  | attest (what : Nat) (nonce : List Byte)
  | heat (h : HeldPart)
deriving DecidableEq, Repr

/-- An accepted command that has not completed. -/
structure Cmd where
  id : Nat
  src : Src
  ctx : Nat := 0
  tenant : Nat := 0
  /-- marked by a REVOKE of these extents (R72) -/
  marks : List Nat := []
  body : Body
deriving DecidableEq, Repr

/-! ### Memory (02, 04, 15) -/

structure Memory where
  /-- HBM bytes by stack * 2^36 + stack address; an unlisted byte reads `Memory.blank` -/
  hbm : List Host.Cell := []
  /-- poisoned HBM sectors, by address / 64, rising (R484) -/
  poison : List Nat := []
  /-- sectors with one corrupted symbol, by address / 64, rising (HUB_ERR_INJ kind 1) -/
  flawed : List Nat := []
  /-- sectors that no read can correct and none has met yet (HUB_ERR_INJ kind 2) -/
  broken : List Nat := []
deriving DecidableEq, Repr

/-- A line of an engine cache (R133): bytes, which are valid, which are dirty, its sectors' marks. -/
structure EcLine where
  data : List Byte
  valid : BitVec 128
  dirty : BitVec 128
  poison : BitVec 2
  /-- dirty bytes whose extent has been revoked since they were written (R137) -/
  gone : BitVec 128 := 0
  /-- a line of a published version: the Lap of its pool page, or the base backing (R136, R209); `none` for a
  line outside every region -/
  ver : Option (Option Word32) := none
deriving DecidableEq, Repr

/-- A line of the hub read cache (R135). -/
structure RcLine where
  line : Nat
  data : List Byte
  filled : Nat
deriving DecidableEq, Repr

structure Caches where
  /-- engine-cache lines by quadrant and GFA line, in order of last use -/
  ec : List ((Nat × Nat) × EcLine) := []
  rc : List RcLine := []
deriving DecidableEq, Repr

/-! ### Extents and segments (02_addressing.md) -/

inductive ExtState where
  | free | filling | active | revoking | drained
deriving DecidableEq, Repr

structure Extent where
  state : ExtState := .free
  lastStatus : Byte := 0
  /-- registers of the entry not rewritten since it was marked faulted (R483) -/
  fault : BitVec 4 := 0
deriving DecidableEq, Repr

structure Extents where
  ext : Table Extent := []
  /-- staged host base, length and GFA by (16c + s) (R63) -/
  segStage : List (Nat × (Word × Word × Word)) := []
  /-- contexts, segments (16c + s) and routes marked faulted: their registers not rewritten since
  (R483) -/
  ctxFault : Table (BitVec 2) := []
  segFault : Table (BitVec 4) := []
  rtFault : List Nat := []
deriving DecidableEq, Repr

/-! ### Directory (05_directory.md) -/

inductive DomState where
  | idle | up | failing | down
deriving DecidableEq, Repr

structure Domain where
  state : DomState := .idle
  lastStatus : Byte := 0
  /-- host index whose recall failed, 0xFF for op DOWN and unit failures (R196, R490) -/
  member : Byte := 0xFF
deriving DecidableEq, Repr

inductive DirState where
  | free | shared | excl | oshared
deriving DecidableEq, Repr

/-- A directory entry (R171); busy is the presence of a transaction on its line. -/
structure DirEntry where
  state : DirState := .free
  owner : Nat := 0
  domain : Nat := 0
  sharers : BitVec 64 := 0
  /-- when it was last used (R173) -/
  age : Nat := 0
deriving DecidableEq, Repr

/-- Recall kinds of R179. -/
inductive RecallKind where
  | inval | downgrade | supply
deriving DecidableEq, Repr

structure Recall where
  host : Nat
  kind : RecallKind
  /-- when it was sent, on the time-of-day counter (R194) -/
  since : Nat
  /-- the host said wb_sent: its COH_WB closes it (R191) -/
  wbSent : Bool := false
deriving DecidableEq, Repr

/-- Whom a line transaction serves. -/
inductive TxnFor where
  | coh (cmd : Nat)
  | part (cmd part : Nat)
  /-- a REVOKE of extent n (R185) -/
  | revoke (n : Nat)
  /-- a DECLARE of region r (R226) -/
  | declare (r : Nat)
  /-- nothing: the victim of a request that has ended is freed (R173, R195) -/
  | evict
deriving DecidableEq, Repr

/-- A transaction on a line (R182 to R186, R193). -/
structure Txn where
  line : Nat
  purpose : TxnFor
  /-- line being evicted to make room for this one (R173); the recalls are the victim's while it stands -/
  victim : Option Nat := none
  recalls : List Recall := []
  /-- hosts still to be asked by SUPPLY, nearest first (R193) -/
  supply : List Nat := []
  /-- line bytes an answer brought, and whether a write-back brought them, which memory holds (R190) -/
  data : Option (List Byte) := none
  wb : Bool := false
  /-- hosts that answered held 0 to a DOWNGRADE, or dropped by R190 -/
  dropped : List Nat := []
  /-- recalls done; waits for the acknowledgement of the grant: session, opening, class, number -/
  grant : Option (Nat × Nat × Nat × Word32) := none
deriving DecidableEq, Repr

structure Directory where
  domains : Table Domain := []
  /-- entries by device line number -/
  entries : Table DirEntry := []
  txns : List Txn := []
  /-- waiting requests in arrival order: line, command, part (R187) -/
  parked : List (Nat × Nat × Nat) := []
  /-- requests held at the input of stage 4 of a quadrant whose wait space is full: quadrant, command,
  part (R187) -/
  input : List (Nat × Nat × Nat) := []
  /-- recalls closed before their own answer came: requester tag, session, opening, home quadrant
  (R190, R195) -/
  late : List (Nat × Nat × Nat × Nat) := []
  /-- DIR_PEEK_HI and DIR_PEEK_LO per quadrant -/
  peek : Table (Word × Word) := []
  /-- counts uses, for the ages -/
  uses : Nat := 0
deriving DecidableEq, Repr

/-! ### Versioned regions (06_versioned_regions.md) -/

inductive RegionState where
  | free | declaring | ready | folding | ended
deriving DecidableEq, Repr

/-- A version in a slot: published at its Lap, or private and based on it (R204, R205). -/
structure Version where
  published : Bool
  lap : Word32
deriving DecidableEq, Repr

structure Region where
  state : RegionState := .free
  lastStatus : Byte := 0
  curLap : Word32 := 0
  /-- versions by slot, 0 to 63 -/
  slots : List (Nat × Version) := []
deriving DecidableEq, Repr

/-- A pool page in use: its map entry (R221), its extent and its place there. -/
structure PoolPage where
  region : Nat
  slot : Nat
  published : Bool
  lap : Word32
  page : Nat
  ext : Nat
  place : Nat
deriving DecidableEq, Repr

structure Pool where
  attached : Bool := false
  lastStatus : Byte := 0
deriving DecidableEq, Repr

structure Regions where
  regions : Table Region := []
  /-- bindings by 16c + j -/
  binds : Table Binding := []
  /-- pool registers by 4q + k -/
  pools : Table Pool := []
  pages : List PoolPage := []
deriving DecidableEq, Repr

/-! ### Flash tier and Pacer (07_tiers.md) -/

inductive FlashState where
  | off | starting | ready | failed
deriving DecidableEq, Repr

/-- A 4 KiB translation page: its bytes and the marks of its 64 sectors (R239). -/
structure FPage where
  valid : Bool := false
  data : List Byte := []
  mask : BitVec 64 := 0
  /-- the block that holds it, within its channel, and its 4 KiB place there -/
  block : Nat := 0
  slot : Nat := 0
deriving DecidableEq, Repr

structure Block where
  erases : Nat := 0
  reads : Nat := 0
  used : Nat := 0
  retired : Bool := false
deriving DecidableEq, Repr

structure Flash where
  state : FlashState := .off
  lastStatus : Byte := 0
  pop : Option NandPop := none
  /-- the user_cap that the NAND records; `none` for a blank NAND (R238) -/
  recorded : Option Nat := none
  /-- the map and the NAND pages behind it, by translation page (R237, R239) -/
  nand : Table FPage := []
  /-- the staging buffer, by translation page (R240) -/
  stage : Table FPage := []
  /-- blocks by channel * 2^20 + block, and each channel's open block -/
  blocks : Table Block := []
  open_ : Table Nat := []
  /-- flash-wear thresholds already raised (R247) -/
  wearRaised : List Nat := []
  /-- last expiry of the flash watchdog (R497) -/
  wdLast : Option Nat := none
  /-- FLASH_SYNC commands that wait, each with the staged pages it still covers (R255) -/
  syncs : List (Nat × List Nat) := []
  /-- by channel: pages that garbage collection has freed while the free blocks stood below gc_crit, and that the
  buffer may still admit (R246) -/
  credit : Table Nat := []
deriving DecidableEq, Repr

inductive StreamState where
  | idle | running | draining | ending
deriving DecidableEq, Repr

/-- A Pacer stream (R256 to R262). -/
structure Stream where
  state : StreamState := .idle
  lastStatus : Byte := 0
  /-- schedule entries: source offset, count -/
  sched : List (Nat × Nat) := []
  loops : Nat := 0
  lead : Nat := 0
  slots : Nat := 0
  src : Nat := 0
  stage : Nat := 0
  head : Nat := 0
  nextFetch : Nat := 0
  /-- tiles being fetched: tile, pages outstanding -/
  inflight : List (Nat × Nat) := []
  staged : List Nat := []
  released : List Nat := []
  cmd : Nat := 0
  /-- statuses on entry to ENDING: PACE_START's and the consumers' -/
  endStatus : Byte := 0
  consStatus : Byte := 0
deriving DecidableEq, Repr

/-! ### Tensor, sequence, search, gather (08 to 11) -/

structure Tensor where
  /-- workspace bytes by (2q + slot) * 2^24 + offset -/
  ws : Table Byte := []
  /-- order in which programs became ready -/
  orders : Nat := 0
  /-- multiply-accumulates beyond the last whole 2^20, by quadrant (R303) -/
  macs : Table Nat := []
deriving DecidableEq, Repr

inductive LaneState where
  | free | armed | receiving | held | offered | taken | released | lost
deriving DecidableEq, Repr

/-- A Lane (R304, R305, R312, R318, R327). -/
structure Lane where
  state : LaneState := .free
  /-- bytes 2 to 19 of SQ_OPEN or SQ_ARM: the configuration (R308, R326) -/
  config : List Byte := []
  cap : Nat := 0
  ctx : Nat := 0
  reqId : Word := 0
  gen : Word32 := 0
  peer : BitVec 16 := 0xFFFF
  len : Nat := 0
  cursor : Nat := 0
  /-- the step's append mode, set by the row that finds the cursor at 0 (R318) -/
  append : Bool := false
  base : Nat := 0
  cacheLen : Nat := 0
  /-- the peer's Lane, and the generation and len offered -/
  peerLane : Nat := 0
  offGen : Word32 := 0
  offLen : Nat := 0
  offReq : Word := 0
  /-- BATON_OFFER has completed with OK -/
  offerOk : Bool := false
  /-- image bytes sent and acknowledged with OK, or received, by 4 KiB offset -/
  sent : Nat := 0
  acked : Nat := 0
  got : List (Nat × List Byte) := []
  /-- the handoff session and opening -/
  sess : Nat := 0
  inc : Nat := 0
  /-- last Baton event, for baton_to (R330) -/
  since : Nat := 0
  /-- a BATON_QUERY is due or repeated (R330) -/
  querying : Bool := false
deriving DecidableEq, Repr

structure Group where
  active : Option Nat := none
  started : Option Nat := none
  completed : Option Nat := none
  /-- a part of a round with det 1 was refused before the round started here: round, status (R389) -/
  refused : Option (Nat × Byte) := none
deriving DecidableEq, Repr

structure Gather where
  groups : Table Group := []
  bufStatus : Table Byte := []
deriving DecidableEq, Repr

/-! ### Engine units and Hurdles (12_contexts_hurdles.md) -/

inductive UnitState where
  | enabled | quiescing | killing | disabled
deriving DecidableEq, Repr

structure EngUnit where
  state : UnitState := .enabled
  lastStatus : Byte := 0
  since : Nat := 0
  /-- its microcode is being reloaded: ENABLED follows DISABLED (R497) -/
  reload : Bool := false
deriving DecidableEq, Repr

structure Hurdle where
  alloc : Bool := false
  peerOk : Bool := false
  tenant : Nat := 0
  value : Word := 0
  faulted : Bool := false
deriving DecidableEq, Repr

/-- What a watch does when it fires (R419). -/
inductive WatchTo where
  | cmd (id : Nat)
  | signal (gfa host : Nat) (ctx : Nat)
deriving DecidableEq, Repr

structure Watch where
  n : Nat
  hurdle : Nat
  cond : Nat
  target : Word
  to_ : WatchTo
  /-- tenant whose quota counts it -/
  tenant : Nat
  since : Nat
  timeout : Nat
deriving DecidableEq, Repr

structure Hurdles where
  hdl : Table Hurdle := []
  /-- in registration order -/
  watches : List Watch := []
  regs : Nat := 0
deriving DecidableEq, Repr

/-! ### Switch core (13_switch_core.md) -/

structure QItem where
  input : Nat
  cls : Nat
  tenant : Nat
  frame : EthFrame
  cells : Nat
  /-- its cells come from the headroom pool (R438) -/
  hdrm : Bool
  /-- start and finish tags (R448) -/
  start : Word
  finish : Word
  /-- a mirror copy (R446) -/
  copy : Bool := false
deriving DecidableEq, Repr

structure Policer where
  /-- tokens, in 1/8000 byte (1 Mbit/s is one such unit per ns) -/
  tc : Nat := 0
  tp : Nat := 0
  last : Nat := 0
deriving DecidableEq, Repr

/-- The gates of one optical port (R450 to R453). -/
structure Gates where
  oper : Bool := false
  /-- a list has started since gate_en was set -/
  running : Bool := false
  pending : Bool := false
  lastStatus : Byte := 0
  /-- start time of the operating list, its entry in force, and entries of each list -/
  start : Nat := 0
  entry : Nat := 0
  len0 : Nat := 0
  len1 : Nat := 0
  nextStart : Nat := 0
deriving DecidableEq, Repr

structure Switch where
  /-- queued frames by 8 * output + class, in arrival order -/
  queues : Table (List QItem) := []
  vtime : Table Word := []
  /-- last pause sent per 8 * input + class: when (R438) -/
  paused : List (Nat × Nat) := []
  /-- frames that wait at internal endpoints which the switch holds back, by 8 * input + class, in the
  order in which they were generated, each with its output (R439) -/
  heldEp : Table (List (Nat × EthFrame)) := []
  /-- pauses received per 8 * port + class: until when (R114) -/
  rxPause : List (Nat × Nat) := []
  policers : Table Policer := []
  gates : Table Gates := []
  /-- staged SW_FLOW_EP and SW_FLOW_ACT by rule (R443) -/
  flowStage : List (Nat × (Word × Word)) := []
deriving DecidableEq, Repr

/-! ### Fabric (14_fabric.md) -/

inductive MembState where
  | unjoined | member | isolated
deriving DecidableEq, Repr

inductive MemberKind where
  | unknown | member | excluded
deriving DecidableEq, Repr

structure Member where
  kind : MemberKind := .unknown
  epoch : Word32 := 0
  /-- a commit has set it: an entry that none has reads UNKNOWN at `Fabric.restEpoch` -/
  set_ : Bool := false
deriving DecidableEq, Repr

structure Neighbour where
  valid : Bool := false
  crarid : Bool := false
  conflict : Bool := false
  idValid : Bool := false
  state : BitVec 2 := 0
  port : BitVec 5 := 0
  device : BitVec 16 := 0
  epoch : Word32 := 0
  unit : Word := 0
  mac : BitVec 48 := 0
  /-- when its Time To Live expires -/
  expires : Nat := 0
deriving DecidableEq, Repr

structure Servo where
  tracking : Bool := false
  offset : Int := 0
  source : Option (BitVec 80) := none
  lastSync : Nat := 0
  delay : Int := 0
  /-- the Delay_Req outstanding, if any, and the transit of its Sync (arrival minus origin) -/
  reqSeq : Option (BitVec 16) := none
  transit : Int := 0
  /-- Delay_Req times of the last second -/
  reqTimes : List Nat := []
  /-- ns still to pass at half rate (R479), and the rate adjustment -/
  slewLeft : Nat := 0
  ppm : Int := 0
deriving DecidableEq, Repr

structure Fabric where
  state : MembState := .unjoined
  cause : Nat := 0
  ctlStatus : Byte := 0
  curEpoch : Word32 := 0
  epochStatus : Byte := 0
  /-- staged ranges: first, last, action -/
  staged : List (Nat × Nat × Nat) := []
  members : Table Member := []
  /-- epoch of the entries that no commit has set (R470) -/
  restEpoch : Word32 := 0
  leaseFrom : Nat := 0
  reports : Word := 0
  hbLast : Nat := 0
  lldpLast : Nat := 0
  /-- suspected peers: device, last event (R474) -/
  suspects : List (Nat × Nat) := []
  /-- peers whose session left OPEN, with the last moment it was OPEN -/
  lastOpen : List (Nat × Nat) := []
  kind2 : List Nat := []
  withheld : Option Nat := none
  nbr : Table Neighbour := []
  servo : Servo := {}
deriving DecidableEq, Repr

/-! ### Errors (15_errors.md) -/

inductive Health where
  | ok | degraded | failed
deriving DecidableEq, Repr

structure ErrRec where
  type : Byte
  severity : Byte
  die : Byte
  unit : Byte := 0
  status : Byte := 0
  newState : Byte := 0
  offset : Word := 0
  time : Nat := 0
  count : Word32 := 1
deriving DecidableEq, Repr

structure Errors where
  stk : Table Health := []
  quads : Table Health := []
  phot : Table Health := []
  log : List ErrRec := []
  head : Nat := 0
  ovf : Bool := false
  /-- the device-stop record; kept through device reset (R495) -/
  fatal : Option ErrRec := none
  stopped : Bool := false
  /-- a Starter restart is in progress (R496), and the last expiry of its watchdog -/
  restarting : Bool := false
  starterLast : Option Nat := none
  restarts : Nat := 0
  /-- corrected sectors per stack in the last hour, and marked sectors per stack this pass -/
  ceTimes : List (Nat × Nat) := []
  ueMarks : Table Nat := []
  /-- DSP restarts per engine, microcode expiries per (8q + unit): times -/
  dspTimes : List (Nat × Nat) := []
  ucodeTimes : List (Nat × Nat) := []
  /-- sectors scrubbed this pass, per stack -/
  scrubbed : Table Nat := []
deriving DecidableEq, Repr

/-! ### Boot and trust (16_boot_firmware.md) -/

inductive BootPhase where
  /-- in reset, or not powered -/
  | reset
  /-- phases 1 to 6 of a start -/
  | starting
  /-- START_COMPLETE has come: RVT_OPEN is accepted -/
  | running
  | startingBlock
deriving DecidableEq, Repr

inductive UpdState where
  | idle | verifying | writing | staged | activated
deriving DecidableEq, Repr

/-- What the running image brought (R506 to R511, R516). -/
structure ImageInfo where
  imageVer : Word32 := 0
  svn : Word32 := 0
  fwVer : Word32 := 0
  parts : List Word32 := []
  devcert : Option (List Byte) := none
deriving DecidableEq, Repr

structure Boot where
  phase : BootPhase := .reset
  /-- NOR bytes by offset, an unlisted byte reads 0xFF (erased) (R503) -/
  nor : Table Byte := []
  norOk : Bool := false
  idOk : Bool := false
  failStatus : Byte := 0
  cause : Nat := 0
  tries : Nat := 0
  trial : Bool := false
  migrated : Bool := false
  slot : Bool := false
  seq : Word32 := 0
  image : ImageInfo := {}
  /-- the log value L and its entries: version field, digest (R518) -/
  logVal : List Byte := []
  logEnt : List (Word32 × List Byte) := []
  updState : UpdState := .idle
  updStatus : Byte := 0
  progress : Nat := 0
  /-- the image as read so far, its bytes in all (0: not known), the run of reads, and the digest of the
  image that has passed its checks -/
  updImage : List Byte := []
  updLen : Nat := 0
  updRun : Nat := 0
  updDigest : List Byte := []
  /-- Starting block: op in progress, next chunk, last_status (R527) -/
  recBusy : Option (Nat × Bool × Nat × List Byte) := none
  recNext : Nat := 0
  recSlot : Bool := false
  recStatus : Byte := 0
deriving DecidableEq, Repr

/-! ### Management (17_register_map.md) -/

structure EvtRec where
  type : Byte
  seq : Word32
  time : Nat
  body : List Byte
  /-- its RVT_EVENT is out: session, opening and number -/
  sent : Option (Nat × Nat × Word32) := none
deriving DecidableEq, Repr

structure Mgmt where
  queue : List EvtRec := []
  nextSeq : Word32 := 1
  /-- HUB_ALERT_STAT bits 12 to 0 -/
  alert : BitVec 13 := 0
  stop : Bool := false
  smbStatus : Byte := 0
deriving DecidableEq, Repr

/-! ### Package and power (18_package_power.md) -/

structure PortSt where
  conn : Bool := false
  lanesOk : Byte := 0
  link : BitVec 4 := 0
  mode : BitVec 2 := 0
deriving DecidableEq, Repr

structure Power where
  throttled : Bool := false
  tripped : Bool := false
  trig : BitVec 3 := 0
  reqMv : Nat := 0
  measMv : Nat := 0
  coreW : Nat := 0
  coreA : Nat := 0
  dieTemp : List Nat := []
  stkTemp : List Nat := []
  /-- since when every exit condition of R565 has held -/
  clearSince : Option Nat := none
  throtSince : Nat := 0
  /-- a target write that failed and is attempted again (R561) -/
  avsPending : Option Nat := none
  clkAbsent : BitVec 7 := 0
  clkSeen : BitVec 7 := 0
  ports : Table PortSt := []
  pwrgd : Bool := false
  perst : Bool := false
  released : Bool := true
  thermtrip : Bool := false
  dspLoaded : BitVec 2 := 0
  smbAddr : BitVec 3 := 0
  recovery : Bool := false
  /-- IDCODE is what a TAP with an identification register holds first (log 87) -/
  tapIr : TapIr := .idcode
  /-- a register reset was written: when it starts (R580) -/
  resetAt : Option Nat := none
deriving DecidableEq, Repr

/-- A consequence that belongs to the step in progress and has not been worked off: a step works
all of them off before it ends (log 18). -/
inductive Due where
  /-- containment of a unit found failed (R490, R491) -/
  | stackFail (n : Nat)
  | quadFail (q : Nat)
  | flashFail
  | photFail (p : Nat)
  /-- a session entered FAILED (R92) -/
  | sessFail (n inc : Nat)
  /-- a session reached OPEN (R474) -/
  | sessOpen (n : Nat)
  /-- every recall of the transaction on a line has ended (R182, R184, R185) -/
  | txnReady (line : Nat)
  /-- an engine command may go on (R39) -/
  | eng (cmd : Nat)
  /-- a held Heat part may be served (R386) -/
  | part (cmd : Nat)
  /-- the next command of an engine queue may start (R122, R144) -/
  | queue (unit q queue : Nat)
  /-- the rows that wait on a Lane look again (R318) -/
  | laneWake (l : Nat)
  /-- consumers of a stream look again (R260) -/
  | streamWake (q k : Nat)
  /-- a request the device sent has ended with a status and bytes (R109) -/
  | answer (kind : ReqKind) (st : Byte) (flagNc : Bool) (data : List Byte)
  /-- the device enters ISOLATED (R471) -/
  | isolate (cause : Nat)
  /-- every command of a unit is killed (R406) -/
  | kill (unit q : Nat)
  /-- a peer becomes suspected (R474) -/
  | suspect (d reason : Nat)
  /-- versions that no command holds any longer retire (R224) -/
  | retireDue
  /-- page `page` of a tile that a stream moves has been read or written (R258) -/
  | tilePage (q k tile page : Nat) (wr : Bool) (st : Byte) (data : List Byte) (marks : List Nat)
  /-- a device request may take a freed tag (R109) -/
  | tagFree
  /-- a wait place of a quadrant's stage 4 may have been freed (R187) -/
  | input (q : Nat)
  /-- a read of the update has ended (R522) -/
  | updRead (run pos : Nat) (st : Byte) (data : List Byte)
  /-- a forwarded Hurdle command has been sent (R421) -/
  | hdlSent (cmd : Nat)
  /-- a line leaves a full engine cache (R133) -/
  | ecEvict (q line : Nat)
  /-- an extent has entered REVOKING: what its users lose (R229, R359, R396, R403) -/
  | revoked (n : Nat)
deriving DecidableEq, Repr

/-- What has left the device. -/
inductive Out where
  | frame (port : Nat) (e : EthFrame)
  | pause (port cls : Nat) (quanta : BitVec 16)
  | delayReq (port : Nat) (seqId : BitVec 16)
  | smb (bytes : List Byte)
  | avs (mv : Nat)
  | jtag (bits : Word32)
deriving DecidableEq, Repr

/-- The device. -/
structure State where
  /-- commands waiting, first in first out -/
  pending : List Instr := []
  /-- what has left the device, oldest first -/
  out : List Out := []
  /-- free values drawn so far: the model's own counter -/
  free : Nat := 0
  /-- commands accepted so far: the model's own counter -/
  nextId : Nat := 0
  /-- the time-of-day counter in ns, and femtoseconds beyond it (R32, R479) -/
  now : Nat := 0
  frac : Nat := 0
  /-- stored register fields by offset -/
  cfg : Table Word := []
  /-- counters and wrap flags by offset (R19) -/
  stat : Table Word := []
  xp : Transport := {}
  cmds : List Cmd := []
  mem : Memory := {}
  cache : Caches := {}
  ext : Extents := {}
  dir : Directory := {}
  vr : Regions := {}
  flash : Flash := {}
  /-- Pacer streams by 8q + k -/
  pace : Table Stream := []
  te : Tensor := {}
  /-- Lanes 0 to 255 -/
  lanes : Table Lane := []
  /-- last_status of SE_CFG and QD_CTX_CFG by quadrant -/
  seStatus : Table Byte := []
  saveStatus : Table Byte := []
  gu : Gather := {}
  /-- engine units by 8q + u for quadrant units, 32 + u for hub units -/
  units : Table EngUnit := []
  hdl : Hurdles := {}
  sw : Switch := {}
  fab : Fabric := {}
  err : Errors := {}
  boot : Boot := {}
  mgt : Mgmt := {}
  pwr : Power := {}
  /-- consequences of the step in progress; empty between steps -/
  due : List Due := []
deriving DecidableEq, Repr

/-- The device right after reset: every register at its reset value, nothing open, nothing queued,
memory with nothing listed, the tray's NOR and NAND blank (log 4). -/
def State.reset : State := {}

end Sys2Proof.Machine
end

