-- ==== Sys2Proof/Machine/Flags.lean ====
section
/-! DEFINITION. Status codes and their precedence (R16, R18, R33), register fields, the counters and
their wrap flags (R19), events and the alert bits (R540 to R545), error records (R499, R500) and the
states of the units (R488). -/

namespace Sys2Proof.Machine

/-! ### Status codes (R16) -/

abbrev stOk : Byte := 0x00
abbrev stRetry : Byte := 0x01
abbrev stPoison : Byte := 0x02
abbrev stExtentRevoked : Byte := 0x03
abbrev stSegmentFault : Byte := 0x04
abbrev stIndexFault : Byte := 0x05
abbrev stVersionConflict : Byte := 0x06
abbrev stVersionRetired : Byte := 0x07
abbrev stStateLost : Byte := 0x08
abbrev stEngineDisabled : Byte := 0x09
abbrev stDomainDown : Byte := 0x0A
abbrev stFenced : Byte := 0x0B
abbrev stTimeout : Byte := 0x0C
abbrev stUnsupported : Byte := 0x0D
abbrev stMalformed : Byte := 0x0E
abbrev stAborted : Byte := 0x0F
abbrev stNotOwner : Byte := 0x10
abbrev stQuota : Byte := 0x11

/-- The statuses of each pipeline stage, in precedence order (R33). Stage 2 has EXTENT_REVOKED nowhere:
it belongs to stage 3. -/
def stageOrder : Nat → List Byte
  | 1 => [stMalformed, stUnsupported, stFenced, stRetry]
  | 2 => [stDomainDown, stSegmentFault, stEngineDisabled, stRetry]
  | 3 => [stExtentRevoked]
  | 4 => [stDomainDown, stVersionRetired, stVersionConflict, stRetry]
  | 6 => [stPoison, stTimeout]
  | _ => []

/-- Rank of a status in an order; an unlisted one ranks after all, by ascending code (R39). -/
def statusRank (order : List Byte) (st : Byte) : Nat :=
  match order.idxOf? st with
  | some i => i
  | none => order.length + st.toNat

/-- The status of several conditions of one list by an order: the first by rank; OK if there is none. -/
def firstByOrder (order : List Byte) (sts : List Byte) : Byte :=
  (sts.filter (· != stOk)).foldl
    (fun best st => if best = stOk ∨ statusRank order st < statusRank order best then st else best) stOk

/-- R18 over (stage, status) conditions: the earliest stage first, then its order. -/
def worst (cs : List (Nat × Byte)) : Byte :=
  let bad := cs.filter (·.2 != stOk)
  match bad with
  | [] => stOk
  | c :: _ =>
    let m := bad.foldl (fun m x => min m x.1) c.1
    firstByOrder (stageOrder m) ((bad.filter (·.1 == m)).map (·.2))

/-! ### Stored register fields -/

/-- What the stored fields of a register hold. -/
def State.at (s : State) (a : RegAt) : Word := tget a.reg.desc.reset s.cfg a.off

/-- The stored fields of hub register r. -/
def State.hub (s : State) (r : Reg) (i : Nat := 0) (j : Nat := 0) (k : Nat := 0) : Word :=
  s.at { reg := r, i := i, j := j, k := k }

/-- The stored fields of quadrant q's register r. -/
def State.quad (s : State) (q : Nat) (r : Reg) (i : Nat := 0) : Word :=
  s.at { reg := r, inst := q, i := i }

/-- Store the fields of a register whole. -/
def State.putAt (s : State) (a : RegAt) (w : Word) : State :=
  { s with cfg := tset a.reg.desc.reset s.cfg a.off w }

/-- dev_lock of HUB_LOCK (R539). -/
def State.devLock (s : State) : Bool := bit (s.hub .hubLock) 0

/-- The stored fields after a write of v: RW fields always, RWL fields until dev_lock is set (R14). -/
def storedWrite (s : State) (a : RegAt) (v : Word) : Word :=
  let m := a.reg.desc.rw ||| (if s.devLock then 0 else a.reg.desc.rwl)
  (s.at a &&& ~~~m) ||| (v &&& m)

/-! ### Counters (R19, R546) -/

/-- The register that holds the wrap flags of a counter array. -/
def wrapReg : Reg → Reg
  | .hubRvtStat => .hubRvtWrap | .hubMmStat => .hubMmWrap | .qdEcStat => .qdEcWrap
  | .dirStat => .dirWrap | .vrStat => .vrWrap | .hubBorrowStat => .hubBorrowWrap
  | .qdPaceStat => .qdPaceWrap | .flsStat => .flsWrap | .teStat => .teWrap | .sqStat => .sqWrap
  | .seStat => .seWrap | .guStat => .guWrap | .hubHdlStat => .hubHdlWrap | .swStat => .swWrap
  | .fabStat => .fabWrap | .hubErrStat => .hubErrWrap | .qdErrStat => .qdErrWrap
  | .secStat => .secWrap | .hubEvtStat => .hubEvtWrap | .hubPwrStat => .hubPwrWrap
  | .phStat => .phWrap | r => r

/-- Add n to counter k of an array; passing 2^64 sets the sticky wrap flag. -/
def State.count (s : State) (r : Reg) (k : Nat) (n : Nat := 1) (inst : Nat := 0) : State :=
  let o := RegAt.off { reg := r, inst := inst, i := k }
  let t := (tget 0 s.stat o).toNat + n
  let st := tset 0 s.stat o (BitVec.ofNat 64 t)
  if t < 2 ^ 64 then { s with stat := st }
  else
    let w := RegAt.off { reg := wrapReg r, inst := inst }
    { s with stat := tset 0 st w (tget 0 st w ||| BitVec.ofNat 64 (2 ^ k)) }

/-- Count on a quadrant's array. -/
abbrev State.countQ (s : State) (q : Nat) (r : Reg) (k : Nat) (n : Nat := 1) : State :=
  s.count r k n q

/-! ### Time -/

/-- Nanoseconds per second. -/
abbrev sec : Nat := 1000000000

/-- The time of day as bytes: 48-bit seconds, 16 reserved bits, 32-bit nanoseconds (R499, R540). -/
def timeBytes (ns : Nat) : List Byte :=
  leBytes 6 (ns / sec) ++ [0, 0] ++ leBytes 4 (ns % sec)

/-! ### Events (R540 to R545) -/

/-- The 32 body bytes of an event, zero filled. -/
def evtBody (b : List Byte) : List Byte := slice b 0 32

/-- The 56-byte record. -/
def EvtRec.bytes (r : EvtRec) : List Byte :=
  [r.type, 1, 0, 0] ++ leBytes 4 r.seq.toNat ++ timeBytes r.time ++ [0, 0, 0, 0] ++ evtBody r.body

/-- R542, R545: an event takes its seq, is queued or counted as lost, and sets its alert bit. -/
def State.event (s : State) (type : Nat) (body : List Byte) : State :=
  let m := s.mgt
  let r : EvtRec := { type := BitVec.ofNat 8 type, seq := m.nextSeq, time := s.now, body := evtBody body }
  let room := m.queue.length < 256
  let s := { s with mgt :=
    { m with
        nextSeq := m.nextSeq + 1
        queue := if room then m.queue ++ [r] else m.queue
        alert := m.alert ||| BitVec.ofNat 13 (2 ^ (type - 1)) ||| (if room then 0 else 0x1000) } }
  let s := s.count .hubEvtStat 0
  if room then s else s.count .hubEvtStat 2

/-! ### Error records (R499, R500) -/

/-- The 32-byte record. -/
def ErrRec.bytes (r : ErrRec) : List Byte :=
  [r.type, r.severity, r.die, r.unit, r.status, r.newState, 0, 0] ++ leBytes 8 r.offset.toNat
    ++ timeBytes r.time ++ leBytes 4 r.count.toNat

/-- Merge into the newest record of the same type, die and unit that is less than 1 s old; `none` when
there is none. The log is given oldest first. -/
def mergeRec (now : Nat) (r : ErrRec) (log : List ErrRec) : Option (List ErrRec) :=
  let go := log.reverse
  match go.findIdx? (fun x => x.type = r.type ∧ x.die = r.die ∧ x.unit = r.unit) with
  | none => none
  | some i =>
    match go[i]? with
    | none => none
    | some x =>
      if now - x.time < sec then
        some ((go.set i { x with count := x.count + r.count }).reverse)
      else none

/-- Drop the first element that meets p. -/
def dropFirst {α : Type} (p : α → Bool) : List α → List α
  | [] => []
  | x :: xs => if p x then xs else x :: dropFirst p xs

/-- R500: a record is merged, added or dropped; severity 1 or 2 also raises an ERROR event. -/
def State.errRecord (s : State) (r : ErrRec) : State :=
  let r := { r with time := s.now }
  let e := s.err
  let s :=
    if r.severity = 0 then
      match mergeRec s.now r e.log with
      | some l => { s with err := { e with log := l } }
      | none =>
        if e.log.length < 1024 then { s with err := { e with log := e.log ++ [r] } }
        else s.count .hubErrStat 7
    else if e.log.length < 1024 then { s with err := { e with log := e.log ++ [r] } }
    else if e.log.any (·.severity = 0) then
      { s with err := { e with log := dropFirst (·.severity = 0) e.log ++ [r] } }
    else { s with err := { e with log := e.log.drop 1 ++ [r], ovf := true } }
  if r.severity = 0 then s else s.event 10 r.bytes

/-! ### Unit states (R488) -/

def Health.code : Health → Nat
  | .ok => 0 | .degraded => 1 | .failed => 2

def State.stackHealth (s : State) (n : Nat) : Health := tget .ok s.err.stk n
def State.quadHealth (s : State) (q : Nat) : Health := tget .ok s.err.quads q
def State.photHealth (s : State) (p : Nat) : Health := tget .ok s.err.phot p

/-- Stack n returns no data: it or its quadrant is FAILED (R490). -/
def State.stackDead (s : State) (n : Nat) : Bool :=
  s.stackHealth n = .failed || s.quadHealth (n / 4) = .failed

def State.quadDead (s : State) (q : Nat) : Bool := s.quadHealth q = .failed

/-- A due consequence is added to the end of the step's list. -/
def State.owe (s : State) (d : Due) : State := { s with due := s.due ++ [d] }

/-- R488: a quadrant changes state, with its record and event; a failure's containment becomes due. -/
def State.setQuad (s : State) (q : Nat) (h : Health) : State :=
  let old := s.quadHealth q
  if old = .failed ∨ old = h ∨ (old = .degraded ∧ h = .ok) then s
  else
    let s := { s with err := { s.err with quads := tset .ok s.err.quads q h } }
    let s := s.errRecord { type := 7, severity := 1, die := BitVec.ofNat 8 (q + 1), unit := BitVec.ofNat 8 q,
                           status := if h = .failed then stPoison else stOk, newState := BitVec.ofNat 8 h.code }
    if h = .failed then s.owe (.quadFail q) else s

/-- R488: a stack changes state; two bad stacks degrade their quadrant. -/
def State.setStack (s : State) (n : Nat) (h : Health) : State :=
  let old := s.stackHealth n
  if old = .failed ∨ old = h ∨ (old = .degraded ∧ h = .ok) then s
  else
    let s := { s with err := { s.err with stk := tset .ok s.err.stk n h } }
    let s := s.errRecord { type := 6, severity := 1, die := BitVec.ofNat 8 (n / 4 + 1), unit := BitVec.ofNat 8 n,
                           status := if h = .failed then stPoison else stOk, newState := BitVec.ofNat 8 h.code }
    let s : State := if h = .failed then s.owe (.stackFail n) else s
    let bad : Nat := (List.range 4).countP fun k => s.stackHealth (n / 4 * 4 + k) != .ok
    if decide (2 ≤ bad) && decide (s.quadHealth (n / 4) = Health.ok) then s.setQuad (n / 4) .degraded else s

/-- R488: a photonic engine changes state. -/
def State.setPhot (s : State) (p : Nat) (h : Health) : State :=
  let old := s.photHealth p
  if old = .failed ∨ old = h ∨ (old = .degraded ∧ h = .ok) then s
  else
    let s := { s with err := { s.err with phot := tset .ok s.err.phot p h } }
    let s := s.errRecord { type := 9, severity := 1, die := BitVec.ofNat 8 (p + 5), unit := BitVec.ofNat 8 p,
                           newState := BitVec.ofNat 8 h.code }
    if h = .failed then s.owe (.photFail p) else s

/-- R238, R499: the flash tier enters FAILED. -/
def State.failFlash (s : State) : State :=
  if s.flash.state = .failed ∨ s.flash.state = .off then s
  else
    let s := { s with flash := { s.flash with state := .failed } }
    let s := s.errRecord { type := 8, severity := 1, die := 7, status := stPoison }
    s.owe .flashFail

/-- R495: the device stops. The record goes to HUB_ERR_FATAL and to the log. -/
def State.deviceStop (s : State) (r : ErrRec) : State :=
  if s.err.stopped then s
  else
    let r := { r with severity := 2, time := s.now }
    let s := s.errRecord r
    { s with err := { s.err with fatal := some r, stopped := true }
             mgt := { s.mgt with stop := true } }

/-- A counted SRAM or datapath word that was corrected (R481). -/
def State.wordCorrected (s : State) (die : Nat) : State :=
  (s.count .hubErrStat 0).errRecord { type := 3, severity := 0, die := BitVec.ofNat 8 die }

/-- A counted SRAM or datapath word that was not (R482, R483, R501). -/
def State.wordBad (s : State) (die : Nat) (st : Byte) : State :=
  (s.count .hubErrStat 1).errRecord { type := 4, severity := 1, die := BitVec.ofNat 8 die, status := st }

/-- A free value is drawn: the model's own counter advances (log 5). -/
def State.draw (s : State) : State × Nat := ({ s with free := s.free + 1 }, s.free)

/-- The device serves its ports: start complete, not stopped (R127, R495). -/
def State.serving (s : State) : Bool := s.boot.phase = .running && !s.err.stopped

/-- device_id and id_valid of FAB_ID (R459). -/
def State.ownId (s : State) : Nat := bits (s.hub .fabId) 15 0
def State.idValid (s : State) : Bool := bit (s.hub .fabId) 16

end Sys2Proof.Machine
end

