-- ==== Sys2Proof/Machine/Identity.lean ====
section
/-! DEFINITION. The identity that the key engine derives (R504, R505). -/

namespace Sys2Proof.Machine

/-- The secret that the PUF reconstructs, as bytes. -/
def secretBytes : List Byte := leBytes 32 Config.pufSecret.toNat

/-- The 57-byte identity private key. -/
def idSecret : List Byte := shake256 (asciiBytes "MZ1600-ID" ++ secretBytes) 57

/-- The identity public key. -/
def idPublic : List Byte := edPublic idSecret

/-- The seal key. -/
def sealKey : List Byte := shake256 (asciiBytes "MZ1600-SEAL" ++ secretBytes) 64

/-- The unit ID. -/
def unitIdent : Word := BitVec.ofNat 64 (leNat (shake256 (asciiBytes "MZ1600-UID" ++ idPublic) 8))

/-- HUB_UNIT_ID: zero while id_ok is 0 (R505). -/
def State.unitId (s : State) : Word := if s.boot.idOk then unitIdent else 0

/-- HUB_ID_PUB, 64 bytes: zero while id_ok is 0 (R538). -/
def State.idPubBytes (s : State) : List Byte := if s.boot.idOk then slice idPublic 0 64 else List.replicate 64 0

end Sys2Proof.Machine
end

