-- ==== Sys2Proof/Machine/Memory.lean ====
section
/-! DEFINITION. Bytes where they lie: HBM sectors with their codes and marks (R484 to R486), and the
translation pages of the flash tier (R239, R240). -/

namespace Sys2Proof.Machine

/-- What a byte of HBM that nothing has written reads as (log 3). -/
def Memory.blank : Byte := 0

def Memory.byte (m : Memory) (a : Nat) : Byte := tget Memory.blank m.hbm a

def Memory.bytes (m : Memory) (a n : Nat) : List Byte := (List.range n).map fun i => m.byte (a + i)

def Memory.put (m : Memory) (a : Nat) : List Byte → Memory
  | [] => m
  | b :: bs => Memory.put { m with hbm := tset Memory.blank m.hbm a b } (a + 1) bs

/-- The HBM bytes are in canonical form, and the marks rise strictly. -/
def Memory.wf (m : Memory) : Bool :=
  twf Memory.blank m.hbm && ssorted 0 m.poison && ssorted 0 m.flawed && ssorted 0 m.broken

/-- The stack of a sector. -/
def secStack (sec64 : Nat) : Nat := sec64 / 2 ^ 30

/-- The sector numbers that [a, a+n) touches. -/
def sectorsOf (a n : Nat) : List Nat :=
  if n = 0 then [] else (List.range ((a + n - 1) / 64 - a / 64 + 1)).map (a / 64 + ·)

/-- A sector's stored state after a read has met it (R485): a correctable one is corrected, counted and
rewritten, an uncorrectable one is marked, counted and recorded. `off` is its device offset. -/
def State.meetSector (s : State) (sc off : Nat) : State :=
  let n := secStack sc
  if s.stackDead n then s
  else if s.mem.broken.contains sc then
    let s := { s with mem := { s.mem with broken := serase sc s.mem.broken
                                          flawed := serase sc s.mem.flawed
                                          poison := sinsert sc s.mem.poison } }
    let s := (s.count .hubErrStat 3).countQ (n / 4) .qdErrStat (4 + n % 4)
    let s := s.errRecord { type := 2, severity := 1, die := BitVec.ofNat 8 (n / 4 + 1), unit := BitVec.ofNat 8 n,
                           status := stPoison, offset := BitVec.ofNat 64 off }
    let marks := tget 0 s.err.ueMarks n + 1
    let s := { s with err := { s.err with ueMarks := tset 0 s.err.ueMarks n marks } }
    if max 1 (bits (s.hub .hubErrCfg) 31 16) ≤ marks then s.setStack n .failed else s
  else if s.mem.flawed.contains sc then
    let s := { s with mem := { s.mem with flawed := serase sc s.mem.flawed } }
    let s := (s.count .hubErrStat 2).countQ (n / 4) .qdErrStat (n % 4)
    let s := s.errRecord { type := 1, severity := 0, die := BitVec.ofNat 8 (n / 4 + 1), unit := BitVec.ofNat 8 n,
                           offset := BitVec.ofNat 64 off }
    let recent := (s.err.ceTimes.filter fun e => s.now - e.2 < 3600 * sec) ++ [(n, s.now)]
    let s := { s with err := { s.err with ceTimes := recent } }
    let thr := bits (s.hub .hubErrCfg) 15 0
    if thr ≠ 0 ∧ thr ≤ recent.countP (·.1 = n) then s.setStack n .degraded else s
  else s

/-- A read of this sector gives POISON: it is marked, or its stack is lost (R486, R490). -/
def State.sectorBad (s : State) (sc : Nat) : Bool :=
  s.stackDead (secStack sc) || s.mem.poison.contains sc

/-- Bytes as R160 delivers them: those of bad sectors are 0. -/
def State.hbmBytes (s : State) (a n : Nat) : List Byte :=
  (List.range n).map fun i => if s.sectorBad ((a + i) / 64) then 0 else s.mem.byte (a + i)

/-- Read HBM bytes: every sector touched is met; the bytes and whether one was bad. -/
def State.readHbm (s : State) (a n off : Nat) : State × List Byte × Bool :=
  let secs := sectorsOf a n
  let s := secs.foldl (fun s sc => s.meetSector sc (off - a % 64 + (sc - a / 64) * 64)) s
  (s, s.hbmBytes a n, secs.any s.sectorBad)

/-- Write HBM bytes: a partly covered sector is read first (R485) and keeps its mark; a wholly covered
one loses its mark and its flaw (R486). -/
def State.writeHbm (s : State) (a : Nat) (bs : List Byte) (off : Nat) : State :=
  let n := bs.length
  let covered (sc : Nat) : Bool := a ≤ sc * 64 && sc * 64 + 64 ≤ a + n
  let secs := sectorsOf a n
  let s := secs.foldl (fun s sc =>
    if covered sc then
      { s with mem := { s.mem with poison := serase sc s.mem.poison
                                   flawed := serase sc s.mem.flawed
                                   broken := serase sc s.mem.broken } }
    else s.meetSector sc (off - a % 64 + (sc - a / 64) * 64)) s
  { s with mem := s.mem.put a bs }

/-- Set the mark of a sector whose data arrived marked (R486). -/
def State.markSector (s : State) (sc : Nat) : State :=
  { s with mem := { s.mem with poison := sinsert sc s.mem.poison } }

/-! ### The flash tier's pages -/

/-- The newest contents of translation page p: the staging buffer, then NAND, then zeros (R239). -/
def Flash.page (f : Flash) (p : Nat) : FPage :=
  let st := tget {} f.stage p
  if st.valid then st
  else
    let nd := tget {} f.nand p
    if nd.valid then nd else { valid := false, data := List.replicate 4096 0, mask := 0 }

/-- Sector i of a page is marked. -/
def FPage.bad (g : FPage) (i : Nat) : Bool := g.mask.getLsbD i

/-- Bytes of one page from offset o, R160 applied. -/
def FPage.bytes (g : FPage) (o n : Nat) : List Byte :=
  (List.range n).map fun i => if g.bad ((o + i) / 64) then 0 else g.data.getD (o + i) 0

/-- Figures of the NAND population; 0 where none is fitted. -/
def State.popOr (s : State) (f : NandPop → Nat) : Nat := match s.flash.pop with | some p => f p | none => 0

/-- Blocks of a channel that are in use: raw capacity beyond 128 TiB is left unused (R235). -/
def NandPop.blocksUsed (p : NandPop) : Nat := min p.blocks (2 ^ 30 / max 1 p.blockPages)

/-- Block b of channel c. -/
def State.block (s : State) (c b : Nat) : Block := tget {} s.flash.blocks (c * 2 ^ 20 + b)
def State.setBlock (s : State) (c b : Nat) (f : Block → Block) : State :=
  { s with flash := { s.flash with blocks := tmod {} s.flash.blocks (c * 2 ^ 20 + b) f } }

/-- Blocks of channel c that are erased, in use and not open. -/
def State.freeBlocks (s : State) (c : Nat) : List Nat :=
  (List.range (s.popOr NandPop.blocksUsed)).filter fun b =>
    let x := s.block c b
    x.used = 0 && !x.retired && tget none (s.flash.open_.map fun e => (e.1, some e.2)) c != some b

/-- Free blocks of a channel, per mille. -/
def State.freePm (s : State) (c : Nat) : Nat := (s.freeBlocks c).length * 1000 / max 1 (s.popOr NandPop.blocksUsed)

/-- The free blocks of channel c stand below gc_crit (R246). -/
def State.gcCritical (s : State) (c : Nat) : Bool :=
  s.flash.pop.isSome && s.freePm c < bits (s.hub .flsFtl) 15 8

/-- The staging buffer can take a page that it does not hold yet: 64 MiB of 4 KiB pages (R240), and below gc_crit
only as many as garbage collection has freed (R246). -/
def State.stageRoom (s : State) (p : Nat) : Bool :=
  (tget {} s.flash.stage p).valid
    || (s.flash.stage.length < 16384 && (!s.gcCritical (p % 32) || 0 < tget 0 s.flash.credit (p % 32)))

/-- A read of translation page p that NAND serves counts against its block (R245). -/
def State.nandRead (s : State) (p : Nat) : State :=
  let g := tget {} s.flash.nand p
  if (tget {} s.flash.stage p).valid || !g.valid then s
  else s.setBlock (p % 32) g.block fun b => { b with reads := b.reads + 1 }

/-- Write bytes into one page of the staging buffer, merging with the page's newest contents, which a partial write
reads. Sectors wholly covered lose their marks; `marks` are set on sectors that arrive marked (R240, R486). -/
def State.writePage (s : State) (off : Nat) (bs : List Byte) (marks : List Nat) : State :=
  let p := off / 4096
  let o := off % 4096
  let g := s.flash.page p
  let n := bs.length
  let keep := (List.range 64).foldl (fun (m : Nat) i =>
    let cov := o ≤ i * 64 && i * 64 + 64 ≤ o + n
    if marks.contains i || (g.bad i && !cov) then m + 2 ^ i else m) 0
  let g' : FPage := { valid := true, data := patch g.data o bs, mask := BitVec.ofNat 64 keep }
  let new := !(tget {} s.flash.stage p).valid && s.gcCritical (p % 32)
  let s := if n < 4096 then s.nandRead p else s
  { s with flash := { s.flash with
      stage := tset {} s.flash.stage p g'
      credit := if new then tmod 0 s.flash.credit (p % 32) (· - 1) else s.flash.credit } }

/-! ### Runs -/

/-- A user's read of translation page p (R263). -/
def State.readPage (s : State) (p : Nat) : State := (s.count .flsStat 0).nandRead p

/-- Read one run that lies at `l`: bytes, whether a sector was bad. -/
def State.readLoc (s : State) (l : Loc) (n off : Nat) : State × List Byte × Bool :=
  match l with
  | .hbm a => s.readHbm a n off
  | .fls o =>
    let g := s.flash.page (o / 4096)
    if s.flash.state = .failed then (s, List.replicate n 0, true)
    else (s.readPage (o / 4096), g.bytes (o % 4096) n, (sectorsOf (o % 4096) n).any g.bad)

/-- Marks of the sectors of one run, by sector number from its first. -/
def State.locMarks (s : State) (l : Loc) (n : Nat) : List Nat :=
  match l with
  | .hbm a => (sectorsOf a n).filterMap fun sc => if s.sectorBad sc then some (sc - a / 64) else none
  | .fls o =>
    let g := s.flash.page (o / 4096)
    (sectorsOf (o % 4096) n).filterMap fun i =>
      if s.flash.state = .failed || g.bad i then some (i - o % 4096 / 64) else none

/-- Write one run. `marks` names sectors of the run, from its first, that arrive marked. -/
def State.writeLoc (s : State) (l : Loc) (bs : List Byte) (marks : List Nat) (off : Nat) : State :=
  match l with
  | .hbm a =>
    let s := s.writeHbm a bs off
    marks.foldl (fun s i => s.markSector (a / 64 + i)) s
  | .fls o => (s.writePage o bs (marks.map (o % 4096 / 64 + ·))).count .flsStat 1

/-- A run that no write reaches: its stack or the flash tier is lost (R490). -/
def State.locDead (s : State) : Loc → Bool
  | .hbm a => s.stackDead (a / 2 ^ 36)
  | .fls _ => s.flash.state = .failed

end Sys2Proof.Machine
end

