-- ==== Sys2Proof/Machine/Operands.lean ====
section
/-! DEFINITION. From the three names of a byte to its place: GFAs (R46), the extent table (R50 to R60),
contexts and segments (R61 to R66) and the shared page table (R69, R70). -/

namespace Sys2Proof.Machine

/-! ### GFAs (R46) -/

def gfaDev (g : Nat) : Nat := g / 2 ^ 47 % 2 ^ 16
def gfaOff (g : Nat) : Nat := g % 2 ^ 47
def mkGfa (dev off : Nat) : Nat := dev * 2 ^ 47 + off % 2 ^ 47

/-- Bit 63 of a GFA must be 0 (R47). -/
def gfaBad (g : Word) : Bool := bit g 63

/-! ### Extents -/

def State.extOff (s : State) (n : Nat) : Nat := (s.hub .hubExtOff n).toNat
def State.extLen (s : State) (n : Nat) : Nat := (s.hub .hubExtLen n).toNat
def State.extBack (s : State) (n : Nat) : Nat := bits (s.hub .hubExtBack n) 46 16 * 2 ^ 16
def State.extLender (s : State) (n : Nat) : Nat := bits (s.hub .hubExtBack n) 62 47
def State.extPeer (s : State) (n : Nat) : Nat := bits (s.hub .hubExtCtl n) 55 40
def State.extZeroFill (s : State) (n : Nat) : Bool := bit (s.hub .hubExtCtl n) 12
def State.extLent (s : State) (n : Nat) : Bool := bit (s.hub .hubExtCtl n) 11
def State.extCoherent (s : State) (n : Nat) : Bool := bit (s.hub .hubExtCtl n) 10
def State.extTier (s : State) (n : Nat) : Nat := bits (s.hub .hubExtCtl n) 9 8
def State.extLocal (s : State) (n : Nat) : Bool := bit (s.hub .hubExtCtl n) 7
def State.extQuad (s : State) (n : Nat) : Nat := bits (s.hub .hubExtCtl n) 6 5
def State.extState (s : State) (n : Nat) : ExtState := (tget {} s.ext.ext n).state
/-- Domain of extent n (R163). -/
def State.extDomain (s : State) (n : Nat) : Nat := bits (s.hub .dirExtDom n) 7 0

def State.setExt (s : State) (n : Nat) (f : Extent → Extent) : State :=
  { s with ext := { s.ext with ext := tmod {} s.ext.ext n f } }

/-- The extents that are not in their reset condition. -/
def State.extList (s : State) : List Nat := s.ext.ext.map (·.1)

/-- Offset o lies in extent n's range. -/
def State.inExt (s : State) (n o : Nat) : Bool := s.extOff n ≤ o && o < s.extOff n + s.extLen n

/-- The ACTIVE extent of an offset (R51); a faulted entry resolves nothing (R483). -/
def State.findExt (s : State) (o : Nat) : Option Nat :=
  s.extList.find? fun n =>
    s.extState n = .active && (tget {} s.ext.ext n).fault = 0 && s.inExt n o

/-- The extent whose backing holds an offset: the ACTIVE one, or one under revocation, whose lines are still
being recalled (R51, R74). A DRAINED extent holds nothing: its registers may have been rewritten (R53). -/
def State.extOver (s : State) (o : Nat) : Option Nat :=
  match s.extList.find? fun n => s.extState n = .active && s.inExt n o with
  | some n => some n
  | none => s.extList.find? fun n => s.extState n = .revoking && s.inExt n o

/-- The interleave unit of an extent, in every tier (R60). -/
def State.extUnit (s : State) (n : Nat) : Nat := if s.extLocal n then 256 else 4096

/-- Stack and stack address of byte `off` of extent n, by R59's formula. -/
def State.stackOf (s : State) (n off : Nat) : Nat × Nat :=
  if s.extLocal n then (4 * s.extQuad n + off / 2 ^ 8 % 4, s.extBack n + off / 2 ^ 10 * 2 ^ 8 + off % 256)
  else (off / 2 ^ 12 % 16, s.extBack n + off / 2 ^ 16 * 2 ^ 12 + off % 4096)

/-- Home quadrant of byte `off` of extent n (R59). -/
def State.homeOf (s : State) (n off : Nat) : Nat := (s.stackOf n off).1 / 4

/-- Home quadrant of a device line. -/
def State.lineHome (s : State) (l : Nat) : Nat :=
  match s.extOver (l * 128) with
  | some n => s.homeOf n (l * 128 - s.extOff n)
  | none => 0

/-- Where byte `off` of a tier 0 or tier 1 extent lies (R58, R59). -/
def State.locOf (s : State) (n off : Nat) : Loc :=
  if s.extTier n = 1 then .fls (s.extBack n + off)
  else
    let (st, a) := s.stackOf n off
    .hbm (st * 2 ^ 36 + a)

/-- The pieces of [a, a+n) cut at each multiple of u. -/
def cutsGo (u : Nat) : Nat → Nat → Nat → List (Nat × Nat)
  | 0, _, _ => []
  | f + 1, a, n =>
    if n = 0 then []
    else
      let k := min n (u - a % u)
      (a, k) :: cutsGo u f (a + k) (n - k)

def cuts (u a n : Nat) : List (Nat × Nat) := cutsGo u (n / u + 2) a n

/-- The runs of [off, off+n) of extent n: place, length, device offset. -/
def State.runs (s : State) (e off n : Nat) : List (Loc × Nat × Nat) :=
  (cuts (s.extUnit e) off n).map fun (a, k) => (s.locOf e a, k, s.extOff e + a)

def Loc.plus (n : Nat) : Loc → Loc
  | .hbm a => .hbm (a + n)
  | .fls o => .fls (o + n)

/-- The runs of bytes [a, a+n) of what runs hold. -/
def subRuns : List (Loc × Nat × Nat) → Nat → Nat → List (Loc × Nat × Nat)
  | [], _, _ => []
  | (l, k, o) :: rs, a, n =>
    if k ≤ a then subRuns rs (a - k) n
    else
      let m := min n (k - a)
      if m = 0 then [] else (l.plus a, m, o + a) :: subRuns rs 0 (n - m)

/-- Read runs in order. -/
def State.readRuns (s : State) : List (Loc × Nat × Nat) → State × List Byte × Bool
  | [] => (s, [], false)
  | (l, n, o) :: rs =>
    let (s, b, p) := s.readLoc l n o
    let (s, bs, ps) := State.readRuns s rs
    (s, b ++ bs, p || ps)

/-- Write bytes over runs in order; `marks` are 64 B sectors of the bytes, from the first, that arrive
marked. Bytes past a lost run are still written (each run is its own part). -/
def State.writeRuns (s : State) : List (Loc × Nat × Nat) → List Byte → List Nat → State
  | [], _, _ => s
  | (l, n, o) :: rs, bs, marks =>
    let k := n / 64
    let s := if s.locDead l then s else s.writeLoc l (bs.take n) (marks.filter (· < max k 1)) o
    State.writeRuns s rs (bs.drop n) ((marks.filter (k ≤ ·)).map (· - k))

/-- Marks of runs: 64 B sectors from the first. -/
def State.runMarks (s : State) : List (Loc × Nat × Nat) → List Nat
  | [] => []
  | (l, n, _) :: rs => s.locMarks l n ++ (State.runMarks s rs).map (· + n / 64)

/-- Some run is lost (R490). -/
def State.runsDead (s : State) (rs : List (Loc × Nat × Nat)) : Bool := rs.any fun r => s.locDead r.1

/-! ### Contexts (R61 to R66, R97) -/

def State.ctxValid (s : State) (c : Nat) : Bool := c = 0 || bit (s.hub .hubCtxCfg c) 0
def State.ctxMode (s : State) (c : Nat) : Bool := c != 0 && bit (s.hub .hubCtxCfg c) 1
def State.ctxTenant (s : State) (c : Nat) : Nat := if c = 0 then 0 else bits (s.hub .hubCtxCfg c) 31 24
/-- R110. -/
def State.outLimit (s : State) (c : Nat) : Nat := 512 * (bits (s.hub .hubCtxCfg c) 18 16 + 1)
def State.ctxOwner (s : State) (c : Nat) : Nat := bits (s.hub .hubCtxOwner c) 31 0
def State.ctxAny (s : State) (c : Nat) : Bool := bit (s.hub .hubCtxOwner c) 32

/-- Permissions that an access needs (R66). -/
structure Perm where
  r : Bool := false
  w : Bool := false
  a : Bool := false
deriving DecidableEq, Repr

/-- Segment sg of context c holds address A. -/
def State.segHit (s : State) (c sg A : Nat) : Bool :=
  let base := (s.hub .hubSegHbase c sg).toNat
  bit (s.hub .hubSegAttr c sg) 0 && base ≤ A && A < base + (s.hub .hubSegLen c sg).toNat

/-- R65, R66: the GFA of [A, A+size) in segment mode; `none` is SEGMENT_FAULT. -/
def State.segTranslate (s : State) (c A size : Nat) (p : Perm) : Option Nat :=
  match leastBelow 16 (fun sg => s.segHit c sg A) with
  | none => none
  | some sg =>
    let base := (s.hub .hubSegHbase c sg).toNat
    let at_ := s.hub .hubSegAttr c sg
    if tget 0 s.ext.segFault (16 * c + sg) ≠ 0 then none
    else if A + size > base + (s.hub .hubSegLen c sg).toNat then none
    else if (p.r && !bit at_ 1) || (p.w && !bit at_ 2) || (p.a && !bit at_ 3) then none
    else some ((s.hub .hubSegGfa c sg).toNat + (A - base))

/-- The 8-byte page table entry at device offset o, read from an ACTIVE HBM extent; `none` where it
cannot be read (R69). -/
def State.readPte (s : State) (o : Nat) : State × Option Word :=
  match s.findExt o with
  | none => (s, none)
  | some n =>
    if s.extTier n ≠ 0 then (s, none)
    else
      let (s, bs, bad) := s.readRuns (s.runs n (o - s.extOff n) 8)
      (s, if bad then none else some (BitVec.ofNat 64 (leNat bs)))

/-- R69, R70: translation in mode 1, through the hub's translation cache. A failed table read writes a
record of type 11. -/
def State.ptTranslate (s : State) (c A size : Nat) : State × Option Nat :=
  let ptb := s.hub .hubCtxPtb c
  let order := bits ptb 9 5
  let tab := bits ptb 46 16 * 2 ^ 16
  let i := A / 2 ^ 21
  if order < 10 ∨ 24 < order ∨ 2 ^ (order + 21) ≤ A then (s, none)
  else if 2 ^ 21 < A % 2 ^ 21 + size then (s, none)
  else
    let use (s : State) (e : Word) : State × Option Nat :=
      if bit e 63 && bits e 20 0 = 0 then (s, some (bits e 62 21 * 2 ^ 21 + A % 2 ^ 21)) else (s, none)
    match s.xp.ptCache.find? (fun x => x.1 = tab ∧ x.2.1 = i) with
    | some (_, _, e) => use s e
    | none =>
      match s.readPte (tab + 8 * i) with
      | (s, none) =>
        (s.errRecord { type := 11, severity := 1, die := 0, status := stSegmentFault,
                       offset := BitVec.ofNat 64 ((tab + 8 * i) / 64 * 64) }, none)
      | (s, some e) =>
        let cache := if 16384 ≤ s.xp.ptCache.length then s.xp.ptCache.drop 1 else s.xp.ptCache
        use { s with xp := { s.xp with ptCache := cache ++ [(tab, i, e)] } } e

/-- Stage-2 translation of an access or operand of context c (R65, R66, R69). -/
def State.translate (s : State) (c A size : Nat) (p : Perm) : State × Option Nat :=
  if tget 0 s.ext.ctxFault c ≠ 0 then (s, none)
  else if s.ctxMode c then s.ptTranslate c A size
  else (s, s.segTranslate c A size p)

/-- Contexts that are valid members of a domain, with slot: (domain, host index). -/
def State.memberOf (s : State) (c : Nat) (p : DomState → Bool) : Option (Nat × Nat) :=
  s.dir.domains.findSome? fun (d, dom) =>
    if p dom.state then
      ((List.range 64).find? fun i =>
        let m := s.hub .dirDomMember d i
        bit m 12 && bits m 11 0 = c).map fun i => (d, i)
    else none

def State.domState (s : State) (d : Nat) : DomState := (tget {} s.dir.domains d).state

/-- The member slot of context c in domain d, whatever the domain's state. -/
def State.slotIn (s : State) (d c : Nat) : Option Nat :=
  (List.range 64).find? fun i =>
    let m := s.hub .dirDomMember d i
    bit m 12 && bits m 11 0 = c

/-- The slots of DIR_DOM_MEMBER that name context c, whatever the domain's state: domain, host index. -/
def State.slotsOf (s : State) (c : Nat) : List (Nat × Nat) :=
  s.cfg.filterMap fun (o, w) =>
    if 0x700000 ≤ o && o < 0x720000 && bit w 12 && bits w 11 0 = c then
      some ((o - 0x700000) / 512, (o - 0x700000) / 8 % 64)
    else none

/-- R166: the context is a member of a domain in FAILING or DOWN. -/
def State.ctxDown (s : State) (c : Nat) : Bool :=
  (s.memberOf c fun st => st = .failing || st = .down).isSome

end Sys2Proof.Machine
end

