-- ==== Sys2Proof/Machine/Switch.lean ====
section
/-! DEFINITION. The switch core (13_switch_core.md) and the routes its frames take (R460 to R462):
ports, addresses and routes, flow rules and policers, admission to the buffer, pauses, mirroring, service
order, time gates. -/

namespace Sys2Proof.Machine

/-! ### Ports (R432) -/

def State.optical (s : State) (e : Nat) : PortSt := tget {} s.pwr.ports e
def State.setOptical (s : State) (e : Nat) (f : PortSt → PortSt) : State :=
  { s with pwr := { s.pwr with ports := tmod {} s.pwr.ports e f } }

/-- Sub-ports of a breakout mode (R572). -/
def subPorts (mode : BitVec 2) : Nat := if mode = 1 then 2 else if mode = 2 then 4 else 1

/-- Bytes per ns of a sub-port. -/
def portRate (mode : BitVec 2) : Nat := if mode = 1 then 100 else if mode = 2 then 50 else 200

/-- Switch port p exists: an internal endpoint, or a sub-port that the breakout mode provides. -/
def State.portExists (s : State) (p : Nat) : Bool :=
  if p < 32 then p % 4 < subPorts (s.optical (p / 4)).mode else p < 38

/-- External port p has link up. -/
def State.linkUp (s : State) (p : Nat) : Bool :=
  p < 32 && s.portExists p && (s.optical (p / 4)).link.getLsbD (p % 4)

/-- A port that carries frames. -/
def State.portLive (s : State) (p : Nat) : Bool := if p < 32 then s.linkUp p else p < 38

/-! ### Routes (R433, R460, R461) -/

/-- The device stands in the Starting block, and runs (R525, R526). -/
def State.starting (s : State) : Bool := s.boot.phase = .startingBlock && !s.err.stopped

/-- The link-local address of the Starting block (R526). -/
def State.linkLocal (s : State) : BitVec 128 :=
  BitVec.ofNat 128 (0xFE80 * 2 ^ 112 + if s.boot.idOk then unitIdent.toNat else eui64 (Config.portMac 0))

/-- The address of device d in the IPv6 fabric prefix, and in the IPv4 one (R459). -/
def State.v6Of (s : State) (d : Nat) : BitVec 128 :=
  BitVec.ofNat 128 ((s.hub .fabPfx6Hi).toNat * 2 ^ 64 + (s.hub .fabPfx6Lo).toNat / 2 ^ 16 * 2 ^ 16 + d)
def State.v4Of (s : State) (d : Nat) : BitVec 32 := BitVec.ofNat 32 (bits (s.hub .fabPfx4) 31 16 * 2 ^ 16 + d)
def State.v4En (s : State) : Bool := bit (s.hub .fabPfx4) 0

/-- The device's own address in the family of `a`, if it has one (R459, R526). -/
def State.ownIn (s : State) (a : IpAddr) : Option IpAddr :=
  match a with
  | .v6 _ => if s.starting then some (.v6 s.linkLocal) else if s.idValid then some (.v6 (s.v6Of s.ownId)) else none
  | .v4 _ => if !s.starting && s.idValid && s.v4En then some (.v4 (s.v4Of s.ownId)) else none
  | .noIp => none

/-- The address is one of the device's own (R459). -/
def State.ownAddr (s : State) (a : IpAddr) : Bool := s.ownIn a = some a

/-- The device that an address in the fabric prefix names (R460). -/
def State.prefixDev (s : State) (a : IpAddr) : Option Nat := match a with
  | .v6 x =>
    if x.toNat / 2 ^ 16 = (s.hub .fabPfx6Hi).toNat * 2 ^ 48 + (s.hub .fabPfx6Lo).toNat / 2 ^ 16 then
      some (x.toNat % 2 ^ 16) else none
  | .v4 x => if x.toNat / 2 ^ 16 = bits (s.hub .fabPfx4) 31 16 then some (x.toNat % 2 ^ 16) else none
  | .noIp => none

/-- h of R461. -/
def routeHash (e : EthFrame) : Nat :=
  let ported : Bool := e.proto = 17 || e.proto = 6
  let pt (x : BitVec 16) : List Byte := if ported then (leBytes 2 x.toNat).reverse else [0, 0]
  (crc32c (addrBytes e.src ++ addrBytes e.dst ++ [e.proto] ++ pt e.srcPort ++ pt e.dstPort)).toNat

/-- Live members of equal-cost group g, ascending (R461). -/
def State.liveMembers (s : State) (g : Nat) : List Nat :=
  (List.range 16).filterMap fun k =>
    let m := s.hub .fabEcmp g k
    if bit m 5 && s.linkUp (bits m 4 0) then some (bits m 4 0) else none

/-- The port that a route word names for a frame; `none` is no route. -/
def State.followRoute (s : State) (w : Word) (e : EthFrame) : Option Nat :=
  match bits w 17 16 with
  | 1 => if bits w 9 0 < 32 && s.linkUp (bits w 9 0) then some (bits w 9 0) else none
  | 2 =>
    let live := s.liveMembers (bits w 9 0)
    live[routeHash e % live.length]?
  | _ => none

/-- The output of a frame (R433, R460). A faulted route is none (R483). The Starting block has one address
and one link: its own frames leave on the lowest port of E0 with link up (log 107). -/
def State.routeOf (s : State) (e : EthFrame) : Option Nat :=
  if s.ownAddr e.dst then some 32
  else if s.starting then leastBelow 4 s.linkUp
  else match s.prefixDev e.dst with
    | some d =>
      if s.idValid && d = s.ownId then some 32
      else if s.ext.rtFault.contains d then none else s.followRoute (s.hub .fabRt d) e
    | none => s.followRoute (s.hub .fabRtDef) e

/-! ### The buffer (R437 to R442) -/

def cellsOf (len : Nat) : Nat := (len + 255) / 256

def Switch.queue (w : Switch) (o c : Nat) : List QItem := tget [] w.queues (8 * o + c)
def State.swQueue (s : State) (o c : Nat) : List QItem := s.sw.queue o c
def State.setSwQueue (s : State) (o c : Nat) (f : List QItem → List QItem) : State :=
  { s with sw := { s.sw with queues := tmod [] s.sw.queues (8 * o + c) f } }

def Switch.items (w : Switch) : List QItem := w.queues.flatMap (·.2)

/-- The output-class total. -/
def State.outTotal (s : State) (o c : Nat) : Nat := ((s.swQueue o c).map (·.cells)).sum

/-- The input-class total; a mirror copy has no input (log 31). -/
def State.inTotal (s : State) (i c : Nat) : Nat :=
  ((s.sw.items.filter fun x => x.input = i && x.cls = c && !x.copy).map (·.cells)).sum

def State.hdrmPool (s : State) : Nat := min 65536 (bits (s.hub .swBufCfg) 49 32)
def State.hdrmUsed (s : State) : Nat := ((s.sw.items.filter (·.hdrm)).map (·.cells)).sum
def State.sharedUsed (s : State) : Nat := ((s.sw.items.filter fun x => !x.hdrm).map (·.cells)).sum
/-- Cells of the shared pool that a frame may take: the pool is what the headroom pool leaves of the buffer,
and queued frames keep their cells when hdrm_pool changes (R437, R442). -/
def State.sharedFree (s : State) : Nat := 196608 - max s.hdrmPool s.hdrmUsed - s.sharedUsed
/-- Cells of the headroom pool that a frame may take. -/
def State.hdrmFree (s : State) : Nat := min (s.hdrmPool - s.hdrmUsed) (196608 - s.sharedUsed - s.hdrmUsed)

def State.lossless (s : State) (c : Nat) : Bool := bit (s.hub .swBufCfg) (56 + c)
def State.xoff (s : State) : Nat := bits (s.hub .swPfcThr) 49 32
def State.xon (s : State) : Nat := min s.xoff (bits (s.hub .swPfcThr) 17 0)

/-- A pause frame leaves on external port i (R455). -/
def State.swPause (s : State) (i c : Nat) (quanta : BitVec 16) : State :=
  if s.err.stopped then s else ({ s with out := s.out ++ [Out.pause i c quanta] }).count .swStat 1

/-- The input-class total of an external input has grown: the pause of R438. -/
def State.afterEnqueue (s : State) (i c : Nat) : State :=
  let k := 8 * i + c
  if 32 ≤ i || s.inTotal i c < s.xoff || !s.lossless c || s.sw.paused.any (·.1 = k) then s
  else
    let s := (s.swPause i c 0xFFFF).count .swStat 8
    { s with sw := { s.sw with paused := s.sw.paused ++ [(k, s.now)] } }

/-- w of R448. -/
def State.tenWeight (s : State) (t : Nat) : Nat := max 1 (bits (s.hub .swTenWt t) 7 0)

/-- Queue a frame with its tags (R448), marked CE above ecn_k when it is ECN-capable (R441). -/
def State.enqueue (s : State) (o : Nat) (x : QItem) : State :=
  let mark : Bool := !x.copy && (x.frame.ecn = 1 || x.frame.ecn = 2)
    && decide (bits (s.hub .swQCfg o x.cls) 17 0 ≤ s.outTotal o x.cls)
  let s := if mark then s.count .swStat 6 else s
  let mine := (s.swQueue o x.cls).filter (·.tenant = x.tenant)
  let start := match mine.getLast? with
    | some y => y.finish
    | none => tget 0 s.sw.vtime (8 * o + x.cls)
  let step := (x.frame.len * 256 + s.tenWeight x.tenant - 1) / s.tenWeight x.tenant
  let x : QItem := { x with
    start := start
    finish := start + BitVec.ofNat 64 step
    frame := if mark then x.frame.markCe else x.frame }
  s.setSwQueue o x.cls (· ++ [x])

/-! ### Mirroring (R446) -/

def State.mirEn (s : State) : Bool := bit (s.hub .swMirror) 12
def State.anPort (s : State) : Nat := bits (s.hub .swMirror) 4 0

/-- One copy goes to the analysis port, or is discarded there; an ISOLATED device sends none (R471). -/
def State.mirrorCopy (s : State) (e : EthFrame) : State :=
  let o := s.anPort
  let c := bits (s.hub .swMirror) 7 5
  let e : EthFrame := if bit (s.hub .swMirror) 13 then e.cut else e
  let held := (((List.range 8).flatMap fun k => (s.swQueue o k).filter (·.copy)).map (·.cells)).sum
  if !s.linkUp o || s.fab.state = .isolated then s
  else if bits (s.hub .swMirror) 31 14 ≤ held || s.sharedFree < cellsOf e.len then s.count .swStat 7
  else s.enqueue o { input := o, cls := c, tenant := 0, frame := e, cells := cellsOf e.len, hdrm := false,
                     start := 0, finish := 0, copy := true }

/-! ### Flow rules and policers (R443 to R445) -/

/-- Class of a frame (R434). -/
def frameCls (e : EthFrame) : Nat := if e.vlan.isSome then e.pcp.toNat else 0

def State.ruleMatches (s : State) (r port : Nat) (e : EthFrame) : Bool :=
  let m := s.hub .swFlowMatch r
  let x := s.hub .swFlowEp r
  let mask := bits x 63 32
  bit m 46 && (bits m 45 40 = port || bits m 45 40 = 0x3F) && bit m (32 + (frameCls e))
    && match e.rvtEp with
      | some ep => ep.toNat &&& mask = bits x 31 0 &&& mask
      | none => mask = 0

/-- The winning rule. -/
def State.flowRule (s : State) (port : Nat) (e : EthFrame) : Option Nat :=
  leastBelow 256 fun r => s.ruleMatches r port e

inductive Colour where
  | green | yellow | red
deriving DecidableEq, Repr

/-- The buckets of policer p as they stand now, in 1/8000 byte: filled at cir and pir, no fuller than
cbs and pbs. -/
def State.buckets (s : State) (p : Nat) : Policer :=
  let r := s.hub .swPolRate p
  let b := s.hub .swPolBurst p
  let cir := bits r 23 0
  let cbs := bits b 31 0 * 8000
  let x : Policer := tget {} s.sw.policers p
  { tc := min cbs (x.tc + cir * (s.now - x.last))
    tp := min (max cbs (bits b 63 32 * 8000)) (x.tp + max cir (bits r 55 32) * (s.now - x.last))
    last := s.now }

def State.setPolicer (s : State) (p : Nat) (x : Policer) : State :=
  { s with sw := { s.sw with policers := tset {} s.sw.policers p x } }

/-- colour of R444. -/
def State.police (s : State) (p len : Nat) (dei : Bool) : State × Colour :=
  let aware := bit (s.hub .swPolRate p) 62
  let x := s.buckets p
  let b := len * 8000
  if x.tp < b then (s.setPolicer p x, .red)
  else if (aware && dei) || x.tc < b then (s.setPolicer p { x with tp := x.tp - b }, .yellow)
  else (s.setPolicer p { x with tp := x.tp - b, tc := x.tc - b }, .green)

/-- Police a frame of an external port by its rule: its colour, `none` when it is not policed. -/
def State.meter (s : State) (rule : Option Nat) (e : EthFrame) : State × Option Colour :=
  match rule with
  | none => (s, none)
  | some r =>
    let p := bits (s.hub .swFlowAct r) 9 0
    if p = 0x3FF || !bit (s.hub .swPolRate p) 63 then (s, none)
    else
      let (s, c) := s.police p e.len (e.vlan.isSome && e.dei)
      (s, some c)

/-- The DEI that a frame leaves with (R445). -/
def colourDei (c : Option Colour) (e : EthFrame) : EthFrame :=
  match c with
  | none => e
  | some c => if e.vlan.isSome then { e with dei := decide (c = .yellow) } else e

/-! ### Arrival (R433, R434, R438 to R440) -/

/-- Tenant of a frame (R434). -/
def State.frameTenant (s : State) (port : Nat) (e : EthFrame) : Nat :=
  if port < 32 then bits (s.hub .swVlanTen (e.vlan.getD 0).toNat) 7 0
  else match e.ctx with
    | some c => s.ctxTenant c
    | none => 0

/-- A frame as it enters the buffer. -/
def State.itemOf (s : State) (i : Nat) (e : EthFrame) : QItem :=
  { input := i, cls := frameCls e, tenant := s.frameTenant i e, frame := e, cells := cellsOf e.len, hdrm := false,
    start := 0, finish := 0 }

/-- Frames that wait at internal endpoint i in class c (R439). -/
def State.heldAt (s : State) (i c : Nat) : List (Nat × EthFrame) := tget [] s.sw.heldEp (8 * i + c)
def State.setHeld (s : State) (i c : Nat) (l : List (Nat × EthFrame)) : State :=
  { s with sw := { s.sw with heldEp := tset [] s.sw.heldEp (8 * i + c) l } }

/-- The switch holds an endpoint back from sending a frame of n cells (R439). -/
def State.mustWait (s : State) (i c n : Nat) : Bool := s.xoff ≤ s.inTotal i c || s.sharedFree < n

/-- Admit a frame to the buffer, or discard it; a frame of an internal endpoint waits while the switch holds
the endpoint back, and behind those of its class that wait (R438 to R440). -/
def State.admitFrame (s : State) (i o : Nat) (e : EthFrame) (yellow : Bool) : State :=
  let c := frameCls e
  let n := cellsOf e.len
  let q := s.hub .swQCfg o c
  let x := s.itemOf i e
  if 32 ≤ i then
    if s.heldAt i c != [] || s.mustWait i c n then s.setHeld i c (s.heldAt i c ++ [(o, e)])
    else s.enqueue o x
  else if s.lossless c then
    if s.xoff ≤ s.inTotal i c || s.sharedFree < n then
      if s.hdrmFree < n then s.count .swStat 4
      else (s.enqueue o { x with hdrm := true }).afterEnqueue i c
    else (s.enqueue o x).afterEnqueue i c
  else if bits q 53 36 ≤ s.outTotal o c || s.sharedFree < n then s.count .swStat 3
  else if yellow && bits q 35 18 ≤ s.outTotal o c then s.count .swStat 9
  else (s.enqueue o x).afterEnqueue i c

/-- Frames of key k = 8 * endpoint + class that waited go on, oldest first, while nothing holds them back
(R439). -/
def State.goOnAt (k : Nat) : Nat → State → State
  | 0, s => s
  | n + 1, s =>
    match s.heldAt (k / 8) (k % 8) with
    | [] => s
    | (o, e) :: rest =>
      if s.mustWait (k / 8) (k % 8) (cellsOf e.len) then s
      else State.goOnAt k n ((s.setHeld (k / 8) (k % 8) rest).enqueue o (s.itemOf (k / 8) e))

/-- Totals have fallen, or thresholds have changed: pauses end at xon, and held endpoints go on, in ascending
order (log 107). -/
def State.afterDequeue (s : State) : State :=
  let ended := s.sw.paused.filter fun p => s.inTotal (p.1 / 8) (p.1 % 8) ≤ s.xon
  let s := ended.foldl (fun s p => s.swPause (p.1 / 8) (p.1 % 8) 0) s
  let s : State := { s with sw := { s.sw with paused := s.sw.paused.filter fun p => !ended.contains p } }
  s.sw.heldEp.foldl (fun s h => State.goOnAt h.1 h.2.length s) s

/-! ### Managers (R97) -/

def State.mgr0 (s : State) : Nat := bits (s.hub .hubRvtMgr) 31 0
def State.mgr1 (s : State) : Nat := bits (s.hub .hubRvtMgr) 63 32

/-- The endpoint is a manager endpoint (R97). -/
def State.isMgr (s : State) (ep : Word32) : Bool :=
  (ep.toNat = s.mgr0 || ep.toNat = s.mgr1) && ep != 0xFFFFFFFF

/-- An ISOLATED device sends on external ports only LLDP frames and frames on manager sessions (R471): PTP
messages meet no queue. -/
def State.mayLeave (s : State) (i o : Nat) (e : EthFrame) : Bool :=
  s.fab.state != .isolated || 32 ≤ o
    || (32 ≤ i && (e.isLldp || s.xp.sessions.any fun (_, x) => x.state = .open && s.isMgr x.peerEp && x.ip = e.dst))

/-- A frame has come in: counted on an external port, with a word that an upset took (R482). -/
def State.frameSeen (s : State) (i : Nat) (upset : Bool) : State :=
  let s := if i < 32 then s.count .swStat 0 else s
  if upset then s.wordBad 0 stOk else s

/-- The ingress mirror's copy of a frame of an external port, by its port or its rule (R446). -/
def State.mirrorIn (s : State) (i : Nat) (e : EthFrame) : State :=
  let copy : Bool := s.mirEn && i < 32 && (bit (s.hub .swMirIn) i
    || match s.flowRule i e with | some r => bit (s.hub .swFlowAct r) 16 | none => false)
  if copy then s.mirrorCopy e else s

/-- A frame of an external port is policed, and admitted as its colour has it. -/
def State.policed (s : State) (i o : Nat) (e : EthFrame) : State :=
  let m := s.meter (s.flowRule i e) e
  if m.2 = some Colour.red then m.1.count .swStat 5
  else m.1.admitFrame i o (colourDei m.2 e) (m.2 = some Colour.yellow)

/-- The pause of R438 is sent again after 10 µs above xon. -/
def State.pauseRepeat (s : State) (i c : Nat) : State :=
  let k := 8 * i + c
  match s.sw.paused.find? (·.1 = k) with
  | none => s
  | some p =>
    if s.now - p.2 < 10000 || s.inTotal i c ≤ s.xon then s
    else
      let s := (s.swPause i c 0xFFFF).count .swStat 8
      { s with sw := { s.sw with paused := s.sw.paused.map fun x => if x.1 = k then (k, s.now) else x } }

/-! ### Time gates (R450 to R453) -/

def State.gates (s : State) (e : Nat) : Gates := tget {} s.sw.gates e
def State.setGates (s : State) (e : Nat) (f : Gates → Gates) : State :=
  { s with sw := { s.sw with gates := tmod {} s.sw.gates e f } }

def State.gateEn (s : State) (e : Nat) : Bool := bit (s.hub .swGateCtl e) 0

/-- Entries (mask, interval) of list l, in order. -/
def State.gateList (s : State) (e : Nat) (l : Bool) (n : Nat) : List (Nat × Nat) :=
  (List.range n).map fun j =>
    let w := s.hub .swGateEnt e (if l then 1 else 0) j
    (bits w 39 32, bits w 31 0)

def Gates.len (g : Gates) (l : Bool) : Nat := if l then g.len1 else g.len0

/-- The list in operation. -/
def State.operList (s : State) (e : Nat) : List (Nat × Nat) :=
  let g := s.gates e
  s.gateList e g.oper (g.len g.oper)

def cycleOf (es : List (Nat × Nat)) : Nat := (es.map (·.2)).sum

/-- The entry that holds position p of a cycle, and how far into it p lies. -/
def entryAt : List (Nat × Nat) → Nat → Nat → Nat × Nat
  | [], i, p => (i, p)
  | (_, n) :: es, i, p => if p < n then (i, p) else entryAt es (i + 1) (p - n)

/-- The entry in force at time t of a list that started at T (R450). -/
def entryNow (es : List (Nat × Nat)) (T t : Nat) : Nat × Nat :=
  if cycleOf es = 0 then (0, 0) else entryAt es 0 ((t - T) % cycleOf es)

def opens (mask c : Nat) : Bool := mask / 2 ^ c % 2 = 1

/-- Time for which class c stays open from the start of this order of entries; `none` when every entry
opens it. -/
def openRun (c : Nat) : List (Nat × Nat) → Option Nat
  | [] => none
  | (m, n) :: es => if opens m c then (openRun c es).map (n + ·) else some 0

/-- The list rotated to begin with entry j. -/
def rotate (es : List (Nat × Nat)) (j : Nat) : List (Nat × Nat) := es.drop j ++ es.take j

/-- Time until the gate of class c closes next, at the present moment; `none` when it never does. The
start of a pending list counts (R452). -/
def State.closesIn (s : State) (e c : Nat) : Option Nat :=
  let g := s.gates e
  let old : Option Nat :=
    if !g.running then none
    else
      let es := s.operList e
      let (j, o) := entryNow es g.start s.now
      (openRun c (rotate es j)).map (· - o)
  if g.pending then
    let till := g.nextStart - s.now
    let new := (openRun c (s.gateList e (!g.oper) (g.len (!g.oper)))).map (till + ·)
    match old with
    | some t => if t ≤ till then some t else new
    | none => new
  else old

/-- The gate of class c of Ee is open: the entry in force opens it. -/
def State.gateOpen (s : State) (e c : Nat) : Bool :=
  let g := s.gates e
  !s.gateEn e || !g.running || opens ((s.operList e).getD g.entry (0, 0)).1 c

/-- The longest unbroken open time of class c in the operating list; `none` when it never closes. -/
def State.longestOpen (s : State) (e c : Nat) : Option Nat :=
  let g := s.gates e
  if !s.gateEn e || !g.running then none
  else
    let es := s.operList e
    if es.all fun x => opens x.1 c then none
    else some (((List.range es.length).filterMap fun j => openRun c (rotate es j)).foldl max 0)

/-- ns that a frame occupies a sub-port: its bytes with preamble and gap (log 32). -/
def State.frameTime (s : State) (p len : Nat) : Nat :=
  let r := portRate (s.optical (p / 4)).mode
  (len + 20 + r - 1) / r

/-! ### Service (R447, R448, R451) -/

/-- Difference of two tags, signed (R448). -/
def tagLt (a b : Word) : Bool := decide ((a - b).toInt < 0)

/-- Eligible items of a queue, oldest first: no older frame of the same input is queued. -/
def eligible : List Nat → List QItem → List QItem
  | _, [] => []
  | seen, x :: xs =>
    if !x.copy && seen.contains x.input then eligible seen xs
    else x :: eligible (if x.copy then seen else x.input :: seen) xs

/-- The head of each tenant queue that is eligible. -/
def tenantHeads (q : List QItem) : List QItem :=
  let ok := eligible [] q
  ok.filter fun x => (q.find? (·.tenant = x.tenant)) = some x

/-- The head with the least start tag, ties to the lower tenant. -/
def bestHead : List QItem → Option QItem
  | [] => none
  | x :: xs => some (xs.foldl (fun b y =>
      if tagLt y.start b.start || (y.start = b.start && y.tenant < b.tenant) then y else b) x)

/-- Class c of port p is paused by a received pause (R114). -/
def State.rxPaused (s : State) (p c : Nat) : Bool :=
  s.sw.rxPause.any fun x => x.1 = 8 * p + c && s.now < x.2

/-- No open time of its class can hold the frame (R451). -/
def State.tooLong (s : State) (o c : Nat) (x : QItem) : Bool :=
  o < 32 && match s.longestOpen (o / 4) c with
    | some t => t < s.frameTime o x.frame.len
    | none => false

/-- Frames at the head of a tenant's queue that no open time can hold, with their keys 8 * output + class. -/
def State.longHeads (s : State) : List (Nat × QItem) :=
  s.sw.queues.flatMap fun e =>
    (e.2.filter fun x => (e.2.find? (·.tenant = x.tenant)) = some x && s.tooLong (e.1 / 8) (e.1 % 8) x).map fun x => (e.1, x)

/-- A frame that no open time can hold is discarded (R451). -/
def State.dropLong (s : State) (h : Nat × QItem) : State :=
  (s.setSwQueue (h.1 / 8) (h.1 % 8) (·.erase h.2)).count .swStat 3

/-- Frames that no open time can hold are discarded as they reach a head; the cells they leave let others go
on, which may reach a head in turn. -/
def State.sweepGo : Nat → State → State
  | 0, s => s
  | n + 1, s =>
    match s.longHeads with
    | [] => s
    | hs => State.sweepGo n (hs.foldl State.dropLong s).afterDequeue

/-- Each round discards a frame, so there are no more rounds than frames. -/
def State.sweep (s : State) : State :=
  State.sweepGo (s.sw.items.length + (s.sw.heldEp.flatMap (·.2)).length) s

/-! ### Gate lists in time (R452, R453) -/

/-- Start a list that waited: it begins at its own start time. -/
def State.startList (s : State) (e : Nat) : State :=
  s.setGates e fun g =>
    { g with oper := !g.oper, running := true, pending := false, start := g.nextStart, entry := 0 }

/-- The committed list starts at its time (R452). -/
def State.gateListStart (s : State) (e : Nat) : State :=
  let g := s.gates e
  if s.gateEn e && g.pending && g.nextStart ≤ s.now then (s.startList e).sweep else s

/-- The entry in force by the time of day (R450). -/
def State.gateEntry (s : State) (e : Nat) : State :=
  let g := s.gates e
  if g.running then s.setGates e fun g => { g with entry := (entryNow (s.operList e) g.start s.now).1 }
  else s

/-- R453: after a step of the counter. -/
def State.realign (s : State) : State :=
  (List.range 8).foldl (fun s e => (s.gateListStart e).gateEntry e) s

/-- The first time base + cycle * n that is not before t. -/
def firstStart (base cycle t : Nat) : Nat :=
  if t ≤ base ∨ cycle = 0 then base else base + (t - base + cycle - 1) / cycle * cycle

/-- A write of SW_GATE_CTL(e) (R450, R452): the stored fields, then commit. With gate_en 0 every gate is open,
and the list in operation runs on. -/
def State.gateCtlWrite (s : State) (e : Nat) (v : Word) : State :=
  let a : RegAt := { reg := .swGateCtl, i := e }
  let s := s.putAt a (storedWrite s a v)
  if !bit v 0 then s.setGates e fun g => { g with pending := false }
  else if !bit v 1 then (s.gateEntry e).sweep
  else
    let s := (s.gateEntry e).sweep
    let g := s.gates e
    let n := bits v 40 32
    let bns := bits (s.hub .swGateBns e) 29 0
    let es := s.gateList e (!g.oper) n
    if g.pending then s.setGates e fun g => { g with lastStatus := stUnsupported }
    else if n = 0 ∨ 256 < n ∨ es.any (·.2 = 0) ∨ sec ≤ bns then
      s.setGates e fun g => { g with lastStatus := stMalformed }
    else
      let base := bits (s.hub .swGateBs e) 47 0 * sec + bns
      s.setGates e fun g =>
        { g with
            lastStatus := stOk
            pending := true
            nextStart := firstStart base (cycleOf es) (s.now + 1000)
            len0 := if g.oper then n else g.len0
            len1 := if g.oper then g.len1 else n }

/-- A write of SW_GATE_ENT(e, l, j): ignored while a list waits, and for the list in operation. -/
def State.gateEntWrite (s : State) (e l j : Nat) (v : Word) : State :=
  let g := s.gates e
  if g.pending || decide (g.oper = decide (l = 1)) then s
  else
    let a : RegAt := { reg := .swGateEnt, i := e, j := l, k := j }
    s.putAt a (storedWrite s a v)

/-! ### Service of an output -/

/-- The frame of a class that the output may start now. -/
def State.ready (s : State) (o c : Nat) : Option QItem :=
  match bestHead (tenantHeads (s.swQueue o c)) with
  | none => none
  | some x =>
    if 32 ≤ o then some x
    else if s.rxPaused o c then none
    else
      let e := o / 4
      if !s.gateOpen e c then none
      else if !s.gateEn e then some x
      else match s.closesIn e c with
        | some t => if s.frameTime o x.frame.len ≤ t then some x else none
        | none => some x

/-- The frame as it leaves (R462): a transit frame takes the next hop's MAC and loses a hop; a frame that the
device generates takes the same MAC addresses, but for an LLDP frame, which has its own (log 107). -/
def State.asSent (s : State) (o : Nat) (x : QItem) : EthFrame :=
  if x.copy || 32 ≤ o || x.frame.isLldp then x.frame
  else
    let nh := s.hub .fabNh o
    let e : EthFrame := { x.frame with
      dstMac := if bit nh 48 then BitVec.ofNat 48 (bits nh 47 0) else (tget {} s.fab.nbr o).mac
      srcMac := Config.portMac o }
    if 32 ≤ x.input then e else e.hop

/-- The class and the frame that an output sends next: the highest class with one ready (R447). -/
def State.nextFrame (s : State) (o : Nat) : Option (Nat × QItem) :=
  [7, 6, 5, 4, 3, 2, 1, 0].findSome? fun c => (s.ready o c).map fun x => (c, x)

/-- A frame leaves its queue: the queue's virtual time follows its start tag (R448), its cells are free. -/
def State.takeFrame (s : State) (o c : Nat) (x : QItem) : State :=
  let v := tget 0 s.sw.vtime (8 * o + c)
  let s := s.setSwQueue o c (·.erase x)
  let s : State := { s with sw := { s.sw with
    vtime := tset 0 s.sw.vtime (8 * o + c) (if tagLt v x.start then x.start else v) } }
  s.afterDequeue.sweep

/-- A frame is sent on an external port: counted, and copied by the egress mirror (R446). -/
def State.sendOut (s : State) (o : Nat) (x : QItem) : State :=
  let e := s.asSent o x
  let s : State := { s with out := s.out ++ [.frame o e] }
  let s := s.count .swStat 1
  if s.mirEn && bit (s.hub .swMirOut) o && !x.copy then s.mirrorCopy e else s

/-- The switch carries frames: the device serves, or stands in the Starting block (R526). -/
def State.switching (s : State) : Bool := s.serving || s.starting

/-- A free output sends one frame; the one that an internal endpoint gets is answered beside the state. -/
def State.serveOutput (s : State) (o : Nat) : State × Option EthFrame :=
  if !s.switching || !s.portLive o then (s, none)
  else
    let s := s.sweep
    match s.nextFrame o with
    | none => (s, none)
    | some (c, x) =>
      let s := s.takeFrame o c x
      if 32 ≤ o then (s, some x.frame) else (s.sendOut o x, none)

/-- A frame reaches the switch on a port. -/
def State.frameReceive (s : State) (i : Nat) (e : EthFrame) (upset : Bool) : State :=
  if !s.switching || !s.portLive i then s
  else
    let s := (s.frameSeen i upset).mirrorIn i e
    match s.routeOf e with
    | none => s.count .swStat 2
    | some o =>
      -- a transit frame whose hop limit is used up has no route (R462), and the Starting block forwards none
      if !e.fcsOk || upset || (i < 32 && o < 32 && (e.ttl.toNat ≤ 1 || s.starting)) then s.count .swStat 2
      else if !s.mayLeave i o e then s
      else (if 32 ≤ i then s.admitFrame i o { e with ttl := 64 } false else s.policed i o e).sweep

/-- A frame that the hub endpoint generates goes to the output of its route (R433). -/
def State.launch (s : State) (e : EthFrame) : State :=
  match s.routeOf e with
  | none => s.count .swStat 2
  | some o => (s.admitFrame 32 o e false).sweep

/-- A received pause: quanta of 512 bit times at the port's rate; 0 ends it (R114). -/
def State.pauseReceive (s : State) (p c : Nat) (quanta : BitVec 16) : State :=
  if !s.serving || !s.linkUp p then s
  else
    let s := s.count .swStat 0
    let rest := s.sw.rxPause.filter (·.1 != 8 * p + c)
    let r := portRate (s.optical (p / 4)).mode
    { s with sw := { s.sw with rxPause :=
      if quanta = 0 then rest else rest ++ [(8 * p + c, s.now + (64 * quanta.toNat + r - 1) / r)] } }

/-- Its quanta have run out. -/
def State.pauseExpiry (s : State) (p c : Nat) : State :=
  { s with sw := { s.sw with rxPause := s.sw.rxPause.filter fun x => !(x.1 = 8 * p + c && x.2 ≤ s.now) } }

/-- The frames queued for a port that goes down are discarded, and those that wait at an endpoint to be (R463). -/
def State.flushPort (s : State) (p : Nat) : State :=
  let there (x : Nat × EthFrame) : Bool := x.1 = p
  let n := ((List.range 8).map fun c => (s.swQueue p c).length).sum + ((s.sw.heldEp.flatMap (·.2)).filter there).length
  let s := (List.range 8).foldl (fun s c => s.setSwQueue p c fun _ => []) s
  let s := s.sw.heldEp.foldl (fun s h => s.setHeld (h.1 / 8) (h.1 % 8) (h.2.filter fun x => !there x)) s
  ((if n = 0 then s else s.count .fabStat 6 n).afterDequeue).sweep

/-! ### Register writes of the switch -/

/-- SW_FLOW_EP and SW_FLOW_ACT as staged (R443). -/
def State.flowStaged (s : State) (r : Nat) : Word × Word :=
  match s.sw.flowStage.find? (·.1 = r) with
  | some x => x.2
  | none => (s.hub .swFlowEp r, s.hub .swFlowAct r)

def State.flowStageWrite (s : State) (r : Nat) (ep : Bool) (v : Word) : State :=
  let (a, b) := s.flowStaged r
  let x : Nat × (Word × Word) :=
    if ep then (r, (v, b)) else (r, (a, storedWrite s { reg := .swFlowAct, i := r } v))
  { s with sw := { s.sw with flowStage := x :: s.sw.flowStage.filter (·.1 != r) } }

/-- A write of SW_FLOW_MATCH(r) commits the rule (R443). -/
def State.flowCommit (s : State) (r : Nat) (v : Word) : State :=
  let (a, b) := s.flowStaged r
  let m : RegAt := { reg := .swFlowMatch, i := r }
  let s := s.putAt m (storedWrite s m v)
  let s := (s.putAt { reg := .swFlowEp, i := r } a).putAt { reg := .swFlowAct, i := r } b
  { s with sw := { s.sw with flowStage := s.sw.flowStage.filter (·.1 != r) } }

/-- A write of SW_POL_RATE or SW_POL_BURST of policer p: the buckets keep their tokens, clipped; they
are full when pol_en turns on (R444). -/
def State.polWrite (s : State) (r : Reg) (p : Nat) (v : Word) : State :=
  let on := bit (s.hub .swPolRate p) 63
  let x := s.buckets p
  let a : RegAt := { reg := r, i := p }
  let s := (s.putAt a (storedWrite s a v)).setPolicer p x
  let b := s.hub .swPolBurst p
  let cbs := bits b 31 0 * 8000
  let pbs := max cbs (bits b 63 32 * 8000)
  if !on && bit (s.hub .swPolRate p) 63 then s.setPolicer p { tc := cbs, tp := pbs, last := s.now }
  else s.setPolicer p { x with tc := min cbs x.tc, tp := min pbs x.tp }

end Sys2Proof.Machine
end

