-- ==== Sys2Proof/Machine/Ops.lean ====
section
/-! DEFINITION. The operations that every message shares: sessions and their streams (R87 to R106), the
frames that carry messages (R81 to R84), congestion (R112, R113), stage 1 (R107), accepted commands and their
one completion (R35, R109). -/

namespace Sys2Proof.Machine

/-! ### Sessions -/

def State.sess (s : State) (n : Nat) : Session := tget {} s.xp.sessions n

def State.setSess (s : State) (n : Nat) (f : Session → Session) : State :=
  { s with xp := { s.xp with sessions := tmod {} s.xp.sessions n f } }

def State.rxOf (s : State) (n cls : Nat) : RxStream := tget {} (s.sess n).rx cls
def State.txOf (s : State) (n cls : Nat) : TxStream := tget {} (s.sess n).tx cls
def State.setRx (s : State) (n cls : Nat) (f : RxStream → RxStream) : State :=
  s.setSess n fun x => { x with rx := tmod {} x.rx cls f }
def State.setTx (s : State) (n cls : Nat) (f : TxStream → TxStream) : State :=
  s.setSess n fun x => { x with tx := tmod {} x.tx cls f }

/-- The timers of HUB_RVT_TIMER, in ns. -/
def State.rtoInit (s : State) : Nat := bits (s.hub .hubRvtTimer) 15 0 * 100
def State.rtoMax (s : State) : Nat := bits (s.hub .hubRvtTimer) 31 16 * 1000
def State.retxLimit (s : State) : Nat := bits (s.hub .hubRvtTimer) 35 32
def State.ackDelay (s : State) : Nat := bits (s.hub .hubRvtTimer) 43 36 * 100

/-- The congestion window of HUB_RVT_CC, in bytes. -/
def State.cwndInit (s : State) : Nat := bits (s.hub .hubRvtCc) 15 0 * 1024
def State.cwndMax (s : State) : Nat := bits (s.hub .hubRvtCc) 31 16 * 1024
def State.aiStep (s : State) : Nat := bits (s.hub .hubRvtCc) 47 32
def State.ecnEn (s : State) : Bool := bit (s.hub .hubRvtCc) 48

/-- A session of a peer device (R87). -/
def isPeerSess (n : Nat) : Bool := n < 65536

def orFlag (f : BitVec 16) (i : Nat) (b : Bool) : BitVec 16 :=
  if b then f ||| BitVec.ofNat 16 (2 ^ i) else f

/-- Bytes of a message that cwnd counts (R112). -/
def Msg.size (m : Msg) : Nat := 48 + m.payload.length

/-- Header fields that the transport fills for a message of session n. -/
def State.dress (s : State) (n : Nat) (h : Hdr) : Hdr :=
  let x := s.sess n
  { h with
      ver := x.ver
      dstSess := x.peerSess
      epoch := if x.ver = 1 then 0 else s.fab.curEpoch
      srcEp := BitVec.ofNat 32 s.ownId
      dstEp := x.peerEp }

/-- An ISOLATED device sends nothing to this endpoint (R471). -/
def State.muted (s : State) (ep : Word32) : Bool := s.fab.state = .isolated && !s.isMgr ep

/-- Types without a sequence number (R95). -/
def unseq (typ : Byte) : Bool := 1 ≤ typ.toNat && typ.toNat ≤ 5

/-- The checksum of the IPv4 header, of a packet of `total` bytes from src to dst, that the device builds: no
options, identification and fragment offset 0 (log 107). -/
def ipv4Sum (tos total : Nat) (src dst : BitVec 32) : BitVec 16 :=
  let ws := [0x4500 + tos, total, 0, 0, 64 * 256 + 17, src.toNat / 65536, src.toNat % 65536, dst.toNat / 65536,
    dst.toNat % 65536]
  BitVec.ofNat 16 (65535 - onesSum ws.sum)

/-- The frame that carries message m from src to dst (R81 to R84, R94, R113, R462). -/
def State.wire (s : State) (src dst : IpAddr) (port : BitVec 16) (m : Msg) : EthFrame :=
  let c := m.hdr.cls
  let cfg := s.hub .hubRvtCfg
  let dscp := bits (s.hub .hubRvtDscp) (6 * c + 5) (6 * c)
  let ecn : Nat := if s.ecnEn && !unseq m.typ then 2 else 0
  let rvt := 8 + m.size + 4
  let e : EthFrame :=
    { vlan := some (BitVec.ofNat 12 (bits cfg 35 24)), pcp := BitVec.ofNat 3 c, src := src, dst := dst
      srcPort := port, dstPort := BitVec.ofNat 16 (bits cfg 15 0), dscp := BitVec.ofNat 6 dscp, ecn := BitVec.ofNat 2 ecn
      body := .rvt { typ := m.typ, hdr := m.hdr, payload := m.payload, crc := crc32c (m.hdr.bytes m.typ ++ m.payload) }
      len := 18 + 40 + rvt + 4, ctx := m.ctx }
  match src, dst with
  | .v4 a, .v4 b => { e with len := 18 + 20 + rvt + 4, csum := ipv4Sum (4 * dscp + ecn) (20 + rvt) a b }
  | _, _ => e

/-- A message leaves for endpoint `ep` at address `ip`: not from a device that has stopped or has no address
(R459, R495), and from an ISOLATED one to a manager only (R471). -/
def State.sendTo (s : State) (ep : Word32) (ip : IpAddr) (port : BitVec 16) (m : Msg) : State :=
  match s.ownIn ip with
  | none => s
  | some src => if s.err.stopped || s.muted ep then s else s.launch (s.wire src ip port m)

/-- One message leaves on session n. -/
def State.emit (s : State) (n : Nat) (port : BitVec 16) (m : Msg) : State :=
  s.sendTo (s.sess n).peerEp (s.sess n).ip port m

/-- The ack that messages of this class carry: the last number received in order (R103). -/
def State.ackNo (s : State) (n cls : Nat) : Word32 := (s.rxOf n cls).expected - 1

/-- ece is owed on the reverse stream (R113). -/
def State.eceNow (s : State) (n cls : Nat) : Bool := s.ecnEn && (s.rxOf n cls).echo.isSome

def State.findCmd (s : State) (id : Nat) : Option Cmd := s.cmds.find? (·.id = id)

/-- A request of this kind has been sent: recalls (R198), requests to lenders (R263), Heat parts (R398). -/
def State.countSent (s : State) : ReqKind → State
  | .recall l _ => s.countQ (s.lineHome l) .dirStat 0
  | .fwd _ _ true => s.count .hubBorrowStat 0
  | .heat c _ => match (s.findCmd c).map Cmd.body with
    | some (.eng e) => s.countQ e.quad .guStat 4
    | _ => s
  | .hdlPeer c => s.owe (.hdlSent c)
  | _ => s

/-- A request of the device leaves the hub: it is counted, and its time starts (R234). Its tag is the device's own,
but for completions, which carry their request's, and events, which have none. -/
def State.stampReq (s : State) (n : Nat) (m : Msg) : State :=
  let here (r : Nat × DevReq) : Bool := r.1 = m.hdr.tag.toNat && r.2.sess = n && r.2.inc = (s.sess n).inc
  if m.typ = 0x15 || m.typ = 0x23 then s
  else
    let s := match s.xp.reqs.find? here with
      | some r => s.countSent r.2.kind
      | none => s
    { s with xp := { s.xp with reqs := s.xp.reqs.map fun r => if here r then (r.1, { r.2 with since := s.now }) else r } }

/-- First transmission of a message whose number is assigned: flags, ack, counter, timer. -/
def State.transmit (s : State) (n cls : Nat) (m : Msg) : State :=
  let s := s.stampReq n m
  let t := s.txOf n cls
  let fl := orFlag (orFlag m.hdr.flags 6 (s.eceNow n cls)) 5 (s.ecnEn && t.cwr)
  let m := { m with hdr := { m.hdr with flags := fl, ack := s.ackNo n cls, epoch := (s.dress n m.hdr).epoch } }
  let s := s.setTx n cls fun t =>
    { t with unacked := t.unacked ++ [m], cwr := false
             armed := if t.armed.isSome then t.armed else some s.now
             rto := if t.armed.isSome then t.rto else s.rtoInit }
  let s := s.setRx n cls fun r => { r with ackDue := none }
  (s.count .hubRvtStat 1).emit n t.srcPort m

/-- Send waiting messages while they fit in cwnd and the unacknowledged stay within R101. -/
def State.pump (n cls : Nat) : Nat → State → State
  | 0, s => s
  | f + 1, s =>
    let t := s.txOf n cls
    match t.waiting with
    | [] => s
    | m :: ms =>
      let used := (t.unacked.map Msg.size).sum
      if used + m.size ≤ t.cwnd && t.unacked.length < 65536 then
        State.pump n cls f ((s.setTx n cls fun t => { t with waiting := ms }).transmit n cls m)
      else s

def State.pumpAll (s : State) (n cls : Nat) : State :=
  State.pump n cls ((s.txOf n cls).waiting.length) s

/-- Queue a sequenced message on a stream of an open session, for a context if any; its number is assigned
now. -/
def State.sendSeq (s : State) (n cls : Nat) (typ : Byte) (h : Hdr) (payload : List Byte) (ctx : Option Nat := none) :
    State :=
  let x := s.sess n
  if x.state = .open ∨ x.state = .closing then
    let h := s.dress n h
    let h := { h with seq := (s.txOf n cls).next, payLen := BitVec.ofNat 16 payload.length
                      flags := h.flags ||| BitVec.ofNat 16 cls }
    let s := s.setTx n cls fun t =>
      { t with next := t.next + 1, waiting := t.waiting ++ [{ typ := typ, hdr := h, payload := payload, ctx := ctx }] }
    s.pumpAll n cls
  else s

/-- An unsequenced message of session n (R95): its ack and ece, no number. -/
def State.sendBare (s : State) (n cls : Nat) (typ : Byte) (ackreq : Bool := false) : State :=
  let h := s.dress n { ack := s.ackNo n cls
                       flags := orFlag (orFlag (BitVec.ofNat 16 cls) 6 (s.eceNow n cls)) 4 ackreq }
  let s := s.setRx n cls fun r => { r with ackDue := none }
  s.emit n (s.txOf n cls).srcPort { typ := typ, hdr := h, payload := [] }

/-- RVT_CLOSE with a reason, on class 7 (R98): it carries the ack and the ece of that class (R94, R113). -/
def State.sendClose (s : State) (n : Nat) (reason : Nat) : State :=
  let h := s.dress n { flags := orFlag 7 6 (s.eceNow n 7), ack := s.ackNo n 7, payLen := 4 }
  let s := s.setRx n 7 fun r => { r with ackDue := none }
  s.emit n (s.txOf n 7).srcPort { typ := 0x03, hdr := h, payload := leBytes 4 reason }

/-- A message of opening `inc` of session n with ackreq is answered by an RVT_ACK (R103). -/
def State.answerAckreq (s : State) (n inc : Nat) (f : Frame) : State :=
  let x := s.sess n
  if f.hdr.ackreq && (x.state = .open || x.state = .closing) && x.inc = inc then s.sendBare n f.hdr.cls 0x04 else s

/-! ### Acknowledgements received (R103, R104, R112, R113) -/

/-- Number a acknowledges message number q: q is a or older. -/
def acked (a q : Word32) : Bool := !newer a q

/-- What ends with an acknowledgement: grants that held a line busy (R186), event records (R543). -/
def State.ackEffects (s : State) (n : Nat) (inc cls : Nat) (qs : List Word32) : State :=
  let hit (g : Nat × Nat × Nat × Word32) : Bool :=
    g.1 = n && g.2.1 = inc && g.2.2.1 = cls && qs.contains g.2.2.2
  let s := { s with dir := { s.dir with
    txns := s.dir.txns.filter fun t => match t.grant with | some g => !hit g | none => true } }
  if cls = 7 then
    let gone (r : EvtRec) : Bool := match r.sent with
      | some (m, i, q) => m = n && i = inc && qs.contains q
      | none => false
    let k := s.mgt.queue.countP gone
    let s := { s with mgt := { s.mgt with queue := s.mgt.queue.filter fun r => !gone r } }
    if k = 0 then s else s.count .hubEvtStat 1 k
  else s

/-- The congestion window after an acknowledgement of `a` that moves the stream (R112): a window ends with the
last number sent when it began. -/
def State.windowAck (s : State) (t : TxStream) (a : Word32) : TxStream :=
  if newer a t.winEnd then t
  else
    { t with
        cwnd := if t.winEce then t.cwnd else min (t.cwnd + s.aiStep) s.cwndMax
        winEnd := t.next - 1 - BitVec.ofNat 32 t.waiting.length
        winEce := false }

/-- ece received: at most once per window the window halves, and cwr is owed (R112, R113). -/
def State.gotEce (s : State) (n cls : Nat) : State :=
  let t := s.txOf n cls
  if t.winEce then s
  else s.setTx n cls fun t => { t with cwnd := max (t.cwnd / 2) 9216, winEce := true, cwr := true }

/-- The ack field `a` of a message of class cls. -/
def State.gotAck (s : State) (n cls : Nat) (a : Word32) (ece : Bool) : State :=
  let s := if ece then s.gotEce n cls else s
  let t := s.txOf n cls
  let gone := t.unacked.filter fun m => acked a m.hdr.seq
  if gone = [] then s
  else
    let rest := t.unacked.filter fun m => !acked a m.hdr.seq
    let s := s.setTx n cls fun t =>
      let t := s.windowAck t a
      { t with unacked := rest, expiries := 0, rto := s.rtoInit
               armed := if rest = [] then none else some s.now }
    let s := s.ackEffects n (s.sess n).inc cls (gone.map (·.hdr.seq))
    s.pumpAll n cls

/-! ### Completions -/

/-- Does session n still stand as it stood when a command of opening `inc` was accepted? -/
def State.sessLive (s : State) (n inc : Nat) : Bool :=
  let x := s.sess n
  (x.state = .open || x.state = .closing) && x.inc = inc

/-- RVT_CPL for the message `o` (R91, R92, R99); a completion whose session has failed is counted. -/
def State.sendCpl (s : State) (o : Origin) (st : Byte) (payload : List Byte)
    (nc : Bool := false) (ackreq : Bool := false) : State :=
  if s.sessLive o.sess o.inc then
    let h : Hdr := { status := st, ctx := o.ctxField, tag := o.tag
                     flags := orFlag (orFlag 0 3 nc) 4 ackreq }
    s.sendSeq o.sess o.cls 0x15 h payload (if o.gfa then none else some (o.ctxField.toNat % 4096))
  else s.count .hubRvtStat 8

def State.setCmd (s : State) (id : Nat) (f : Cmd → Cmd) : State :=
  { s with cmds := s.cmds.map fun c => if c.id = id then f c else c }

def State.dropCmd (s : State) (id : Nat) : State :=
  { s with cmds := s.cmds.filter (·.id != id) }

/-- Accept a command: it gets its number and stands among the accepted. -/
def State.accept (s : State) (src : Src) (ctx : Nat) (body : Body) : State × Nat :=
  ({ s with nextId := s.nextId + 1
            cmds := s.cmds ++ [{ id := s.nextId, src := src, ctx := ctx, tenant := s.ctxTenant ctx, body := body }] },
   s.nextId)

/-- Internal tags held (R109). -/
def Cmd.tagged (c : Cmd) : Bool := match c.src with | .msg _ => true | _ => false
def State.tagsUsed (s : State) : Nat := s.cmds.countP Cmd.tagged

/-- Commands of context c accepted and not completed (R110). -/
def State.ctxBusy (s : State) (c : Nat) : Nat := s.cmds.countP fun x => x.tagged && x.ctx = c

/-! ### Stage 1 (R107) -/

/-- Rows 5 and 6 as a type decides them: `bad` fields complete with MALFORMED, `odd` ones with
UNSUPPORTED. -/
structure Parse where
  bad : Bool := false
  odd : Bool := false
  /-- conditions of a command body, in its own order (R107, R122) -/
  body : Byte := stOk
deriving DecidableEq, Repr

/-- Which flags a type allows beyond class, retx, ece, cwr and ackreq (R148, R587). -/
structure FlagsOk where
  gfa : Bool := false
  /-- gfa must be 1 (R587) -/
  gfaReq : Bool := false
  vol : Bool := false
  unord : Bool := false
  allCls : Bool := false
deriving DecidableEq, Repr

/-- Row 5 for every type: session version, header length, reserved fields, status, GFA (R107). -/
def State.headerBad (s : State) (n : Nat) (h : Hdr) (fo : FlagsOk) : Bool :=
  let x := s.sess n
  h.ver != x.ver || h.hdrLen != 6 || h.flags.toNat / 2 ^ 12 != 0 || h.ctx.toNat / 2 ^ 12 != 0
    || h.status != 0 || 4096 < h.payLen.toNat || (x.ver = 1 && h.epoch != 0)
    || (h.gfa && (gfaBad h.addr || gfaDev h.addr.toNat != s.ownId))
    || (h.gfa && fo.gfa && h.ctx != 0)
    || (fo.gfaReq && !h.gfa)

/-- Row 6 for every type: a flag that the type does not allow (R148, R587). -/
def flagsOdd (h : Hdr) (fo : FlagsOk) : Bool :=
  (h.gfa && !fo.gfa && !fo.gfaReq) || (h.vol && !fo.vol) || (h.unord && !fo.unord)
    || (h.allCls && !fo.allCls) || h.nc

/-- Row 7, R465: the epoch check of a message; `mgr` when its session is one with a manager endpoint. -/
def State.epochFences (s : State) (h : Hdr) (mgr : Bool) : Bool :=
  let e := if h.ver = 1 then s.fab.curEpoch else h.epoch
  let dist := (e - s.fab.curEpoch).toNat
  let far := 2 ^ 30 ≤ dist && dist ≤ 2 ^ 32 - 2 ^ 30
  let ep := h.srcEp.toNat
  let floor := BitVec.ofNat 32 (bits (s.hub .fabHostFloor) 31 0)
  let floor := if newer s.fab.curEpoch floor then s.fab.curEpoch else floor
  far || (s.fab.state != .member && !mgr)
    || (if ep < 65536 then
          let m := tget {} s.fab.members ep
          m.kind != .member || older m.epoch e
        else older floor e)

/-- The message as its completion will need it. -/
def State.originOf (s : State) (n : Nat) (typ : Byte) (h : Hdr) : Origin :=
  { sess := n, inc := (s.sess n).inc, cls := h.cls, seq := h.seq, tag := h.tag, ctxField := h.ctx
    typ := typ, peer := (s.sess n).peerEp, gfa := h.gfa }

/-- Row 1: what makes a frame an integrity discard. -/
def State.row1Bad (s : State) (typ : Byte) (f : Frame) : Bool :=
  let h := f.hdr
  f.udpPort.toNat != bits (s.hub .hubRvtCfg) 15 0 || !f.lensOk || f.payload.length != h.payLen.toNat
    || f.crc != crc32c (h.bytes typ ++ f.payload)

/-- An integrity discard (R107 row 1, R86, R100). -/
def State.discard (s : State) : State := s.count .hubRvtStat 5

/-- R93: the answer to a message that names no usable session: RVT_CLOSE with reason 1, at most one per
source address per 1 ms. -/
def State.answerUnknown (s : State) (f : Frame) : State :=
  let last := (s.xp.lastClose.find? fun e => e.1 = f.srcIp).map fun e => e.2
  let due : Bool := match last with | some t => 1000000 ≤ s.now - t | none => true
  if due then
    let h : Hdr := { ver := if f.hdr.ver = 1 then 1 else 2, flags := 7, payLen := 4
                     epoch := if f.hdr.ver = 1 then 0 else s.fab.curEpoch
                     srcEp := BitVec.ofNat 32 s.ownId, dstEp := f.hdr.srcEp
                     dstSess := if f.hdr.srcEp.toNat < 65536 then BitVec.ofNat 32 s.ownId
                                else (s.sess f.hdr.dstSess.toNat).peerSess }
    let (s, d) := s.draw
    let s : State := { s with xp := { s.xp with
      lastClose := (s.xp.lastClose.filter fun e => e.1 != f.srcIp) ++ [(f.srcIp, s.now)] } }
    s.sendTo f.hdr.srcEp f.srcIp (Config.srcPort d) { typ := 0x03, hdr := h, payload := leBytes 4 1 }
  else s

/-- Row 2: the session that the frame names, when it can receive (OPEN or CLOSING). -/
inductive Row2 where
  | sess (n : Nat)
  | done (s : State)

def State.row2 (s : State) (f : Frame) : Row2 :=
  let n := f.hdr.dstSess.toNat
  let x := s.sess n
  if 81920 ≤ n then .done (s.answerUnknown f)
  else match x.state with
    | .open | .closing => if x.ip = f.srcIp then .sess n else .done s.discard
    | .opening => .done s
    | .closed | .failed => .done (s.answerUnknown f)

/-- What row 3 makes of a sequenced message. -/
inductive Row3 where
  | inOrder (s : State)
  | done (s : State)

/-- A CE mark is counted, and echoed until cwr comes with a newer number (R113). -/
def State.noteCe (s : State) (n : Nat) (f : Frame) : State :=
  let h := f.hdr
  let s := if f.ce then s.count .hubRvtStat 6 else s
  if f.ce && s.ecnEn then s.setRx n h.cls fun r => { r with echo := some h.seq }
  else match (s.rxOf n h.cls).echo with
    | some q => if h.cwr && newer q h.seq then s.setRx n h.cls fun r => { r with echo := none } else s
    | none => s

/-- Row 3 (R100). -/
def State.row3 (s : State) (n : Nat) (f : Frame) : Row3 :=
  let h := f.hdr
  let c := h.cls
  let r := s.rxOf n c
  let d := (h.seq - r.expected).toNat
  let s := s.noteCe n f
  if d = 0 then
    let s := s.setRx n c fun r =>
      { r with expected := r.expected + 1, ackDue := if r.ackDue.isSome then r.ackDue else some s.now }
    let s := s.count .hubRvtStat 0
    let s := s.gotAck n c h.ack h.ece
    .inOrder s
  else if d ≤ 65535 then
    let due : Bool := match r.lastNak with | some t => s.rtoInit ≤ s.now - t | none => true
    let s := if due then
        ((s.setRx n c fun r => { r with lastNak := some s.now }).count .hubRvtStat 4).sendBare n c 0x05
      else s
    .done (s.answerAckreq n (s.sess n).inc f)
  else if d ≤ 2 ^ 31 then .done s.discard
  else .done ((s.count .hubRvtStat 3).sendBare n c 0x04)

/-- The version is enabled in ver_mask (row 4). -/
def State.verOn (s : State) (h : Hdr) : Bool :=
  let mask := bits (s.hub .hubRvtCfg) 17 16
  (h.ver = 1 && mask % 2 = 1) || (h.ver = 2 && mask / 2 = 1)

/-- Row 7 for a message on session n; the Starting block makes no epoch check (R526). -/
def State.row7 (s : State) (n : Nat) (h : Hdr) : Bool :=
  s.boot.phase != .startingBlock && s.epochFences h (s.isMgr (s.sess n).peerEp)

/-- Rows 4 to 8, in order; OK when all pass. -/
def State.stage1 (s : State) (n : Nat) (h : Hdr) (fo : FlagsOk) (p : Parse) : Byte :=
  if !s.verOn h then stUnsupported
  else if s.headerBad n h fo || p.bad then stMalformed
  else if flagsOdd h fo || p.odd then stUnsupported
  else if p.body != stOk then p.body
  else if s.row7 n h then stFenced
  else if 131072 ≤ s.tagsUsed then stRetry
  else stOk

/-- The device takes RVT messages: it serves and has an address (R459), or stands in the Starting block
(R526). -/
def State.listens (s : State) : Bool := (s.serving && s.idValid) || s.starting

/-- In the Starting block every type but MG_READ and MG_WRITE is not supported (R526). -/
def State.notHere (s : State) (typ : Byte) : Bool :=
  s.boot.phase = .startingBlock && typ != 0x20 && typ != 0x21

/-- A command of unit u of quadrant q completes with a status of stage 1 or 2: the counters of a unit's commands name no
stage (R303, R362, R398). One whose quadrant no selector or route has given counts nowhere. -/
def State.countRefusal (s : State) (u q op : Nat) : State :=
  if 4 ≤ q then s
  else match u, op with
    | 1, 1 => s.countQ q .teStat 1
    | 3, 1 => s.countQ q .seStat 1
    | 4, 1 | 4, 2 => s.countQ q .guStat 1
    | _, _ => s

/-- A sequenced request: rows 1 to 8, then `body` on the state and the message's origin. A refused
message completes with its status and has no other effect (R35). An ackreq is answered at once. -/
def State.withRequest (s : State) (typ : Byte) (f : Frame) (fo : FlagsOk)
    (parse : State → Nat → Parse) (body : State → Origin → State) : State :=
  if !s.listens then s
  else if s.row1Bad typ f then s.discard
  else match s.row2 f with
    | .done s => s
    | .sess n =>
      match s.row3 n f with
      | .done s => s
      | .inOrder s =>
        let o := s.originOf n typ f.hdr
        let p := parse s n
        let st := s.stage1 n f.hdr fo { p with odd := p.odd || s.notHere typ }
        let s := if st = stFenced then s.count .fabStat 0 else s
        let s := if st = stOk then body s o
          else
            let a := f.hdr.addr.toNat
            let s := if typ = 0x30 then s.countRefusal (a % 256) (a / 256 % 256) (field f.payload 0 1) else s
            s.sendCpl o st []
        s.answerAckreq n o.inc f

/-- The version-1 sessions know no engine commands and no unit messages (R89). -/
def State.v1 (s : State) (n : Nat) : Bool := (s.sess n).ver = 1

/-! ### Stage 2, common checks -/

/-- R61, R62, R96, R97, R166 for a command that names a data context, in the order of R33: the status,
OK when the context may be used. `gfa` requests name none. -/
def State.ctxCheck (s : State) (o : Origin) : Byte :=
  if o.gfa then (if isPeerSess o.sess then stOk else stSegmentFault)
  else
    let c := o.ctxField.toNat % 4096
    if s.ctxDown c then stDomainDown
    else if c = 0 || !s.ctxValid c || tget 0 s.ext.ctxFault c != 0 then stSegmentFault
    else if !s.ctxAny c && s.ctxOwner c != o.peer.toNat then stSegmentFault
    else stOk

/-- R110. -/
def State.overLimit (s : State) (o : Origin) : Bool :=
  !o.gfa && s.outLimit (o.ctxField.toNat % 4096) ≤ s.ctxBusy (o.ctxField.toNat % 4096)

/-! ### Device requests (R109, R466) -/

/-- A free requester tag: the first after the one taken last (log 20). -/
def State.freeTag (s : State) : Option Nat :=
  if 16384 ≤ s.xp.reqs.length then none
  else (leastBelow 16384 fun i => !(s.xp.reqs.any (·.1 = (s.xp.reqNext + i) % 16384))).map
    fun i => (s.xp.reqNext + i) % 16384

/-- The open session with device d, if any (R87). -/
def State.peerSess (s : State) (d : Nat) : Option Nat :=
  if (s.sess d).state = .open then some d else none

/-- Host session of an endpoint. -/
def State.hostSess (s : State) (ep : Nat) : Option Nat :=
  (s.xp.sessions.find? fun (n, x) => 65536 ≤ n && x.state = .open && x.peerEp.toNat = ep).map (·.1)

def State.epSess (s : State) (ep : Nat) : Option Nat :=
  if ep < 65536 then s.peerSess ep else s.hostSess ep

/-- The address of device d in the fabric prefix, over an enabled IP family (R81, R459). -/
def State.addrOf (s : State) (d : Nat) : Option IpAddr :=
  if !s.idValid then none
  else if bit (s.hub .hubRvtCfg) 37 then some (.v6 (s.v6Of d))
  else if bit (s.hub .hubRvtCfg) 36 && s.v4En then some (.v4 (s.v4Of d))
  else none

/-- The eight transmit streams of a new session: the ISN, the first window, a path each (R82, R88,
R112). -/
def State.freshTx (s : State) (isn : Word32) : State × Table TxStream :=
  (List.range 8).foldl (fun (s, t) c =>
    let (s, d) := s.draw
    (s, tset {} t c { next := isn, winEnd := isn, cwnd := s.cwndInit, srcPort := Config.srcPort d }))
    (s, [])

/-- Receive streams whose expected number is the peer's ISN. -/
def freshRx (isn : Word32) : Table RxStream :=
  (List.range 8).foldl (fun t c => tset {} t c { expected := isn }) []

/-- The device opens its session with device d (R89, R91; log 19). -/
def State.openPeer (s : State) (d : Nat) : State :=
  match s.addrOf d with
  | none => s
  | some ip =>
    let (s, k) := s.draw
    let isn := Config.isn k
    let (s, tx) := s.freshTx isn
    let mask := bits (s.hub .hubRvtCfg) 17 16
    let s := { s with xp := { s.xp with incs := s.xp.incs + 1 } }
    let s := s.setSess d fun x =>
      { state := .opening, ver := 1, peerEp := BitVec.ofNat 32 d, ip := ip, isn := isn, opener := true
        since := s.now, inc := s.xp.incs, tx := tx, rx := x.rx }
    let h : Hdr := { ver := 1, flags := 7, epoch := s.fab.curEpoch, srcEp := BitVec.ofNat 32 s.ownId
                     dstEp := BitVec.ofNat 32 d, payLen := 16 }
    let pay := [BitVec.ofNat 8 (if mask % 2 = 1 then 1 else 2), BitVec.ofNat 8 (if 2 ≤ mask then 2 else 1), 0, 0]
      ++ leBytes 4 d ++ leBytes 4 isn.toNat ++ leBytes 4 0
    s.emit d (s.txOf d 7).srcPort { typ := 0x01, hdr := h, payload := pay }

/-- The status of a request that is not sent because its device is not a member: FENCED; a Baton message
counts as one that ended with TIMEOUT (R466). -/
def ReqKind.fenced : ReqKind → Byte
  | .baton _ _ => stTimeout
  | _ => stFenced

/-- A request that the device forwards for another (R49, R234, R421). -/
def ReqKind.forwarded : ReqKind → Bool
  | .fwd _ _ _ | .hdlPeer _ | .hdlSignal _ _ _ _ => true
  | _ => false

/-- A request sent to endpoint `ep` has ended: its answer becomes due, and a forwarded one that ended with
TIMEOUT makes its peer suspected (R474). -/
def State.ended (s : State) (kind : ReqKind) (ep : Nat) (st : Byte) (nc : Bool) (data : List Byte) : State :=
  let s := s.owe (.answer kind st nc data)
  if st = stTimeout && kind.forwarded && ep < 65536 then s.owe (.suspect ep 2) else s

/-- The context that a device request serves (R434). -/
def State.reqCtx (s : State) : ReqKind → Option Nat
  | .fwd c _ _ | .heat c _ | .hdlPeer c => (s.findCmd c).map (·.ctx)
  | .baton l _ => some (tget {} s.lanes l).ctx
  | .hdlSignal _ _ c _ => some c
  | .recall _ _ | .report => none

/-- A request waits: for its session, or for a tag (R109). -/
def State.parkReq (s : State) (kind : ReqKind) (ep cls : Nat) (typ : Byte) (h : Hdr) (payload : List Byte) : State :=
  { s with xp := { s.xp with reqWait := s.xp.reqWait ++
    [{ kind := kind, peer := BitVec.ofNat 32 ep, cls := cls, msg := { typ := typ, hdr := h, payload := payload } }] } }

/-- Send a request of the device to endpoint `ep`: FENCED without sending when that device is not a
member (R466); it waits when no tag is free (R109), while its session is still opening, and while a session that
is CLOSING or FAILED has not yet returned to CLOSED (R91). -/
def State.deviceReq (s : State) (kind : ReqKind) (ep cls : Nat) (typ : Byte) (h : Hdr)
    (payload : List Byte) : State :=
  if ep < 65536 && (tget {} s.fab.members ep).kind != .member then
    (s.count .fabStat 5).owe (.answer kind kind.fenced false [])
  else match s.epSess ep with
    | none =>
      let s := if ep < 65536 && (s.sess ep).state = .closed then s.openPeer ep else s
      if ep < 65536 && (s.sess ep).state != .closed then s.parkReq kind ep cls typ h payload
      else s.ended kind ep stTimeout false []
    | some n =>
      match s.freeTag with
      | none => s.parkReq kind ep cls typ h payload
      | some t =>
        let r : DevReq := { kind := kind, sess := n, inc := (s.sess n).inc, since := s.now, peer := BitVec.ofNat 32 ep }
        let s := { s with xp := { s.xp with reqs := s.xp.reqs ++ [(t, r)], reqNext := (t + 1) % 16384,
                                             late := s.xp.late.filter (·.1 != t),
                                             lateHeat := s.xp.lateHeat.filter (·.1 != t) }
                          dir := { s.dir with late := s.dir.late.filter (·.1 != t) } }
        s.sendSeq n cls typ { h with tag := BitVec.ofNat 32 t } payload (s.reqCtx kind)

/-- End a device request: its tag is freed and its answer becomes due. -/
def State.endReq (s : State) (t : Nat) (st : Byte) (nc : Bool) (data : List Byte) : State :=
  match s.xp.reqs.find? (·.1 = t) with
  | none => s
  | some (_, r) =>
    let s := { s with xp := { s.xp with reqs := s.xp.reqs.filter (·.1 != t) } }
    (s.ended r.kind r.peer.toNat st nc data).owe .tagFree

/-- Forget a device request whose work has ended otherwise; a late answer finds no tag and is
discarded (R108). -/
def State.cancelReqs (s : State) (p : ReqKind → Bool) : State :=
  { s with xp := { s.xp with reqs := s.xp.reqs.filter fun r => !p r.2.kind
                             reqWait := s.xp.reqWait.filter fun r => !p r.kind } }

/-- Waiting device requests take freed tags, oldest first (R109). -/
def State.retryWaiting (s : State) : State :=
  let ws := s.xp.reqWait
  ws.foldl (fun s w => s.deviceReq w.kind w.peer.toNat w.cls w.msg.typ w.msg.hdr w.msg.payload)
    { s with xp := { s.xp with reqWait := [] } }

end Sys2Proof.Machine
end

