-- ==== Sys2Proof/Machine/Versions.lean ====
section
/-! DEFINITION. Versions of regions: which one an access sees, their pages in the pools, copies and
folds (R199 to R223). -/

namespace Sys2Proof.Machine

def State.region (s : State) (r : Nat) : Region := tget {} s.vr.regions r
def State.setRegion (s : State) (r : Nat) (f : Region → Region) : State :=
  { s with vr := { s.vr with regions := tmod {} s.vr.regions r f } }
def State.regBase (s : State) (r : Nat) : Nat := (s.hub .vrRegBase r).toNat
def State.regLen (s : State) (r : Nat) : Nat := (s.hub .vrRegLen r).toNat

/-- The region, not FREE, that holds device offset o (R206). -/
def State.regionAt (s : State) (o : Nat) : Option Nat :=
  (s.vr.regions.find? fun (r, x) =>
    x.state != .free && s.regBase r ≤ o && o < s.regBase r + s.regLen r).map fun e => e.1

/-- Binding of context c for region r, with its index j (R205). -/
def State.bindOf (s : State) (c r : Nat) : Option (Nat × Binding) :=
  (List.range 16).findSome? fun j =>
    let b := tget {} s.vr.binds (16 * c + j)
    if b.mode != .none && b.region = r then some (j, b) else none

/-- Every binding of context c, for an engine command's descriptor (R206). -/
def State.bindsOf (s : State) (c : Nat) : List Binding :=
  (List.range 16).filterMap fun j =>
    let b := tget {} s.vr.binds (16 * c + j)
    if b.mode = .none then none else some b

/-- Bindings that accepted commands carry. -/
def Cmd.binds (c : Cmd) : List Binding :=
  match c.body with
  | .access a => a.bind.toList
  | .held a => a.bind.toList
  | .coh c => c.bind.toList
  | .eng e => e.binds
  | _ => []

/-- The command with every binding of its descriptor replaced by f of it. -/
def Cmd.rebind (c : Cmd) (f : Binding → Binding) : Cmd :=
  match c.body with
  | .access a => { c with body := .access { a with bind := a.bind.map f } }
  | .held a => { c with body := .held { a with bind := a.bind.map f } }
  | .coh r => { c with body := .coh { r with bind := r.bind.map f } }
  | .eng e => { c with body := .eng { e with binds := e.binds.map f } }
  | _ => c

/-- A write binding to slot v of region r. -/
def Binding.writes (b : Binding) (r v : Nat) : Bool := b.mode = .write && b.region = r && b.slot = v

/-- Every binding in force: of contexts, and in descriptors (R224). -/
def State.allBinds (s : State) : List Binding := (s.vr.binds.map fun e => e.2) ++ s.cmds.flatMap Cmd.binds

/-- The version in slot v of region r has a holder. -/
def State.held (s : State) (r v : Nat) : Bool :=
  s.allBinds.any fun b => (b.mode = .read || b.mode = .write) && b.region = r && b.slot = v

/-- A published version of region x with this Lap is the base of a private version. -/
def Region.isBase (x : Region) (lap : Word32) : Bool := x.slots.any fun v => !v.2.published && v.2.lap = lap

/-- R204: live. -/
def State.live (s : State) (r : Nat) (v : Nat × Version) : Bool :=
  let x := s.region r
  !v.2.published || v.2.lap = x.curLap || s.held r v.1 || x.isBase v.2.lap

/-- Laps of live published versions, and of the bases of private ones. -/
def State.liveLaps (s : State) (r : Nat) : List Word32 :=
  (s.region r).slots.filterMap fun v => if s.live r v then some v.2.lap else none

/-- How far Lap l stands behind the current one. -/
def Region.behind (x : Region) (l : Word32) : Nat := (x.curLap - l).toNat

/-- The oldest live Lap: the published one furthest behind (R204). -/
def State.oldestLap (s : State) (r : Nat) : Word32 :=
  let x := s.region r
  (s.liveLaps r).foldl (fun m l => if x.behind m < x.behind l then l else m) x.curLap

/-! ### Pools (R218 to R221) -/

def State.poolExt (s : State) (q k : Nat) : Nat := bits (s.quad q .vrPool k) 11 0
def State.poolOn (s : State) (q k : Nat) : Bool := bit (s.quad q .vrPool k) 13
def State.pool (s : State) (q k : Nat) : Pool := tget {} s.vr.pools (4 * q + k)

/-- Pool page numbers of an extent of length P: first, and how many (R221). -/
def poolFirst (P : Nat) : Nat := (P / 256 + 4095) / 4096
def poolCount (P : Nat) : Nat := (P - P / 256) / 4096

/-- Extent e is attached to a pool. -/
def State.inPool (s : State) (e : Nat) : Bool :=
  s.vr.pools.any fun (i, p) => p.attached && s.poolExt (i / 4) (i % 4) = e

/-- A free pool page of quadrant q: the first of the first attached extent that allocates (log 10). An extent under
revocation gives none (R229). -/
def State.poolAlloc (s : State) (q : Nat) : Option (Nat × Nat) :=
  (List.range 4).findSome? fun k =>
    let e := s.poolExt q k
    if (s.pool q k).attached && s.poolOn q k && s.extState e = .active then
      let P := s.extLen e
      let used := s.vr.pages.filterMap fun g => if g.ext = e then some g.place else none
      -- among used.length + 1 consecutive places one is free
      ((List.range (min (poolCount P) (used.length + 1))).find? fun i =>
        !used.contains (poolFirst P + i)).map fun i => (e, poolFirst P + i)
    else none

/-- Runs of a pool page. -/
def State.poolRuns (s : State) (g : PoolPage) (off n : Nat) : List (Loc × Nat × Nat) :=
  s.runs g.ext (g.place * 4096 + off) n

/-- The 16-byte map entry of a pool page (R221). -/
def mapEntry (g : PoolPage) (valid : Bool) : List Byte :=
  leBytes 2 g.region
    ++ [BitVec.ofNat 8 ((if valid then 128 else 0) + (if g.published then 64 else 0) + g.slot % 64), 0]
    ++ leBytes 4 g.lap.toNat ++ leBytes 4 g.page ++ leBytes 4 g.place

/-- Write a page's map entry where the model places it: entry i for the i-th pool page. -/
def State.putMap (s : State) (g : PoolPage) (valid : Bool) : State :=
  let i := g.place - poolFirst (s.extLen g.ext)
  s.writeRuns (s.runs g.ext (16 * i) 16) (mapEntry g valid) []

/-- R222: the pool page that a binding sees for a page of region r; `none` is the base backing. -/
def State.resolvePage (s : State) (r page : Nat) (b : Option Binding) : Option PoolPage :=
  let x := s.region r
  let priv : Option PoolPage := match b with
    | some b => if b.mode = .write then
        s.vr.pages.find? fun g => g.region = r && g.page = page && !g.published && g.slot = b.slot
      else none
    | none => none
  match priv with
  | some g => some g
  | none =>
    let lap : Word32 := match b with
      | some b => if b.mode = .read ∨ b.mode = .write then b.lap else x.curLap
      | none => x.curLap
    (s.vr.pages.filter fun g => g.region = r && g.page = page && g.published && !newer lap g.lap).foldl
      (fun m g => match m with
        | some y => if newer y.lap g.lap then some g else some y
        | none => some g) none

/-- What R207 gives an access to region r, before any page is taken. -/
inductive Verdict where
  | refused (st : Byte) (counter : Option Nat)
  /-- it reads what this binding sees; without one, the current version -/
  | reads (b : Option Binding)
  /-- it works on the private version of this write binding -/
  | writes (b : Binding)

/-- R207, row by row. -/
def State.verdict (s : State) (r : Nat) (b : Option Binding) (wr : Bool) : Verdict :=
  let x := s.region r
  let plain : Verdict := if wr then .refused stVersionConflict (some 5) else .reads none
  match x.state with
  | .declaring | .folding => .refused stRetry none
  | .ended => .refused stVersionRetired none
  | _ =>
    match b.filter fun b => b.region = r with
    | none => plain
    | some b =>
      match b.mode with
      | .retired => .refused stVersionRetired none
      | .none => plain
      | .read => if wr then .refused stVersionConflict (some 5) else .reads (some b)
      | .write =>
        match (x.slots.find? fun v => v.1 = b.slot).map fun v => v.2 with
        | none => .refused stVersionRetired none
        | some v =>
          if v.published then
            if wr then .refused stVersionConflict (some 5) else .reads (some { b with mode := .read, lap := v.lap })
          else if wr then .writes b else .reads (some b)

/-- What a read through binding b finds of a page of region r, where that is a published version: the Lap of its
pool page, or the base backing (R136, R209). -/
def State.readView (s : State) (r page : Nat) (b : Option Binding) : Option (Option Word32) :=
  match s.verdict r b false with
  | .reads v => if (v.filter fun v => v.mode = .write).isSome then none else some ((s.resolvePage r page v).map (·.lap))
  | _ => none

/-- The extent of region r. -/
def State.regExt (s : State) (r : Nat) : Option Nat := s.findExt (s.regBase r)

/-- Runs of bytes [off, off+n) of one page of region r, as the binding sees them. -/
def State.pageRuns (s : State) (r page off n : Nat) (b : Option Binding) : List (Loc × Nat × Nat) :=
  match s.resolvePage r page b with
  | some g => s.poolRuns g off n
  | none =>
    match s.regExt r with
    | some e => s.runs e (s.regBase r - s.extOff e + page * 4096 + off) n
    | none => []

/-- Home quadrant of a page of region r. -/
def State.pageHome (s : State) (r page : Nat) : Nat :=
  match s.regExt r with
  | some e => s.homeOf e (s.regBase r - s.extOff e + page * 4096)
  | none => 0

/-- A copy of 4 KiB from runs to runs, with the marks (R218, R486). -/
def State.copyRuns (s : State) (src dst : List (Loc × Nat × Nat)) : State :=
  let (s, bs, _) := s.readRuns src
  let marks := s.runMarks src
  s.writeRuns dst bs marks

/-- Drop page lines from every engine cache and from the hub read cache (R136, R223). -/
def State.dropRange (s : State) (gfa n : Nat) : State :=
  { s with cache :=
    { ec := s.cache.ec.filter fun e => !(gfa / 128 ≤ e.1.2 && e.1.2 * 128 < gfa + n)
      rc := s.cache.rc.filter fun e => !(gfa / 128 ≤ e.line && e.line * 128 < gfa + n) } }

/-- Drop the copies of versions in a range of this device from every engine cache (R136). -/
def State.dropVersions (s : State) (off n : Nat) : State :=
  { s with cache := { s.cache with ec := s.cache.ec.filter fun e =>
    e.2.ver.isNone || !(gfaDev (e.1.2 * 128) = s.ownId && off ≤ gfaOff (e.1.2 * 128) && gfaOff (e.1.2 * 128) < off + n) } }

def State.dropPage (s : State) (r page : Nat) : State :=
  s.dropRange (mkGfa s.ownId (s.regBase r + page * 4096)) 4096

/-- R218, R219: the private page that a write through binding b goes to; a copy is made first unless
`whole`. `none` when the pool is empty. -/
def State.privatePage (s : State) (r page : Nat) (b : Binding) (whole : Bool) : State × Option PoolPage :=
  match s.vr.pages.find? fun g => g.region = r && g.page = page && !g.published && g.slot = b.slot with
  | some g => (s, some g)
  | none =>
    match s.poolAlloc (s.pageHome r page) with
    | none => (s, none)
    | some (e, place) =>
      let g : PoolPage := { region := r, slot := b.slot, published := false, lap := b.lap, page := page
                            ext := e, place := place }
      let src := s.pageRuns r page 0 4096 (some b)
      let s := { s with vr := { s.vr with pages := s.vr.pages ++ [g] } }
      let s := s.putMap g true
      let s := if whole then s else (s.copyRuns src (s.poolRuns g 0 4096)).count .vrStat 4
      (s, some g)

/-- Detach pool extents that hold no page and no longer allocate (R220). -/
def State.detachPools (s : State) : State :=
  (List.range 16).foldl (fun s i =>
    let q := i / 4
    let k := i % 4
    if (s.pool q k).attached && !s.poolOn q k && !s.vr.pages.any (·.ext = s.poolExt q k) then
      { s with vr := { s.vr with pools := tmod {} s.vr.pools i fun p => { p with attached := false } } }
    else s) s

/-- Free pool pages that meet p: their lines leave the caches first (R223). -/
def State.freePages (s : State) (p : PoolPage → Bool) : State :=
  let gone := s.vr.pages.filter p
  if gone = [] then s
  else
    let s := gone.foldl (fun s g => (s.dropPage g.region g.page).putMap g false) s
    ({ s with vr := { s.vr with pages := s.vr.pages.filter fun g => !p g } }).detachPools

/-- R223: a published entry is needed while a live Lap is not older than it and older than the Lap of
the next published entry of its page. -/
def State.needed (s : State) (g : PoolPage) : Bool :=
  let next := s.vr.pages.filter fun h =>
    h.region = g.region && h.page = g.page && h.published && newer g.lap h.lap
  (s.liveLaps g.region).any fun l =>
    !older g.lap l && next.all fun h => older h.lap l

/-- R224, R223: retire versions that are no longer live and free the entries no version needs. -/
def State.retire (s : State) (r : Nat) : State :=
  let x := s.region r
  if x.state = .free then s
  else
    let dead := x.slots.filter fun v => !s.live r v
    let s := if dead = [] then s
      else (s.setRegion r fun x => { x with slots := x.slots.filter fun v => !dead.contains v }).count
        .vrStat 2 dead.length
    s.freePages fun g => g.region = r && g.published && !s.needed g

def State.retireAll (s : State) : State := s.vr.regions.foldl (fun s e => s.retire e.1) s

/-! ### Ends of versions -/

/-- The bindings that `hit` picks become retired, in contexts and in descriptors; an engine command that held one
stops with VERSION_RETIRED (R225, R228). A version command acts on the bindings of its context, not on its copies. -/
def State.rebindAll (s : State) (hit : Binding → Bool) : State :=
  let ret (b : Binding) : Binding := if hit b then { b with mode := .retired } else b
  let stops (c : Cmd) : Bool := match c.body with
    | .eng e => e.unit != 6 && e.binds.any fun b => hit b && b.mode != .retired
    | _ => false
  let ids := (s.cmds.filter stops).map (·.id)
  let s : State := { s with
    vr := { s.vr with binds := s.vr.binds.map fun e => (e.1, ret e.2) }
    cmds := s.cmds.map fun c =>
      match stops c, (c.rebind ret).body with
      | true, .eng e => { c with body := .eng { e with conds := e.conds ++ [stVersionRetired] } }
      | _, b => { c with body := b } }
  ids.foldl (fun s id => s.owe (.eng id)) s

/-- The version in slot v of region r ends by force: bindings of it become retired, in contexts and in
descriptors; the slot and its private pages are freed (R225, R227). -/
def State.endVersion (s : State) (r v : Nat) : State :=
  let hit (b : Binding) : Bool := b.region = r && b.slot = v && (b.mode = .read || b.mode = .write)
  let s := s.rebindAll hit
  let s := s.setRegion r fun x => { x with slots := x.slots.filter (·.1 != v) }
  s.freePages fun g => g.region = r && g.slot = v && !g.published

/-- One forced retire, counted and with its event (R225, R541). -/
def State.forceRetire (s : State) (r : Nat) (v : Nat × Version) : State :=
  let s := (s.endVersion r v.1).count .vrStat 3
  s.event 4 (leBytes 2 r ++ [if v.2.published then 0 else 1, BitVec.ofNat 8 v.1] ++ leBytes 4 v.2.lap.toNat)

end Sys2Proof.Machine
end

