-- ==== Sys2Proof/Machine/Directory.lean ====
section
/-! DEFINITION. Directory entries, line transactions and recalls (R170 to R194). -/

namespace Sys2Proof.Machine

def State.entry (s : State) (l : Nat) : DirEntry := tget {} s.dir.entries l
def State.setEntry (s : State) (l : Nat) (e : DirEntry) : State :=
  { s with dir := { s.dir with entries := tset {} s.dir.entries l e } }

/-- The set of a line within its quadrant (R170). -/
def dirSet (l : Nat) : Nat := (l ^^^ (l / 2 ^ 18)) % 2 ^ 18

/-- The line has a transaction in progress (R186). -/
def State.busy (s : State) (l : Nat) : Bool :=
  s.dir.txns.any fun t => t.line = l || t.victim = some l

/-- A line that a request finds busy: a transaction is in progress, or requests that came before it wait for the
line (R37, R187). -/
def State.taken (s : State) (l : Nat) : Bool := s.busy l || s.dir.parked.any (·.1 = l)

/-- How a request came to stage 4: from stage 3 or its own backoff, from the stopped input of its quadrant, or out of
the wait space (R187). -/
inductive Came where
  | fresh | input | parked
deriving DecidableEq, Repr

/-- The line is busy for a request that came this way. -/
def State.meetsBusy (s : State) (came : Came) (l : Nat) : Bool := if came = .parked then s.busy l else s.taken l

/-- Host indices that an entry records. -/
def DirEntry.hosts (e : DirEntry) : List Nat :=
  (List.range 64).filter fun i =>
    e.sharers.getLsbD i || ((e.state = .excl || e.state = .oshared) && e.owner = i)

def DirEntry.shares (e : DirEntry) (i : Nat) : Bool := e.sharers.getLsbD i

/-- A sharers vector. -/
def hostBits (hs : List Nat) : BitVec 64 := hs.foldl (fun v i => v ||| BitVec.ofNat 64 (2 ^ i)) 0

def bitsHosts (v : BitVec 64) : List Nat := (List.range 64).filter fun i => v.getLsbD i

/-- Record an entry for a line, freshly used. -/
def State.putEntry (s : State) (l : Nat) (st : DirState) (dom owner : Nat) (sh : BitVec 64) : State :=
  if st = .free then s.setEntry l {}
  else
    let s : State := { s with dir := { s.dir with uses := s.dir.uses + 1 } }
    s.setEntry l { state := st, owner := owner, domain := dom, sharers := sh, age := s.dir.uses }

/-- Domain d runs in nearest-sharer mode (R193). -/
def State.compat (s : State) (d : Nat) : Bool := bit (s.hub .dirDomCfg d) 36

/-- Recall timeout of domain d in ns (R194; below 100 µs acts as 100 µs). -/
def State.recallTo (s : State) (d : Nat) : Nat := max 100 (bits (s.hub .dirDomCfg d) 31 16) * 1000

/-- bo_init and bo_max of DIR_CFG, in ns (R188). -/
def State.boInit (s : State) : Nat := max 1 (bits (s.hub .dirCfg) 15 0) * 100
def State.boMax (s : State) : Nat := max s.boInit (bits (s.hub .dirCfg) 31 16 * 100)

def RecallKind.code : RecallKind → Nat
  | .inval => 1 | .downgrade => 2 | .supply => 3

/-- The line's runs, wherever its extent stands. -/
def State.lineRuns (s : State) (l : Nat) : List (Loc × Nat × Nat) :=
  match s.extOver (l * 128) with
  | some n => s.runs n (l * 128 - s.extOff n) 128
  | none => []

/-- Write a whole line to its memory. -/
def State.writeLine (s : State) (l : Nat) (data : List Byte) : State :=
  let rs := s.lineRuns l
  if s.runsDead rs then s else s.writeRuns rs data []

/-- Send COH_RECALL to host i of domain d (R179); with no session to its endpoint it fails (R194). -/
def State.sendRecall (s : State) (l d i : Nat) (k : RecallKind) : State :=
  let c := bits (s.hub .dirDomMember d i) 11 0
  let ep := s.ctxOwner c
  let kind : ReqKind := .recall l i
  match s.epSess ep with
  | none => s.owe (.answer kind stTimeout false [])
  | some _ =>
    s.deviceReq kind ep 6 0x46
      { flags := BitVec.ofNat 16 (2 ^ 11), ctx := BitVec.ofNat 16 c, opLen := 128
        addr := BitVec.ofNat 64 (mkGfa s.ownId (l * 128)) } (leBytes 8 k.code)

/-- Start a transaction on a line: its recalls leave at once; with none it is ready. -/
def State.startTxn (s : State) (l : Nat) (p : TxnFor) (victim : Option Nat) (d : Nat)
    (rs : List (Nat × RecallKind)) (supply : List Nat) : State :=
  let t : Txn := { line := l, purpose := p, victim := victim, supply := supply
                   recalls := rs.map fun x => { host := x.1, kind := x.2, since := s.now } }
  let s : State := { s with dir := { s.dir with txns := s.dir.txns ++ [t] } }
  let s := rs.foldl (fun s x => s.sendRecall (victim.getD l) d x.1 x.2) s
  if rs = [] then s.owe (.txnReady l) else s

def State.setTxn (s : State) (l : Nat) (f : Txn → Txn) : State :=
  { s with dir := { s.dir with txns := s.dir.txns.map fun t => if t.line = l then f t else t } }

def State.endTxn (s : State) (l : Nat) : State :=
  { s with dir := { s.dir with txns := s.dir.txns.filter (·.line != l) } }

/-- The transaction whose recalls are of line l. -/
def State.recallTxn (s : State) (l : Nat) : Option Txn :=
  s.dir.txns.find? fun t => (t.victim.getD t.line) = l

/-- Sharers of an entry other than r, nearest first (R193): by rank in the member table, then index. -/
def State.nearest (s : State) (d : Nat) (e : DirEntry) (r : Option Nat) : List Nat :=
  let rank (i : Nat) : Nat := bits (s.hub .dirDomMember d i) 17 14
  let sh := (bitsHosts e.sharers).filter fun i => some i != r
  let sh := sortBy (fun i j => rank i * 64 + i < rank j * 64 + j) sh
  if e.state = .oshared && some e.owner != r then sh.filter (· != e.owner) ++ [e.owner] else sh

/-- A recall of line l to host i closes: with bytes, or without; `stays` says whether the host remains a holder, `wb`
that its write-back closed the recall (R180, R190, R191). A host that answers a SUPPLY with held 0 stays recorded: the
manual removes none (R193). -/
def State.closeRecall (s : State) (l i : Nat) (data : Option (List Byte)) (stays : Bool) (wb : Bool := false) : State :=
  match s.recallTxn l with
  | none => s
  | some t =>
    match t.recalls.find? (·.host = i) with
    | none => s
    | some r =>
      let d := (s.entry l).domain
      let keepO := s.compat d && r.kind = .downgrade
      let s : State := match data with
        | some b => if !wb && (r.kind = .supply || keepO) then s else s.writeLine l b
        | none => s
      let leaves : Bool := match r.kind with
        | .inval => true
        | .downgrade => !stays
        | .supply => wb && !stays
      let s := s.setTxn t.line fun t =>
        { t with recalls := t.recalls.filter (·.host != i)
                 data := if data.isSome then data else t.data
                 wb := t.wb || wb
                 dropped := if leaves then t.dropped ++ [i] else t.dropped }
      -- nearest-sharer mode: on held 0 the next nearest is asked (R193)
      let more := r.kind = .supply && data.isNone
      match more, t.supply with
      | true, j :: js =>
        let s := s.setTxn t.line fun t =>
          { t with supply := js, recalls := t.recalls ++ [{ host := j, kind := .supply, since := s.now }] }
        s.sendRecall l d j .supply
      | _, _ => if (t.recalls.filter (·.host != i)) = [] then s.owe (.txnReady t.line) else s

/-- The open recall of line l to host i. -/
def State.openRecall (s : State) (l i : Nat) : Bool :=
  match s.recallTxn l with
  | some t => t.recalls.any (·.host = i)
  | none => false

/-- The requester tag that carries the recall of line l to host i. -/
def State.recallTag (s : State) (l i : Nat) : Option (Nat × DevReq) :=
  s.xp.reqs.find? fun x => x.2.kind = .recall l i

/-- Free the tag of a recall that ended before its answer. With `count` the answer that is still to come will be
counted (R190); none is, where it has come and said wb_sent (R191). -/
def State.dropRecallTag (s : State) (l i : Nat) (count : Bool) : State :=
  match s.recallTag l i with
  | none => s.cancelReqs fun k => k = .recall l i
  | some (t, r) =>
    let q := s.lineHome l
    let came : Bool := match s.recallTxn l with
      | some x => x.recalls.any fun y => y.host = i && y.wbSent
      | none => false
    let s := (s.cancelReqs fun k => k = .recall l i).owe .tagFree
    if !count || came then s else { s with dir := { s.dir with late := s.dir.late ++ [(t, r.sess, r.inc, q)] } }

/-- A line wants an entry it does not have: the victim of a full set (R173). `some none` when a way is
free, `none` when all sixteen are busy. -/
def State.victimFor (s : State) (l : Nat) : Option (Option Nat) :=
  if (s.entry l).state != .free then some none
  else
    let q := s.lineHome l
    let ways := s.dir.entries.filter fun x => dirSet x.1 = dirSet l && s.lineHome x.1 = q
    -- ways that transactions in progress will take
    let taken := s.dir.txns.countP fun t => match t.purpose with
      | .coh _ => t.victim.isNone && (s.entry t.line).state = .free && dirSet t.line = dirSet l && s.lineHome t.line = q
      | _ => false
    if ways.length + taken < 16 then some none
    else
      let idle := ways.filter fun x => !s.busy x.1
      match idle with
      | [] => none
      | w :: ws => some (some (ws.foldl (fun m x => if x.2.age < m.2.age then x else m) w).1)

/-- Requests leave the wait space, or the input of stage 4, without having started; what is held at an input may go
on (R187). -/
def State.unpark (s : State) (p : Nat × Nat × Nat → Bool) (i : Nat × Nat × Nat → Bool) : State :=
  let d := s.dir
  if !d.parked.any p && !d.input.any i then s
  else
    let s : State := { s with dir := { d with parked := d.parked.filter fun x => !p x
                                              input := d.input.filter fun x => !i x } }
    (s.dir.input.map fun x => x.1).dedup.foldl (fun s q => s.owe (.input q)) s

/-- Waiters of a quadrant parked by R187. -/
def State.waiters (s : State) (q : Nat) : Nat := s.dir.parked.countP fun x => s.lineHome x.1 = q

end Sys2Proof.Machine
end

