-- ==== Sys2Proof/Machine/EngineCache.lean ====
section
/-! DEFINITION. The lines of an engine cache (R133, R136): look-up, fill, write, what of a line is dirty, and what of
it a revocation has taken (R137). -/

namespace Sys2Proof.Machine

/-- Which copy of a line: of the bytes outside regions (`none`), or of a published version. -/
abbrev EcVer := Option (Option Word32)

/-- Line l of quadrant q's engine cache, in version ver. -/
def State.ecFind (s : State) (q l : Nat) (ver : EcVer := none) : Option EcLine :=
  (s.cache.ec.find? fun x => x.1 = (q, l) && x.2.ver = ver).map fun x => x.2

/-- Drop a line, in every version, without writing it back. -/
def State.ecDrop (s : State) (q l : Nat) : State :=
  { s with cache := { s.cache with ec := s.cache.ec.filter fun x => x.1 != (q, l) } }

/-- Store a line; in a full cache of 131,072 lines a line that the device chooses leaves (R133, log 6). -/
def State.ecPut (s : State) (q l : Nat) (x : EcLine) : State :=
  if (s.ecFind q l x.ver).isSome then
    { s with cache := { s.cache with ec := s.cache.ec.map fun y =>
      if y.1 = (q, l) && y.2.ver = x.ver then (y.1, x) else y } }
  else
    let mine := (s.cache.ec.filter fun y => y.1.1 = q).map fun y => y.1.2
    let s : State := { s with cache := { s.cache with ec := s.cache.ec ++ [((q, l), x)] } }
    if mine.length < 131072 then s
    else
      let (s, d) := s.draw
      s.owe (.ecEvict q (mine.getD (Config.victim d % mine.length) 0))

/-- Bytes [o, o+n) as a mask of a line. -/
def lineMask (o n : Nat) : BitVec 128 := BitVec.ofNat 128 ((2 ^ n - 1) * 2 ^ o)

/-- The line's bytes where `m` holds, `under` elsewhere. -/
def overlay (m : BitVec 128) (top under : List Byte) : List Byte :=
  (List.range 128).map fun i => if m.getLsbD i then top.getD i 0 else under.getD i 0

/-- The sectors of a line that lie wholly in `m`. -/
def fullSectors (m : BitVec 128) : BitVec 2 :=
  (if lineMask 0 64 &&& m = lineMask 0 64 then 1 else 0) ||| (if lineMask 64 64 &&& m = lineMask 64 64 then 2 else 0)

/-- Bytes that memory gave, under the bytes that the cache holds of the line, so that an engine meets what its queue
has written though a write-back may still be on its way (R133, R141); and the sectors that are poisoned. -/
def State.ecMerge (s : State) (q l : Nat) (data : List Byte) (poison : BitVec 2) : List Byte × BitVec 2 :=
  match s.ecFind q l with
  | some x => (overlay x.valid x.data data, x.poison ||| (poison &&& ~~~(fullSectors x.valid)))
  | none => (data, poison)

/-- Keep a line that came from its point of coherence, over what the cache holds of it. -/
def State.ecFill (s : State) (q l : Nat) (ver : EcVer) (data : List Byte) (poison : BitVec 2) : State :=
  let x : EcLine := (s.ecFind q l ver).getD { data := [], valid := 0, dirty := 0, poison := 0, ver := ver }
  s.ecPut q l { x with data := data, valid := BitVec.allOnes 128, poison := poison }

/-- An engine writes bytes at `o` of a line; `clean` keeps a clean copy only (write_through). -/
def State.ecWrite (s : State) (q l o : Nat) (bs : List Byte) (clean : Bool) : State :=
  let x : EcLine := (s.ecFind q l).getD { data := List.replicate 128 0, valid := 0, dirty := 0, poison := 0 }
  let m := lineMask o bs.length
  s.ecPut q l { x with data := patch x.data o bs, valid := x.valid ||| m
                       dirty := if clean then x.dirty &&& ~~~m else x.dirty ||| m
                       poison := x.poison &&& ~~~(fullSectors m), gone := x.gone &&& ~~~m }

/-- The contiguous runs of the bytes of a mask: first byte and length. -/
def dirtyRuns (m : BitVec 128) : List (Nat × Nat) :=
  (List.range 128).foldl (fun rs i =>
    if m.getLsbD i then
      match rs.getLast? with
      | some (o, n) => if o + n = i then rs.dropLast ++ [(o, n + 1)] else rs ++ [(i, 1)]
      | none => [(i, 1)]
    else rs) []

/-- The dirty bytes of every engine cache in a range of an extent that is no longer ACTIVE will never be written
(R137). -/
def State.ecLose (s : State) (off n : Nat) : State :=
  let lost (y : (Nat × Nat) × EcLine) : (Nat × Nat) × EcLine :=
    if gfaDev (y.1.2 * 128) = s.ownId && overlaps (gfaOff (y.1.2 * 128)) 128 off n then
      (y.1, { y.2 with gone := y.2.gone ||| y.2.dirty })
    else y
  { s with cache := { s.cache with ec := s.cache.ec.map lost } }

/-- What an engine's read of line l, with these bindings, asks the cache for: the copy of which version; `none` for
an access that bypasses it. Those are accesses to a coherent extent (R134) or a private version (R209), and those
that no extent or region serves. -/
def State.ecKey (s : State) (binds : List Binding) (l : Nat) : Option EcVer :=
  let o := gfaOff (l * 128)
  if gfaDev (l * 128) != s.ownId then some none
  else match s.findExt o with
    | none => none
    | some e =>
      if s.extCoherent e then none
      else match s.regionAt o with
        | none => some none
        | some r => (s.readView r ((o - s.regBase r) / 4096) (binds.find? (·.region = r))).map some

/-- Engine writes to a line bypass the cache: a coherent extent (R134), a region that is not FREE (R209), or no
extent at all. -/
def State.ecBypass (s : State) (l : Nat) : Bool :=
  if gfaDev (l * 128) != s.ownId then false
  else match s.findExt (gfaOff (l * 128)) with
    | none => true
    | some e => s.extCoherent e || (s.regionAt (gfaOff (l * 128))).isSome

/-- A line outside every region that was fetched for a quadrant may be kept: on this device a cacheable one; from
another, or from a lender, only when the answer said nc (R133). -/
def State.ecKeeps (s : State) (l : Nat) (nc : Bool) : Bool :=
  if gfaDev (l * 128) != s.ownId then nc
  else match s.findExt (gfaOff (l * 128)) with
    | none => false
    | some e => !s.ecBypass l && (s.extTier e != 2 || nc)

end Sys2Proof.Machine
end

