-- ==== Sys2Proof/Machine/Access.lean ====
section
/-! DEFINITION. A memory access from stage 3 to stage 7: parts (R60), forwarding (R49, R58), versions
(R207), coherent lines (R184), the data access (R120, R151, R155) and its one completion. Host messages,
peer requests and the internal accesses of engines all pass here (R39). -/

namespace Sys2Proof.Machine

/-! ### Arithmetic of atomics (R151 to R153) -/

/-- Round n / 2^k to an integer, ties to even. -/
def rne (n k : Nat) : Nat :=
  let q := n / 2 ^ k
  let r := n % 2 ^ k
  if k = 0 then n
  else if 2 ^ (k - 1) < r || (r = 2 ^ (k - 1) && q % 2 = 1) then q + 1 else q

/-- A finite binary32 value as a multiple of 2^-149. -/
def f32Val (x : Nat) : Int :=
  let e := x / 2 ^ 23 % 256
  let m := x % 2 ^ 23
  let v : Nat := if e = 0 then m else (m + 2 ^ 23) * 2 ^ (e - 1)
  if x / 2 ^ 31 % 2 = 1 then -(v : Int) else v

/-- Magnitude n * 2^-149 to binary32 magnitude bits, round to nearest even, infinity on overflow. -/
def f32Mag (n : Nat) : Nat :=
  if n < 2 ^ 24 then n
  else
    let k := n.log2 - 23
    let m := rne n k
    let (m, k) := if m = 2 ^ 24 then (2 ^ 23, k + 1) else (m, k)
    if 254 ≤ k then 0x7F800000 else (k + 1) * 2 ^ 23 + (m - 2 ^ 23)

/-- R153: the sum of two binary32 values. -/
def fadd32 (a b : Nat) : Nat :=
  let isNan (x : Nat) := 0x7F800000 < x % 2 ^ 31
  let isInf (x : Nat) := x % 2 ^ 31 = 0x7F800000
  let neg (x : Nat) := x / 2 ^ 31 % 2 = 1
  if isNan a || isNan b then 0x7FC00000
  else if isInf a then (if isInf b && neg a != neg b then 0x7FC00000 else a % 2 ^ 32)
  else if isInf b then b % 2 ^ 32
  else
    let t := f32Val a + f32Val b
    if t = 0 then (if neg a && neg b then 0x80000000 else 0)
    else (if t < 0 then 0x80000000 else 0) + f32Mag t.natAbs

/-- R151: the new value of an atomic operation over n-bit operands. -/
def atomicOp (aop : Nat) (n old a b : Nat) : Nat :=
  let sOld := signed n old
  let sA := signed n a
  match aop with
  | 0x01 => (old + a) % 2 ^ n
  | 0x02 => old &&& a
  | 0x03 => old ||| a
  | 0x04 => old ^^^ a
  | 0x05 => if sOld ≤ sA then old else a
  | 0x06 => if sA ≤ sOld then old else a
  | 0x07 => min old a
  | 0x08 => max old a
  | 0x09 => a
  | 0x0A => if old = a then b else old
  | 0x0B => fadd32 old a
  | _ => old

/-- A scatter-add within a line: FP32 elements added one by one (R377). No message spells its code. -/
abbrev aopRow : Byte := 0x80

def rowAdd : Nat → List Byte → List Byte → List Byte
  | 0, _, _ => []
  | n + 1, old, add => leBytes 4 (fadd32 (field old 0 4) (field add 0 4)) ++ rowAdd n (old.drop 4) (add.drop 4)

/-! ### The data access (stage 6) -/

/-- The byte of [pos, pos+n) of the access, counted from pos, whose word is uncorrectable in flight. -/
def Access.hurtIn (a : Access) (pos n : Nat) : Option Nat :=
  match a.hurt with
  | some o => if pos ≤ o && o < pos + n then some (o - pos) else none
  | none => none

def Access.hurtHere (a : Access) (p : Part) : Option Nat := a.hurtIn p.pos p.len

/-- Zero the 64 B sector of the part that an in-flight mark poisons (R482). -/
def zeroSector (off p : Nat) (bs : List Byte) : List Byte :=
  let lo := (off + p) / 64 * 64
  bs.zipIdx.map fun x => if lo ≤ off + x.2 && off + x.2 < lo + 64 then 0 else x.1

/-- What the data access of a part gives: it ends, or waits at the flash die (R240, R242). -/
inductive Did where
  | ended (r : PartRes)
  | waits

def AccKind.isWrite : AccKind → Bool | .read => false | _ => true

def Cmd.acc? (c : Cmd) : Option Access := match c.body with | .access a => some a | _ => none

/-- Two parts touch one 128 B line of this device. -/
def Part.sharesLine (p w : Part) : Bool :=
  w.dev = p.dev && w.off / 128 * 128 < p.off + p.len && p.off / 128 * 128 < w.off + w.len

/-- A tier 1 part stands behind one that came to the flash die before it and still waits there: no request overtakes
an earlier one to its line, of which one at least writes (R37, R240). -/
def State.flashBehind (s : State) (id : Nat) (wr : Bool) (p : Part) : Bool :=
  s.cmds.any fun c => c.id != id && match c.acc? with
    | some a => (wr || a.kind.isWrite) && a.parts.any fun w => match w.st with
        | .flash t _ _ => p.sharesLine w &&
            (match p.st with
              | .flash u _ _ => t < u || (t = u && c.id < id)
              | _ => true)
        | _ => false
    | none => false

/-- The bytes of a part that a write changes, as runs from the part's first byte (R131). -/
def Access.writes (a : Access) (p : Part) : List (Nat × Nat) :=
  match a.mask with
  | none => [(0, p.len)]
  | some m => dirtyRuns ((m >>> p.pos) &&& lineMask 0 p.len)

/-- The data of a part goes to its runs, in one write (R131). -/
def State.putPart (s : State) (a : Access) (p : Part) (rs : List (Loc × Nat × Nat)) : State :=
  (a.writes p).foldl (fun s w =>
    let o := p.pos + w.1
    let marks := a.marks.filterMap fun m => if overlaps o w.2 (64 * m) 64 then some (m - o / 64) else none
    s.writeRuns (subRuns rs w.1 w.2) ((a.data.drop o).take w.2) marks) s

/-- Stage 6 of one part over its runs. `old` replaces memory where a host supplies the line (R193). -/
def State.doPart (s : State) (id : Nat) (a : Access) (p : Part) (rs : List (Loc × Nat × Nat)) (home : Nat)
    (old : Option (List Byte)) : State × Did :=
  let flashRun := rs.any fun r => match r.1 with | .fls _ => true | .hbm _ => false
  let full := rs.any fun r => match r.1 with | .fls o => !s.stageRoom (o / 4096) | .hbm _ => false
  let bad : PartRes := { stage := 6, status := stPoison, data := [] }
  if flashRun && (s.flash.state = .starting || s.flash.state = .off || s.flashBehind id a.kind.isWrite p) then (s, .waits)
  else if s.quadDead home then
    (s, .ended { bad with data := if a.kind = .read then List.replicate p.len 0 else [] })
  else match a.kind with
    | .read =>
      let (s, bs, pz) := s.readRuns rs
      let (bs, pz) := match old with | some b => (b, false) | none => (bs, pz)
      match a.hurtHere p with
      | some o => (s.wordBad 0 stPoison, .ended { stage := 6, status := stPoison, data := zeroSector p.off o bs })
      | none => (s, .ended { stage := 6, status := if pz then stPoison else stOk, data := bs
                             marks := if pz then s.runMarks rs else [] })
    | .write =>
      if s.runsDead rs then (s, .ended bad)
      else if full then (s, .waits)
      else
        let s := s.putPart a p rs
        match a.hurtHere p with
        | some o =>
          -- the sector reaches its destination with its mark (R482)
          let s := rs.foldl (fun (x : State × Nat) r =>
            let st := x.1
            let here := x.2 ≤ o && o < x.2 + r.2.1
            let st := if here then match r.1 with
                | .hbm k => st.markSector ((k + (o - x.2)) / 64)
                | .fls k => st.writePage (k + (o - x.2)) [] [(k + (o - x.2)) % 4096 / 64]
              else st
            (st, x.2 + r.2.1)) (s, 0)
          (s.1.wordBad 0 stPoison, .ended bad)
        | none => (s, .ended { stage := 6, status := stOk, data := [] })
    | .atomic | .signal =>
      if s.runsDead rs then (s, .ended bad)
      else if full then (s, .waits)
      else
        let (s, bs, pz) := s.readRuns rs
        if pz then (s, .ended bad)
        else
          let n := 8 * p.len
          let o := leNat bs
          let v := match a.kind with
            | .atomic => atomicOp a.aop.toNat n o (a.a.toNat % 2 ^ n) (a.b.toNat % 2 ^ n)
            | _ => if a.aop = 1 then a.a.toNat else (o + a.a.toNat) % 2 ^ 64
          let new := if a.kind = .atomic && a.aop = aopRow then rowAdd (p.len / 4) bs (a.data.drop p.pos) else leBytes p.len v
          (s.writeRuns rs new [], .ended { stage := 6, status := stOk, data := bs })

/-! ### Bookkeeping of accesses -/

def State.acc (s : State) (id : Nat) : Option Access := (s.findCmd id).bind Cmd.acc?

def State.setAcc (s : State) (id : Nat) (f : Access → Access) : State :=
  s.setCmd id fun c => match c.body with | .access a => { c with body := .access (f a) } | _ => c

def State.setPart (s : State) (id i : Nat) (f : Part → Part) : State :=
  s.setAcc id fun a => { a with parts := a.parts.modify i f }

def Part.isDone (p : Part) : Bool := match p.st with | .done _ => true | _ => false

/-- A part ends. -/
def State.endPart (s : State) (id i : Nat) (r : PartRes) : State :=
  s.setPart id i fun p => { p with st := .done r }

/-- Status of an access over its parts (R18, R60), and its bytes in order. -/
def Access.result (a : Access) : Byte × List Byte :=
  let rs := a.parts.filterMap fun p => match p.st with | .done r => some (r, p.len) | _ => none
  (worst (rs.map fun r => (r.1.stage, r.1.status)), rs.flatMap fun r => slice r.1.data 0 r.2)

/-- nc of a peer read: own bytes, non-coherent, outside every region that is not FREE (R94). -/
def State.ncOf (s : State) (gfa n : Nat) : Bool :=
  match s.findExt (gfaOff gfa) with
  | some e => !s.extCoherent e && (cuts 4096 (gfaOff gfa) n).all fun x => (s.regionAt x.1).isNone
  | none => false

def retryStatus (st : Byte) : Bool := st = stRetry

/-- Sectors of a read, from its first, that came back poisoned: the marks that its parts met, or every
sector of a part that another device served. -/
def Access.badSectors (a : Access) : List Nat :=
  (a.parts.flatMap fun p => match p.st with
    | .done r =>
      if r.status != stPoison then []
      else
        let ms := if r.marks = [] then List.range ((p.len + 63) / 64) else r.marks
        ms.map (p.pos / 64 + ·)
    | _ => []).dedup

/-- What an engine command keeps of an internal access that ended: a line it read, an old value, or a
condition (R39). -/
def Eng.took (e : Eng) (a : Access) (st : Byte) (data : List Byte) : Eng :=
  let e := { e with waits := e.waits - 1 }
  let bad := a.badSectors
  match a.kind with
  | .read =>
    if st = stOk || st = stPoison then
      let p : BitVec 64 := BitVec.ofNat 64 (bad.foldl (fun m i => m ||| 2 ^ i) 0)
      { e with fetched := e.fetched ++ [{ line := a.gfa / 128, data := data, poison := p }] }
    else { e with conds := e.conds ++ [st] }
  | _ => if st = stOk then e else { e with conds := e.conds ++ [st] }

/-- What a Heat part keeps of an access made for it. -/
def HeldPart.took (h : HeldPart) (a : Access) (st : Byte) (data : List Byte) : HeldPart :=
  let e := ({ unit := 4, quad := h.quad, queue := 0, op := 0, body := [], fetched := h.fetched, waits := h.waits,
              conds := h.conds : Eng }).took a st data
  { h with fetched := e.fetched, waits := e.waits, conds := e.conds }

/-- What waited for a command that has ended waits no longer: its places at stage 4, its requests to
other devices. A line transaction it started runs on until its answers are in (R186). -/
def State.forget (s : State) (id : Nat) : State :=
  let s := s.unpark (·.2.1 = id) (·.2.1 = id)
  let quad := match (s.findCmd id).map Cmd.body with | some (.eng e) => e.quad | _ => 0
  let late := s.xp.reqs.filterMap fun r => match r.2.kind with
    | .heat c _ => if c = id then some (r.1, r.2.sess, r.2.inc, quad) else none
    | _ => none
  let s : State := { s with xp := { s.xp with lateHeat := s.xp.lateHeat ++ late } }
  s.cancelReqs fun k => match k with
    | .fwd c _ _ | .heat c _ | .hdlPeer c => c = id
    | _ => false

/-- The grant word of R177. -/
def grantWord (present : Bool) (grant : Nat) : List Byte := leBytes 8 ((if present then 8 else 0) + grant)

/-- COH_READ_S, COH_READ_E and COH_UPGRADE (R174). -/
def isCohRead (t : Byte) : Bool := t = 0x41 || t = 0x42 || t = 0x43

/-- The line to which this access is a write of quadrant q's engines, or a write-back. -/
def State.ecWrites (s : State) (q : Nat) (c : Cmd) : Option Nat :=
  match c.src, c.acc? with
  | .writeBack p _, some a => if p = q then some (a.gfa / 128) else none
  | .engine e, some a => match (s.findCmd e).map Cmd.body with
    | some (.eng x) => if a.kind.isWrite && x.quad = q then some (a.gfa / 128) else none
    | _ => none
  | _, _ => none

/-- A write of quadrant q's engines to line l, or a write-back of it, is on its way. -/
def State.ecHeld (s : State) (q l : Nat) : Bool := s.cmds.any fun c => s.ecWrites q c = some l

/-- The write-backs that a command awaits: a flush or invalidation (R145), a gather before its Hurdle (R422). -/
def Eng.awaited (e : Eng) : List Nat := match e.phase with
  | .cache ids => ids
  | .gu g => g.backs.getD []
  | _ => []

def Cmd.awaits (c : Cmd) (id : Nat) : Bool := match c.body with
  | .eng e => e.awaited.contains id
  | _ => false

/-- Element adds that an access of a scatter-add performed (R377, R398). -/
def Access.adds (a : Access) : Nat :=
  if a.kind = .atomic && a.aop = aopRow then
    (a.parts.map fun p => match p.st with | .done r => if r.status = stOk then p.len / 4 else 0 | _ => 0).sum
  else 0

/-- The adds of an access of quadrant q's gather unit are counted. -/
def State.countAdds (s : State) (q : Nat) (a : Access) : State :=
  if a.adds = 0 then s else s.countQ q .guStat 3 a.adds

/-- The write-back `id` of line l of quadrant q has ended (R133, R137, R143, R145, R162): a line that was leaving goes
unless it is dirty anew, and the flushes that await it learn its end. What was discarded is no condition. -/
def State.backEnded (s : State) (id q l : Nat) (evict : Bool) (st : Byte) : State :=
  let s := s.countQ q .qdEcStat (if st = stExtentRevoked then 3 else 2)
  let clean : Bool := match s.ecFind q l with | some x => x.dirty = 0 | none => true
  let s := if evict && clean && !s.ecHeld q l then s.ecDrop q l else s
  let conds := if st = stOk || st = stExtentRevoked then [] else [st]
  ((s.cmds.filter fun c => c.awaits id).map (·.id)).foldl (fun s e =>
    (s.setCmd e fun c => match c.body with
      | .eng x => { c with body := .eng { x with conds := x.conds ++ conds } }
      | _ => c).owe (.eng e)) s

/-- What comes back of a line that quadrant q's engines read: the bytes that memory gave, under those that the cache
holds of it, and the copy that may be kept (R133, R136). -/
def State.lineRead (s : State) (q : Nat) (a : Access) (st : Byte) (data : List Byte) : State × List Byte :=
  let l := a.gfa / 128
  let pz : BitVec 2 := (if a.badSectors.contains 0 then 1 else 0) ||| (if a.badSectors.contains 1 then 2 else 0)
  match a.seen with
  | some v => (s.ecFill q l (some v) data pz, data)
  | none =>
    if s.ecBypass l then (s, data)
    else
      let (data, pz) := s.ecMerge q l data pz
      (if s.ecKeeps l (a.nc && st = stOk) then s.ecFill q l none data pz else s, data)

/-- Stage 7: the access completes once, and whoever it serves learns its end (R35, R39). -/
def State.finishAccess (s : State) (id : Nat) (st : Byte) (data : List Byte) : State :=
  match s.findCmd id with
  | none => s
  | some c =>
    match c.body with
    | .access a =>
      let s := (s.dropCmd id).forget id
      let s := if a.bind.isSome then s.owe .retireDue else s
      match c.src with
      | .msg o =>
        if isCohRead o.typ then
          -- served without an entry: use the data once (R178)
          s.sendCpl o st (if st = stOk then grantWord true 0 ++ data else []) false true
        else
        let pay := match a.kind with
          | .read => if st = stOk || st = stPoison then data else []
          | .atomic => if st = stOk then data else []
          | _ => []
        s.sendCpl o st pay (o.gfa && a.kind = .read && st = stOk && s.ncOf a.gfa a.len)
      | .engine e =>
        let u := match (s.findCmd e).map Cmd.body with | some (.eng x) => (x.unit, x.quad) | _ => (0, 0)
        -- the Pacer and the hub units bypass the engine caches (R253)
        let line := a.kind = .read && a.len = 128 && !a.vol && (st = stOk || st = stPoison) && 1 ≤ u.1 && u.1 ≤ 4
        let (s, data) := if line then s.lineRead u.2 a st data else (s, data)
        let s := s.countAdds u.2 a
        (s.setCmd e fun c => match c.body with
          | .eng x => { c with body := .eng (x.took a st data) }
          | _ => c).owe (.eng e)
      | .heat h =>
        let q := match (s.findCmd h).map Cmd.body with | some (.heat x) => x.quad | _ => 0
        -- a published version is read through the engine cache (R375)
        let s := if a.seen.isSome && (st = stOk || st = stPoison) then (s.lineRead q a st data).1 else s
        let s := s.countAdds q a
        (s.setCmd h fun c => match c.body with | .heat x => { c with body := .heat (x.took a st data) } | _ => c).owe (.part h)
      | .writeBack q evict => s.backEnded id q (a.gfa / 128) evict st
      | .tile q k t pg wr => s.owe (.tilePage q k t pg wr st data a.badSectors)
      | .update n pos => s.owe (.updRead n pos st data)
      | .scrub _ => s
      | .hurdle => if st = stOk then s else s.count .hubHdlStat 3
    | _ => s

/-- When every part has ended, the access completes. -/
def State.settleAccess (s : State) (id : Nat) : State :=
  match s.acc id with
  | some a =>
    if a.parts.all Part.isDone then
      let (st, bs) := a.result
      s.finishAccess id st bs
    else s
  | none => s

/-- An access ends at once with a status. -/
def State.failAccess (s : State) (id : Nat) (st : Byte) : State := s.finishAccess id st []

/-! ### Forwarding (R41, R49, R58, R135) -/

/-- A non-volatile MEM_READ is widened to whole lines, and its lines may be kept (R135). -/
def State.rcOn (s : State) (c : Cmd) (a : Access) : Bool :=
  a.kind = .read && !a.vol && bit (s.hub .hubRcCfg) 16 && (match c.src with | .msg _ => true | _ => false)

/-- Message type and bytes of a forwarded part. -/
def Access.wire (a : Access) (pos len : Nat) : Byte × Nat × List Byte :=
  match a.kind with
  | .read => (0x10, len, [])
  | .write => (0x11, len, (a.data.drop pos).take len)
  | .atomic =>
    -- an element of a scatter-add goes as an FADD32 (R151, R377; log 110)
    if a.aop = aopRow then (0x12, len, leBytes 8 0x0B ++ leBytes 8 (field a.data pos 4) ++ leBytes 8 0)
    else (0x12, len, [a.aop, 0, 0, 0, 0, 0, 0, 0] ++ leBytes 8 a.a.toNat ++ leBytes 8 a.b.toNat)
  | .signal => (0x13, 8, [a.aop, 0, 0, 0, 0, 0, 0, 0] ++ leBytes 8 a.a.toNat)

/-- Send part i to device `dev` at its offset `off` as a peer request on class 2. -/
def State.forward (s : State) (id i dev off : Nat) (lender : Bool) : State :=
  match s.findCmd id with
  | none => s
  | some c =>
    match c.acc? with
    | none => s
    | some a =>
      match a.parts[i]? with
      | none => s
      | some p =>
        let wide := s.rcOn c a
        let lo := if wide then off / 128 * 128 else off
        let hi := if wide then roundUp (off + p.len) 128 else off + p.len
        let (typ, n, pay) := a.wire p.pos (hi - lo)
        let fl := orFlag (orFlag (BitVec.ofNat 16 (2 ^ 11)) 10 (a.kind = .read && a.vol)) 9 (a.kind = .signal && a.unord)
        let s := s.setPart id i fun p => { p with st := .fwd, wide := wide }
        s.deviceReq (.fwd id i lender) dev 2 typ
          { flags := fl, opLen := BitVec.ofNat 16 n, addr := BitVec.ofNat 64 (mkGfa dev lo) } pay

/-- Send part i where its bytes are: to their owner (R49), or to the lender of its extent (R58). -/
def State.forwardPart (s : State) (id i : Nat) : State :=
  match ((s.acc id).bind fun a => a.parts[i]?) with
  | none => s
  | some p =>
    if p.dev != s.ownId then s.forward id i p.dev p.off false
    else s.forward id i (s.extLender p.ext) (s.extBack p.ext + (p.off - s.extOff p.ext)) true

/-- The pieces that leave the device, of pieces of an access: the dirty runs of a line, since no message names a mask
(R131; log 47), and single elements of a scatter-add. -/
def Access.pieces (a : Access) (cs : List (Nat × Nat)) : List (Nat × Nat) :=
  match a.mask with
  | some m => dirtyRuns m
  | none => if a.kind = .atomic && a.aop = aopRow then cs.flatMap fun x => cuts 4 x.1 x.2 else cs

/-- An engine command that is killed, or has met a condition (R39, R407). -/
def State.stopping (s : State) (id : Nat) : Bool := match (s.findCmd id).map Cmd.body with
  | some (.eng e) => e.killed.isSome || e.conds != []
  | _ => false

/-- Part i was refused with RETRY and backs off: after a delay between half and all of a bound, which starts at bo_init
and doubles up to bo_max, it tries again (R188). -/
def State.backOff (s : State) (id i : Nat) : State :=
  let s := s.setPart id i fun p =>
    let b := if p.last = 0 then s.boInit else min (2 * p.last) s.boMax
    { p with st := .backoff s.now, last := b }
  -- a command that is stopping does not try again (R407)
  match (s.findCmd id).map Cmd.src with
  | some (.engine e) => if s.stopping e then s.owe (.eng e) else s
  | some (.heat h) => s.owe (.part h)
  | _ => s

/-- DESIGN CHOICE: HUB_MM_STAT(0) and (1) count the 128 B lines that hit and are filled; R162 does not say whether a
read of several lines counts once (log 109).

Lines of the hub read cache (R135): fresh copies of every line of [gfa, gfa+n). -/
def State.rcHit (s : State) (gfa n : Nat) : Option (List Byte) :=
  let ttl := bits (s.hub .hubRcCfg) 15 0 * 100
  let ls := (List.range ((gfa + n - 1) / 128 - gfa / 128 + 1)).map (gfa / 128 + ·)
  let found := ls.filterMap fun l => s.cache.rc.find? fun x => x.line = l && s.now - x.filled ≤ ttl
  if ttl != 0 && found.length = ls.length then
    some (((found.flatMap fun x => x.data).drop (gfa % 128)).take n)
  else none

/-- A write that passes through the hub drops the copies of the lines it touches (R135). -/
def State.rcDrop (s : State) (gfa n : Nat) : State :=
  { s with cache := { s.cache with rc := s.cache.rc.filter fun e =>
    !(gfa / 128 ≤ e.line && e.line * 128 < gfa + n) } }

/-- Fill lines from an answer's whole lines; at 262,144 lines the oldest leaves (log 6). -/
def State.rcFill (s : State) (gfaLine : Nat) (data : List Byte) : State :=
  let n := data.length / 128
  let new := (List.range n).map fun i => { line := gfaLine + i, data := slice data (128 * i) 128, filled := s.now : RcLine }
  let kept := s.cache.rc.filter fun e => !(gfaLine ≤ e.line && e.line < gfaLine + n)
  let all := kept ++ new
  let s : State := { s with cache := { s.cache with rc := all.drop (all.length - 262144) } }
  s.count .hubMmStat 1 n

/-! ### Stage 4 -/

/-- Runs that part p addresses when no region holds it, in the extent that stage 3 found (R36, R59). -/
def State.plainRuns (s : State) (p : Part) : List (Loc × Nat × Nat) := s.runs p.ext (p.off - s.extOff p.ext) p.len

/-- What R207 decides for a part inside a region: a refusal, or the runs it works on. -/
inductive Seen where
  | refused (st : Byte) (counter : Option Nat)
  | runs (rs : List (Loc × Nat × Nat))

/-- R207, with the page that a write takes (R218, R219). -/
def State.versioned (s : State) (r : Nat) (a : Access) (p : Part) : State × Seen :=
  let rel := p.off - s.regBase r
  let page := rel / 4096
  let off := rel % 4096
  match s.verdict r a.bind a.kind.isWrite with
  | .refused st k => (s, .refused st k)
  | .reads b => (s, .runs (s.pageRuns r page off p.len b))
  | .writes b =>
    match s.privatePage r page b (a.kind = .write && a.len = 4096 && (p.off - p.pos) % 4096 = 0) with
    | (s, none) => (s, .refused stRetry (some 6))
    | (s, some g) => (s, .runs (s.poolRuns g off p.len))

/-- End or hold a part by what its data access gave, on the runs and the home of stage 4 (R36). -/
def State.afterDid (s : State) (id i : Nat) (rs : List (Loc × Nat × Nat)) (home : Nat) : Did → State
  | .ended r => s.endPart id i r
  | .waits => s.setPart id i fun p => { p with st := .flash s.now rs home }

/-- Does a request of this source and class wait at a busy line? (R187, R188) -/
def Cmd.waitsBusy (c : Cmd) : Bool := match c.src with
  | .msg o => o.cls = 3 || o.cls = 4
  | _ => false

/-- The request came with a message, and its completion tells of a RETRY; the device retries its own (R188). -/
def Cmd.fromMsg (c : Cmd) : Bool := match c.src with | .msg _ => true | _ => false

/-- The device tries again when a region, a pool or another device refuses this request with RETRY (R301, R358, R394).
DESIGN CHOICE: the manual says so of engine accesses; the model does the same for every request of the device's own but
a signal, which R419 counts as failed (log 113). -/
def Cmd.tries (c : Cmd) : Bool := !c.fromMsg && match c.src with | .hurdle => false | _ => true

/-- A request of a waiting class takes its place behind a busy line (R187): in the wait space, where one that has
waited comes first again, or at the stopped input of stage 4. -/
def State.waitAt (s : State) (id i l : Nat) (came : Came) : State :=
  let q := s.lineHome l
  let d := s.dir
  match came with
  | .parked => { s with dir := { d with parked := (l, id, i) :: d.parked } }
  | _ =>
    if s.waiters q < 4096 then
      ({ s with dir := { d with parked := d.parked ++ [(l, id, i)] } }).countQ q .dirStat 1
    else if came = .input then { s with dir := { d with input := (q, id, i) :: d.input } }
    else { s with dir := { d with input := d.input ++ [(q, id, i)] } }

/-- A part meets a busy line: it waits, ends with RETRY, or goes into the device's own backoff (R187, R188). -/
def State.meetBusy (s : State) (c : Cmd) (i l : Nat) (came : Came) : State :=
  if c.waitsBusy then (s.setPart c.id i fun p => { p with st := .parked }).waitAt c.id i l came
  else if c.fromMsg then
    (s.countQ (s.lineHome l) .dirStat 2).endPart c.id i { stage := 4, status := stRetry, data := [] }
  else s.backOff c.id i

/-- Recalls that an uncached access needs of an entry (R184, R193): DOWNGRADE or INVAL, and the hosts
to be asked by SUPPLY. -/
def State.uncachedRecalls (s : State) (d : Nat) (e : DirEntry) (wr : Bool) :
    List (Nat × RecallKind) × List Nat :=
  if wr then (e.hosts.map fun i => (i, .inval), [])
  else match e.state with
    | .excl => ([(e.owner, .downgrade)], [])
    | .shared | .oshared =>
      if s.compat d then
        match s.nearest d e none with
        | [] => ([], [])
        | i :: js => ([(i, .supply)], js)
      else ([], [])
    | .free => ([], [])

/-- The data access of part i, on its runs. -/
def State.didPart (s : State) (id i : Nat) (a : Access) (p : Part) (rs : List (Loc × Nat × Nat)) (home : Nat)
    (old : Option (List Byte)) : State :=
  let (s, did) := s.doPart id a p rs home old
  s.afterDid id i rs home did

/-- A part in region r at stage 4 (R207). A refused request is counted once (R231). -/
def State.regionPart (s : State) (c : Cmd) (i r : Nat) (a : Access) (p : Part) (home : Nat) : State :=
  match s.versioned r a p with
  | (s, .refused st k) =>
    let again := p.last != 0 || a.parts.any fun p => match p.st with | .done x => x.stage = 4 && x.status = st | _ => false
    let s := match k with | some k => if again then s else s.count .vrStat k | none => s
    if st = stRetry && c.tries then s.backOff c.id i else s.endPart c.id i { stage := 4, status := st, data := [] }
  | (s, .runs rs) =>
    -- an engine may keep what it reads of a published version outside a coherent extent (R134, R209)
    let view := if a.kind = .read && !c.fromMsg && !s.extCoherent p.ext then
        s.readView r ((p.off - s.regBase r) / 4096) a.bind
      else none
    (s.setAcc c.id fun a => { a with seen := view }).didPart c.id i a p rs home none

/-- A corrective write reaches the home: the sector is rewritten with its corrected data, unless it has been written since
the scrub read it (R487). -/
def State.scrubWrite (s : State) (id i sc : Nat) : State :=
  let s := if s.mem.flawed.contains sc then { s with mem := { s.mem with flawed := serase sc s.mem.flawed } }
    else s.count .hubErrStat 5
  s.endPart id i { stage := 6, status := stOk, data := [] }

/-- Stage 4 of part i of access `id`: domain, region, directory (R167, R207, R184), then its data. -/
def State.stage4 (s : State) (id i : Nat) (came : Came) : State :=
  match s.findCmd id with
  | none => s
  | some c =>
    match c.acc? with
    | none => s
    | some a =>
      match a.parts[i]? with
      | none => s
      | some p =>
        match s.findExt p.off with
        | none => s.endPart id i { stage := 3, status := stExtentRevoked, data := [] }
        | some e =>
          let d := s.extDomain e
          let home := s.homeOf e (p.off - s.extOff e)
          let l := p.off / 128
          if came = .fresh && s.dir.input.any (·.1 = home) then
            match p.st with
            | .backoff _ => s
            | _ =>
              let s := s.setPart id i fun p => { p with st := .parked }
              { s with dir := { s.dir with input := s.dir.input ++ [(home, id, i)] } }
          else if s.extCoherent e && s.domState d != .up then
            s.endPart id i { stage := 4, status := stDomainDown, data := [] }
          else match s.regionAt p.off with
            | some r => match c.src with
              | .scrub sc => s.scrubWrite id i sc
              | _ => s.regionPart c i r a p home
            | none =>
              if s.extCoherent e then
                if s.meetsBusy came l then s.meetBusy c i l came
                else match c.src with
                | .scrub sc => s.scrubWrite id i sc
                | _ =>
                  let (rs, sup) := s.uncachedRecalls d (s.entry l) a.kind.isWrite
                  if rs = [] then s.didPart id i a p (s.plainRuns p) home none
                  else
                    let s := s.setPart id i fun p => { p with st := .txn }
                    s.startTxn l (.part id i) none d rs sup
              else s.didPart id i a p (s.plainRuns p) home none

/-! ### Stage 3 -/

/-- Extents that serve a unit of the device: search scratch (R359), gather buffers (R396) and tensor save
areas (R403). -/
def State.reserved (s : State) (e : Nat) : Bool :=
  (List.range 4).any fun q =>
    let own (w : Word) : Bool := bit w 12 && bits w 11 0 = e
    own (s.quad q .seCfg) || own (s.quad q .guCfg) || own (s.quad q .qdCtxCfg)

/-- Bytes that no request reaches while they serve the device: pool extents and the flash map (R220, R237), and what
serves a unit. -/
def State.closedExt (s : State) (e : Nat) : Bool :=
  s.inPool e || s.reserved e || (s.flash.state != .off && bits (s.at { reg := .flsMap }) 11 0 = e)

/-- Stage 3 refuses this command at extent e; a lent extent answers only its borrower (R58). -/
def State.shut (s : State) (e : Nat) (c : Cmd) : Bool :=
  s.closedExt e
    || (s.extLent e && match c.src with
        | .msg o => !(o.gfa && o.peer.toNat = s.extPeer e)
        | _ => true)

/-- Split an access to this device: interleave units, and lines where the extent is coherent (R60,
R131). -/
def State.splitLocal (s : State) (e o n : Nat) : List Part :=
  let rel := o - s.extOff e
  let cs := if s.extCoherent e then cuts 128 rel n else cuts (s.extUnit e) rel n
  cs.map fun x => { pos := x.1 - rel, len := x.2, dev := s.ownId, off := s.extOff e + x.1, ext := e, st := .parked }

/-- Parts of a message of a retry class that meet busy lines (R188). -/
def State.busyParts (s : State) (c : Cmd) (ps : List Part) : List Part :=
  if !c.fromMsg || c.waitsBusy then []
  else ps.filter fun p =>
    s.extCoherent p.ext && (s.regionAt p.off).isNone && s.domState (s.extDomain p.ext) = .up && s.taken (p.off / 128)

/-- An access of a retry class that meets a busy line is refused whole: it has no effect (R188). Its status is the
worst that stage 4 finds over its parts, VERSION_CONFLICT and VERSION_RETIRED before RETRY (R33, R60). -/
def State.refuseWhole (s : State) (id : Nat) (a : Access) (ps : List Part) (busy : Part) : State :=
  let found : List (Byte × Option Nat) := ps.filterMap fun p => match s.regionAt p.off with
    | some r => match s.verdict r a.bind a.kind.isWrite with
      | .refused st k => some (st, k)
      | _ => none
    | none => none
  let st := worst ((4, stRetry) :: found.map fun x => (4, x.1))
  let s :=
    if st = stRetry then s.countQ (s.lineHome (busy.off / 128)) .dirStat 2
    else match (found.find? fun x => x.1 = st).bind fun x => x.2 with
      | some k => s.count .vrStat k
      | none => s
  s.finishAccess id st []

/-- Bindings of the owner's own command, under which it serves a Heat part (R386). -/
def State.ownerBinds (s : State) (h : Nat) : List Binding :=
  match (s.findCmd h).map Cmd.body with
  | some (.heat x) =>
    match ((tget {} s.gu.groups x.group).active.bind s.findCmd).map Cmd.body with
    | some (.eng e) => e.binds
    | _ => []
  | _ => []

/-- The binding that stage 3 attaches to an access of a READY region, as it stands (R206). -/
def State.bindAt (s : State) (c : Cmd) (o : Nat) : Option Binding :=
  match s.regionAt o with
  | none => none
  | some r =>
    let copies (e : Option Nat) : List Binding := match (e.bind s.findCmd).map Cmd.body with
      | some (.eng e) => e.binds
      | _ => []
    let own : Option Binding := (s.bindOf c.ctx r).map fun x => x.2
    if (s.region r).state != .ready then none
    else match c.src with
      | .msg m => if m.gfa then none else own
      | .hurdle => own
      | .tile q k _ _ _ => (copies (some (tget {} s.pace (8 * q + k)).cmd)).find? (·.region = r)
      | .heat h => (s.ownerBinds h).find? (·.region = r)
      | .engine id => (copies (some id)).find? (·.region = r)
      | _ => none

/-- Parts of an access that leaves the device: widened reads longer than a message go as two (R95, R135). -/
def State.splitAway (s : State) (c : Cmd) (a : Access) : List Part :=
  let cut := a.gfa / 128 * 128 + 4096
  let k := cut - a.gfa
  let cs := if s.rcOn c a && k < a.len then [(0, k), (k, a.len - k)] else [(0, a.len)]
  (a.pieces cs).map fun x =>
    { pos := x.1, len := x.2, dev := gfaDev a.gfa, off := gfaOff a.gfa + x.1, st := .parked }

/-- Stages 3 to 6 of an accepted access, as far as they go now. -/
def State.startAccess (s : State) (id : Nat) : State :=
  match s.findCmd id with
  | none => s
  | some c =>
    match c.acc? with
    | none => s
    | some a =>
      let s := if a.kind.isWrite then s.rcDrop a.gfa a.len else s
      let hit := if s.rcOn c a then s.rcHit a.gfa a.len else none
      let lines := (a.gfa + a.len - 1) / 128 - a.gfa / 128 + 1
      let send (s : State) (ps : List Part) : State := match hit with
        | some bs =>
          let s := s.count .hubMmStat 0 lines
          match a.hurtIn 0 a.len with
          | some o => (s.wordBad 0 stPoison).finishAccess id stPoison (zeroSector a.gfa o bs)
          | none => s.finishAccess id stOk bs
        | none =>
          let s := s.setAcc id fun a => { a with parts := ps }
          (List.range ps.length).foldl (fun s i => s.forwardPart id i) s
      if gfaDev a.gfa != s.ownId then send s (s.splitAway c a)
      else
        let o := gfaOff a.gfa
        match s.findExt o with
        | none => s.failAccess id stExtentRevoked
        | some e =>
          let ps := s.splitLocal e o a.len
          if s.extOff e + s.extLen e < o + a.len || s.shut e c then s.failAccess id stExtentRevoked
          else if s.extTier e = 2 then
            send s ((a.pieces (ps.map fun p => (p.pos, p.len))).map fun x =>
              { pos := x.1, len := x.2, dev := s.ownId, off := o + x.1, ext := e, st := .parked })
          else
            -- stage 3 attaches the binding as it stands, once (R206)
            let a := { a with parts := ps, bind := if a.bind.isSome then a.bind else s.bindAt c o }
            let s := s.setAcc id fun _ => a
            match s.busyParts c ps with
            | [] => ((List.range ps.length).foldl (fun s i => s.stage4 id i .fresh) s).settleAccess id
            | busy :: _ => s.refuseWhole id a ps busy

/-- Accept an internal access and start it (R39). -/
def State.internal (s : State) (src : Src) (ctx : Nat) (a : Access) : State :=
  let (s, id) := s.accept src ctx (.access a)
  s.startAccess id

end Sys2Proof.Machine
end

