-- ==== Sys2Proof/Machine/Coherence.lean ====
section
/-! DEFINITION. Home transactions (R182 to R193), the failure of a domain (R194 to R196) and the rows of
05_directory.md. -/

namespace Sys2Proof.Machine

def Cmd.coh? (c : Cmd) : Option CohReq := match c.body with | .coh r => some r | _ => none

/-- A coherence request completes with a status and no grant. -/
def State.endCoh (s : State) (id : Nat) (st : Byte) : State :=
  match s.findCmd id with
  | none => s
  | some c =>
    let s := (s.dropCmd id).forget id
    match c.src with
    | .msg o => s.sendCpl o st [] false (isCohRead o.typ)
    | _ => s

/-- A request to a line ends with a status of stage 4, whatever its form. -/
def State.endAt4 (s : State) (id part : Nat) (st : Byte) : State :=
  match (s.findCmd id).map Cmd.body with
  | some (.coh _) => s.endCoh id st
  | some (.access _) => (s.endPart id part { stage := 4, status := st, data := [] }).settleAccess id
  | _ => s

/-- Send the grant of request `id` (R177) and hold the line busy until it is acknowledged (R186). -/
def State.grant (s : State) (id l grant : Nat) (data : Option (List Byte)) : State :=
  match s.findCmd id with
  | some c =>
    match c.src with
    | .msg o =>
      let live := s.sessLive o.sess o.inc
      let q := (s.txOf o.sess o.cls).next
      let s := (s.dropCmd id).forget id
      let s := s.sendCpl o stOk (grantWord data.isSome grant ++ data.getD []) false true
      if live then s.setTxn l fun t => { t with grant := some (o.sess, o.inc, o.cls, q) } else s.endTxn l
    | _ => s.endTxn l
  | none => s.endTxn l

/-- Recalls of a coherence request from host r (R182, R193): each at once, and hosts by SUPPLY. -/
def State.cohRecalls (s : State) (k : CohKind) (d r : Nat) (e : DirEntry) :
    List (Nat × RecallKind) × List Nat :=
  let others := e.hosts.filter (· != r)
  match k with
  | .readS =>
    match e.state with
    | .excl => if e.owner = r then ([], []) else ([(e.owner, .downgrade)], [])
    | .shared | .oshared =>
      if s.compat d then
        match s.nearest d e (some r) with
        | [] => ([], [])
        | i :: js => ([(i, .supply)], js)
      else ([], [])
    | .free => ([], [])
  | .readE | .upgrade => (others.map fun i => (i, .inval), [])
  | .wb | .evict => ([], [])

/-- The entry that the answers of a transaction leave (R182, R184, R190, R191, R193): the hosts that dropped the line
are gone; an owner that was asked by DOWNGRADE shares it, or holds O where its answer's bytes stay unwritten. -/
def State.putLeft (s : State) (t : Txn) (asked : Bool) : State :=
  let l := t.line
  let e := s.entry l
  let sh := e.sharers &&& ~~~(hostBits t.dropped)
  let shared (sh : BitVec 64) : State := s.putEntry l (if sh = 0 then .free else .shared) e.domain 0 sh
  match e.state with
  | .free => s
  | .shared => shared sh
  | .oshared => if t.dropped.contains e.owner then shared sh else s.putEntry l .oshared e.domain e.owner sh
  | .excl =>
    if t.dropped.contains e.owner then shared 0
    else if !asked then s
    else if s.compat e.domain && t.data.isSome && !t.wb then s.putEntry l .oshared e.domain e.owner 0
    else shared (hostBits [e.owner])

/-- The transaction of a coherence request ends: data, entry after, grant (R182, R192, R193). A line
whose bytes meet a mark gives POISON and no grant; the entry keeps the holders that are left (log 21). -/
def State.cohFinish (s : State) (t : Txn) (id : Nat) (c : CohReq) : State :=
  let l := t.line
  let e := s.entry l
  let r := c.host
  let d := c.domain
  let me := hostBits [r]
  let (s, mem, bad) := s.readRuns (s.lineRuns l)
  let data := t.data.getD mem
  let bad := bad && t.data.isNone
  let noData := c.kind = .upgrade && ((e.state = .shared && e.shares r) || (e.state = .oshared && (e.shares r || e.owner = r)))
  let left := s.putLeft t (e.owner != r)
  if bad && !noData then (left.endTxn l).endCoh id stPoison
  else
    match c.kind with
    | .readS =>
      let x := left.entry l
      let s := if x.state = .oshared then
          left.putEntry l .oshared d x.owner (if x.owner = r then x.sharers else x.sharers ||| me)
        else left.putEntry l .shared d 0 (x.sharers ||| me)
      s.grant id l 1 (some data)
    | _ => (s.putEntry l .excl d r 0).grant id l 2 (if noData then none else some data)

/-- The transaction of an uncached access ends: the entry after, then the access (R184, R193). A part that has ended
meanwhile is not performed (R73). -/
def State.partFinish (s : State) (t : Txn) (id i : Nat) : State :=
  let l := t.line
  let was := (s.entry l).state
  let waits (p : Part) : Bool := match p.st with | .txn => true | _ => false
  match (s.acc id).bind fun a => ((a.parts[i]?).filter waits).map fun p => (a, p) with
  | none => (s.putLeft t true).endTxn l
  | some (a, p) =>
    let wr := a.kind.isWrite
    let s := if wr then s.putEntry l .free 0 0 0 else s.putLeft t true
    -- the bytes that an answer brought and memory does not hold
    let loose := !wr && !t.wb && (was != .excl || (s.entry l).state = .oshared)
    let old := if loose then t.data.map fun b => slice b (p.off % 128) p.len else none
    ((s.endTxn l).didPart id i a p (s.plainRuns p) (s.lineHome l) old).settleAccess id

/-! ### A coherence request at stages 3 and 4 -/

/-- Reduce a coherence request to the access of R178. -/
def CohReq.plain (c : CohReq) (gfa : Nat) : Access :=
  match c.kind with
  | .wb => { kind := .write, gfa := gfa, len := 128, data := c.data, bind := c.bind }
  | _ => { kind := .read, vol := true, gfa := gfa, len := 128, bind := c.bind }

/-- A write-back meets the open recall of its line to its host (R190). -/
def State.crosses (s : State) (c : CohReq) : Bool :=
  c.kind = .wb && (s.entry c.line).state != .free && (s.entry c.line).domain = c.domain && s.openRecall c.line c.host

/-- A write-back at its line (R182, R183, R190, R193). DESIGN CHOICE: of the O holder's COH_WB the manual says only that
the entry becomes SHARED without O holder, or FREE if no sharer is recorded; with keep 1 the model records that host as a
sharer, as R182 does for the EXCL owner (log 45). -/
def State.cohWb (s : State) (id l : Nat) (c : CohReq) : State :=
  let e := s.entry l
  let d := c.domain
  let q := s.lineHome l
  if s.crosses c then
    let down := match s.recallTxn l with
      | some t => t.recalls.any fun r => r.host = c.host && r.kind = .downgrade
      | none => false
    let s := (s.countQ q .dirStat 3).dropRecallTag l c.host true
    -- the write-back's bytes reach memory in every mode: the writer keeps no dirty copy
    (s.closeRecall l c.host (some c.data) (down && c.keep) true).endCoh id stOk
  else if e.state = .excl && e.owner = c.host then
    let s := s.writeLine l c.data
    (if c.keep then s.putEntry l .shared d 0 (hostBits [c.host]) else s.putEntry l .free 0 0 0).endCoh id stOk
  else if e.state = .oshared && e.owner = c.host then
    let s := s.writeLine l c.data
    let sh := e.sharers ||| (if c.keep then hostBits [c.host] else 0)
    (s.putEntry l (if sh = 0 then .free else .shared) d 0 sh).endCoh id stOk
  else (s.countQ q .dirStat 5).endCoh id stOk

/-- A clean drop at its line (R182, R183). -/
def State.cohEvict (s : State) (id l : Nat) (c : CohReq) : State :=
  let e := s.entry l
  if !e.hosts.contains c.host then s.endCoh id stOk
  else
    let sh := e.sharers &&& ~~~(hostBits [c.host])
    let s := match e.state with
      | .excl => s.putEntry l .free 0 0 0
      | .oshared => if e.owner = c.host then s.putEntry l (if sh = 0 then .free else .shared) c.domain 0 sh
                    else s.putEntry l .oshared c.domain e.owner sh
      | _ => s.putEntry l (if sh = 0 then .free else .shared) c.domain 0 sh
    s.endCoh id stOk

/-- A coherence request meets a busy line (R187, R188). -/
def State.cohBusy (s : State) (c : Cmd) (l : Nat) (came : Came) : State :=
  if c.waitsBusy then s.waitAt c.id 0 l came
  else (s.countQ (s.lineHome l) .dirStat 2).endCoh c.id stRetry

/-- Stage 4 of a coherence request (R178, R182). A write-back that meets its recall answers it, whatever has become of
the line meanwhile (R190, R226). -/
def State.cohStage4 (s : State) (id : Nat) (came : Came) : State :=
  match s.findCmd id with
  | none => s
  | some cmd =>
    match cmd.coh? with
    | none => s
    | some c =>
      let l := c.line
      match s.findExt (l * 128) with
      | none => s.endCoh id stExtentRevoked
      | some e =>
        let q := s.lineHome l
        let served := s.extCoherent e && s.extDomain e = c.domain && (s.regionAt (l * 128)).isNone
        if came = .fresh && s.dir.input.any (·.1 = q) then
          { s with dir := { s.dir with input := s.dir.input ++ [(q, id, 0)] } }
        else if s.extCoherent e && s.domState (s.extDomain e) != .up then s.endCoh id stDomainDown
        else if s.crosses c then s.cohWb id l c
        else if !served then
          match c.kind with
          | .evict => s.endCoh id stOk
          | _ => (s.setCmd id fun x => { x with body := .access (c.plain (mkGfa s.ownId (l * 128))) }).startAccess id
        else if s.meetsBusy came l then s.cohBusy cmd l came
        else match c.kind with
          | .wb => s.cohWb id l c
          | .evict => s.cohEvict id l c
          | k =>
            match s.victimFor l with
            | none => s.cohBusy cmd l came
            | some (some v) =>
              let ev := s.entry v
              s.startTxn l (.coh id) (some v) ev.domain (ev.hosts.map fun i => (i, .inval)) []
            | some none =>
              let (rs, sup) := s.cohRecalls k c.domain c.host (s.entry l)
              s.startTxn l (.coh id) none c.domain rs sup

/-- Stage 3 of a coherence request (R51, R58, R178): its binding is attached (R206); one on another device is served at
its owner as an uncached access. DESIGN CHOICE: a COH_WB that crosses a REVOKE's recall is refused here with
EXTENT_REVOKED, as every request to a revoked extent is (R51); its bytes are lost, although R74 waits for the recall
that it would have answered (log 111). -/
def State.cohStage3 (s : State) (id gfa : Nat) : State :=
  match s.findCmd id with
  | none => s
  | some cmd =>
    match cmd.coh? with
    | none => s
    | some c =>
      let b := if gfaDev gfa = s.ownId then s.bindAt cmd (gfaOff gfa) else none
      let c := { c with bind := some (b.getD {}) }
      let away (s : State) : State := match c.kind with
        | .evict => s.endCoh id stOk
        | _ => (s.setCmd id fun x => { x with body := .access (c.plain gfa) }).startAccess id
      if gfaDev gfa != s.ownId then away s
      else match s.findExt (gfaOff gfa) with
        | none => s.endCoh id stExtentRevoked
        | some e =>
          if s.shut e cmd then s.endCoh id stExtentRevoked
          else if s.extTier e = 2 then away s
          else (s.setCmd id fun x => { x with body := .coh c }).cohStage4 id .fresh

/-- Run a request that stood at stage 4. -/
def State.run4 (s : State) (id part : Nat) (came : Came) : State :=
  match (s.findCmd id).map Cmd.body with
  | some (.coh _) => s.cohStage4 id came
  | some (.access _) => (s.stage4 id part came).settleAccess id
  | _ => s

/-- Every recall of the transaction on line l has ended. -/
def State.txnReady (s : State) (l : Nat) : State :=
  match s.dir.txns.find? (·.line = l) with
  | none => s
  | some t =>
    if t.recalls != [] then s
    else match t.victim with
      | some v =>
        -- the victim is freed and the request takes its way (R173)
        let s := (s.putEntry v .free 0 0 0).countQ (s.lineHome v) .dirStat 4
        let s := s.endTxn l
        match t.purpose with
        | .coh id => s.cohStage4 id .parked
        | _ => s
      | none =>
        match t.purpose with
        | .coh id =>
          match (s.findCmd id).bind Cmd.coh? with
          | some c => s.cohFinish t id c
          | none => (s.putLeft t true).endTxn l
        | .part id i => s.partFinish t id i
        | .revoke _ | .declare _ => (s.putEntry l .free 0 0 0).endTxn l
        | .evict => ((s.putEntry l .free 0 0 0).countQ (s.lineHome l) .dirStat 4).endTxn l

/-- Start INVAL for every entry of a range (R185, R226). A line already in a transaction is taken when
that transaction has ended. -/
def State.recallRange (s : State) (lo n : Nat) (p : TxnFor) : State :=
  let ls := s.dir.entries.filter fun x => lo ≤ x.1 * 128 && x.1 * 128 < lo + n && !s.busy x.1
  ls.foldl (fun s x => s.startTxn x.1 p none x.2.domain (x.2.hosts.map fun i => (i, .inval)) []) s

/-! ### Domain failure (R194 to R196) -/

/-- Domain of a device line. -/
def State.lineDomain (s : State) (l : Nat) : Option Nat :=
  match s.extOver (l * 128) with
  | some e => if s.extCoherent e then some (s.extDomain e) else none
  | none => none

def State.setDom (s : State) (d : Nat) (f : Domain → Domain) : State :=
  { s with dir := { s.dir with domains := tmod {} s.dir.domains d f } }

/-- The line of a request that is held at the input of stage 4. -/
def State.heldLine (s : State) (id part : Nat) : Option Nat :=
  match (s.findCmd id).map Cmd.body with
  | some (.coh c) => some c.line
  | some (.access a) => (a.parts[part]?).map fun p => p.off / 128
  | _ => none

/-- The entry of line l is one of domain d. -/
def State.entryIn (s : State) (l d : Nat) : Bool := (s.entry l).state != .free && (s.entry l).domain = d

/-- One transaction as domain d enters FAILING (R195): recalls of the domain's hosts are abandoned, and a request for
one of its lines ends with DOMAIN_DOWN. A request of another domain goes on once its victim is gone with the domain; a
victim of another domain is still freed. -/
def State.txnDown (s : State) (t : Txn) (d : Nat) : State :=
  let asked := t.victim.getD t.line
  let mine := s.lineDomain t.line = some d
  let lost := s.entryIn asked d || (t.victim.isNone && mine)
  if !mine && !lost then s
  else
    let s := if lost then t.recalls.foldl (fun s r => s.dropRecallTag asked r.host false) s else s
    if !mine && t.victim.isSome then (s.setTxn t.line fun t => { t with recalls := [], supply := [] }).owe (.txnReady t.line)
    else
      let s := if lost then s.endTxn t.line
        else (s.setTxn t.line fun t => { t with line := asked, victim := none, purpose := .evict }).owe (.txnReady asked)
      match t.purpose with
      | .coh id => if t.grant.isSome then s else s.endCoh id stDomainDown
      | .part id i => s.endAt4 id i stDomainDown
      | _ => s

/-- R195: a domain enters FAILING. -/
def State.domFail (s : State) (d : Nat) (member : Byte) : State :=
  if s.domState d != .up then s
  else
    let s := s.setDom d fun x => { x with state := .failing, member := member }
    -- its open recalls are abandoned, and the requests of its lines answered
    let s := s.dir.txns.foldl (fun s t => s.txnDown t d) s
    let held := s.dir.parked.filter fun x => s.lineDomain x.1 = some d
    let stopped := s.dir.input.filter fun x => (s.heldLine x.2.1 x.2.2).bind s.lineDomain = some d
    let s := s.unpark held.contains stopped.contains
    let s := (held ++ stopped).foldl (fun s x => s.endAt4 x.2.1 x.2.2 stDomainDown) s
    -- requests of member contexts that have not reached stage 6, and the device's own in backoff
    let mine (c : Cmd) : Bool := c.ctx != 0 && (s.slotIn d c.ctx).isSome
    let ids := s.cmds.map (·.id)
    let s := ids.foldl (fun s id =>
      match s.findCmd id with
      | none => s
      | some c =>
        match c.body with
        | .access a =>
          let own := match c.src with | .msg _ => mine c | _ => false
          let s := a.parts.zipIdx.foldl (fun s x =>
            let hit := match x.1.st with
              | .parked => own
              | .txn => own
              | .backoff _ => own || (x.1.dev = s.ownId && s.lineDomain (x.1.off / 128) = some d)
              | _ => false
            if hit then s.endPart id x.2 { stage := 4, status := stDomainDown, data := [] } else s) s
          s.settleAccess id
        | .held _ => if mine c then
            match c.src with
            | .msg o => (s.dropCmd id).sendCpl o stDomainDown []
            | _ => s
          else s
        | .coh _ => if mine c then s.endCoh id stDomainDown else s
        | .eng e =>
          if mine c then
            (s.setCmd id fun c => { c with body := .eng { e with conds := e.conds ++ [stDomainDown] } }).owe (.eng id)
          else s
        | _ => s) s
    -- lines that a host held exclusively are poisoned, one record per home quadrant
    let lost := s.dir.entries.filter fun x =>
      x.2.domain = d && (x.2.state = .excl || (x.2.state = .oshared && s.compat d))
    let s := lost.foldl (fun s x => (s.lineRuns x.1).foldl (fun s r => match r.1 with
      | .hbm a => (sectorsOf a r.2.1).foldl State.markSector s
      | .fls o => s.writePage o [] ((List.range (r.2.1 / 64)).map (o % 4096 / 64 + ·))) s) s
    let s := (List.range 4).foldl (fun s q =>
      let ls := (lost.filter fun x => s.lineHome x.1 = q).map fun x => x.1
      match ls with
      | [] => s
      | l :: _ =>
        let r : ErrRec :=
          { type := 12, severity := 1, die := BitVec.ofNat 8 (q + 1), unit := BitVec.ofNat 8 d,
            status := stPoison, offset := BitVec.ofNat 64 (l * 128), count := BitVec.ofNat 32 ls.length }
        (s.errRecord r).countQ q .dirStat 7 ls.length) s
    { s with dir := { s.dir with entries := s.dir.entries.filter fun x => x.2.domain != d } }

/-- A recall of line l to host i fails (R194). -/
def State.recallFails (s : State) (l i : Nat) : State :=
  match s.recallTxn l with
  | none => s
  | some t =>
    if t.recalls.any (·.host = i) then
      let d := (s.entry l).domain
      (s.countQ (s.lineHome l) .dirStat 6).domFail d (BitVec.ofNat 8 i)
    else s

/-- The answer of a recall whose request ended (R180, R181, R191). `st` other than OK: it failed. -/
def State.recallAnswered (s : State) (l i : Nat) (st : Byte) (pay : List Byte) : State :=
  if st != stOk then s.recallFails l i
  else
    let w := field pay 0 8
    let held := w % 2 = 1
    let data := if held && w / 2 % 2 = 1 then some (slice pay 8 128) else none
    s.closeRecall l i data held

end Sys2Proof.Machine
end

