-- ==== Sys2Proof/Machine/Transport.lean ====
section
/-! DEFINITION. What the rows of 03_transport.md do to the device, but for management accesses: sessions,
streams, memory messages, fences, drains, completions. -/

namespace Sys2Proof.Machine

/-! ### Session states (R91, R92) -/

/-- Completions that still wait for room in cwnd (R112). -/
def Session.unsentCpls (x : Session) : Nat := (x.tx.map fun t => t.2.waiting.countP fun m => m.typ = 0x15).sum

/-- A session enters FAILED: counted, as are the completions that it has not sent (R92); what depends on it
becomes due. -/
def State.failSession (s : State) (n : Nat) : State :=
  let x := s.sess n
  if x.state = .open ∨ x.state = .closing then
    let s := s.setSess n fun x => { x with state := .failed, rx := [], tx := [] }
    let s := if x.unsentCpls = 0 then s else s.count .hubRvtStat 8 x.unsentCpls
    (s.count .hubRvtStat 7).owe (.sessFail n x.inc)
  else s

/-- A session with device d leaves OPEN: when it last was (R474). -/
def State.leftOpen (s : State) (d : Nat) : State :=
  { s with fab := { s.fab with lastOpen := (s.fab.lastOpen.filter (·.1 != d)) ++ [(d, s.now)] } }

/-- What follows a failed session (R92, R186, R194, R474, R543): its grants hold no line busy, the
device's requests on it end with TIMEOUT, its events are sent again, and a peer becomes suspected. -/
def State.sessFailed (s : State) (n inc : Nat) : State :=
  let s : State := { s with
    dir := { s.dir with txns := s.dir.txns.filter fun t => match t.grant with
                          | some g => !(g.1 = n && g.2.1 = inc)
                          | none => true
                        late := s.dir.late.filter fun x => !(x.2.1 = n && x.2.2.1 = inc) }
    mgt := { s.mgt with queue := s.mgt.queue.map fun r => match r.sent with
                          | some (m, i, _) => if m = n && i = inc then { r with sent := none } else r
                          | none => r } }
  let s : State := { s with xp := { s.xp with lateHeat := s.xp.lateHeat.filter fun x => !(x.2.1 = n && x.2.2.1 = inc) } }
  let mine := s.xp.reqs.filter fun r => r.2.sess = n && r.2.inc = inc
  let s := if isPeerSess n then (s.leftOpen n).owe (.suspect n 1) else s
  mine.foldl (fun s r => s.endReq r.1 stTimeout false []) s

/-- A session returns to CLOSED. -/
def State.closeSession (s : State) (n : Nat) : State :=
  s.setSess n fun x => { peerSess := x.peerSess, inc := x.inc }

/-- Waiting requests to an endpoint whose session did not open end with TIMEOUT (R92, log 19). -/
def State.failWaiting (s : State) (ep : Nat) : State :=
  let ws := s.xp.reqWait.filter fun w => w.peer.toNat = ep
  let s : State := { s with xp := { s.xp with reqWait := s.xp.reqWait.filter fun w => w.peer.toNat != ep } }
  ws.foldl (fun s w => s.ended w.kind ep stTimeout false []) s

/-- Every session-control message: rows 5 and 6 but for the version (R94, R95). -/
def ctlBad (f : Frame) (pay : Nat) : Bool :=
  let h := f.hdr
  h.hdrLen != 6 || h.flags.toNat / 2 ^ 12 != 0 || h.ctx != 0 || h.seq != 0 || h.payLen.toNat != pay
    || h.opLen != 0 || h.addr != 0

def ctlOdd (h : Hdr) : Bool := h.gfa || h.vol || h.unord || h.allCls || h.nc

/-! ### RVT_OPEN (R81, R89, R90, R588) -/

/-- Rate of refusals: one per source address per 1 ms (R588). -/
def State.refuseOpen (s : State) (f : Frame) (st : Byte) : State :=
  let last := (s.xp.lastRefuse.find? fun e => e.1 = f.srcIp).map fun e => e.2
  let due : Bool := match last with | some t => 1000000 ≤ s.now - t | none => true
  if due then
    let (s, d) := s.draw
    let s : State := { s with xp := { s.xp with
      lastRefuse := (s.xp.lastRefuse.filter fun e => e.1 != f.srcIp) ++ [(f.srcIp, s.now)] } }
    let h : Hdr := { ver := 1, status := st, flags := 7, epoch := s.fab.curEpoch,
                     srcEp := BitVec.ofNat 32 s.ownId, dstEp := f.hdr.srcEp, payLen := 16,
                     dstSess := if f.hdr.ver = 1 then BitVec.ofNat 32 (field f.payload 4 4) else 0 }
    s.sendTo f.hdr.srcEp f.srcIp (Config.srcPort d) { typ := 0x02, hdr := h, payload := List.replicate 16 0 }
  else s

/-- The RVT_ACCEPT with OK of session n; it carries the ack and the ece of class 7 (R103, R113). -/
def State.sendAccept (s : State) (n : Nat) : State :=
  let x := s.sess n
  let h : Hdr := { ver := 1, flags := orFlag 7 6 (s.eceNow n 7), ack := s.ackNo n 7, epoch := s.fab.curEpoch,
                   srcEp := BitVec.ofNat 32 s.ownId, dstEp := x.peerEp, dstSess := x.peerSess, payLen := 16 }
  let s := s.setRx n 7 fun r => { r with ackDue := none }
  s.emit n (s.txOf n 7).srcPort { typ := 0x02, hdr := h
                                  payload := [x.ver, 0, 0, 0] ++ leBytes 4 n ++ leBytes 4 x.isn.toNat ++ leBytes 4 0 }

/-- Highest version that the offer and ver_mask share; version 1 is for hosts only. -/
def State.commonVer (s : State) (lo hi : Nat) (peer : Bool) : Option Nat :=
  let mask := bits (s.hub .hubRvtCfg) 17 16
  let start := s.boot.phase = .startingBlock
  if lo ≤ 2 && 2 ≤ hi && mask / 2 = 1 then some 2
  else if lo ≤ 1 && 1 ≤ hi && mask % 2 = 1 && !peer && !start then some 1
  else none

/-- The IP family of a frame is enabled (R81). -/
def State.familyOn (s : State) : IpAddr → Bool
  | .v6 _ => bit (s.hub .hubRvtCfg) 37
  | .v4 _ => bit (s.hub .hubRvtCfg) 36
  | .noIp => false

/-- The session that endpoint ep has: OPEN, CLOSING or, for a device, whatever its index holds. -/
def State.sessOf (s : State) (ep : Nat) : Option Nat :=
  if ep < 65536 then (if (s.sess ep).state = .closed then none else some ep)
  else (s.xp.sessions.find? fun (n, x) =>
    65536 ≤ n && (x.state = .open || x.state = .closing) && x.peerEp.toNat = ep).map (·.1)

/-- The index that a new session takes (R87; for hosts the lowest free one, log 10); the Starting block holds one
session, whoever opened it (R526). -/
def State.freeSess (s : State) (ep : Nat) : Option Nat :=
  if s.boot.phase = .startingBlock && s.xp.sessions.any (fun x => x.2.state != .closed) then none
  else if ep < 65536 then some ep
  else
    let used := s.xp.sessions.length
    ((List.range (min 16384 (used + 1))).find? fun i => (s.sess (65536 + i)).state = .closed).map (65536 + ·)

/-- DESIGN CHOICE: an RVT_OPEN whose src_ep is 0xFFFF_FFFF, which names no endpoint (R85), opens a host session as
any ID above 0xFFFF does; the manual gives no check of it (log 108). -/
def State.rvtOpen (s : State) (f : Frame) : State :=
  let h := f.hdr
  if !s.listens then s
  else if s.row1Bad 0x01 f || !s.familyOn f.srcIp then s.discard
  else
    let go (s : State) : State :=
      if h.ver != 1 then s.refuseOpen f (if h.ver = 2 then stMalformed else stUnsupported)
      else if h.dstSess != 0 || h.status != 0 || ctlBad f 16 || !zeroAt f.payload 2 2 || !zeroAt f.payload 12 4 then
        s.refuseOpen f stMalformed
      else if ctlOdd h then s.refuseOpen f stUnsupported
      else
        let ep := h.srcEp.toNat
        let openSess := BitVec.ofNat 32 (field f.payload 4 4)
        let isn := BitVec.ofNat 32 (field f.payload 8 4)
        match s.commonVer (field f.payload 0 1) (field f.payload 1 1) (ep < 65536) with
        | none => s.refuseOpen f stUnsupported
        | some v =>
          if !s.starting && s.epochFences { h with ver := BitVec.ofNat 8 v } (s.isMgr h.srcEp) then
            (s.count .fabStat 0).refuseOpen f stFenced
          else
            let old := s.sessOf ep
            let same : Bool := match old with
              | some n => !(s.sess n).opener && (s.sess n).openSess = openSess && (s.sess n).openIsn = isn
                            && ((s.sess n).state = .open || (s.sess n).state = .closing)
              | none => false
            match old, same with
            | some n, true => s.sendAccept n
            | _, _ =>
              match (match old with | some n => some n | none => s.freeSess ep) with
              | none => s.refuseOpen f stRetry
              | some n =>
                let s := s.failSession n
                let (s, d) := s.draw
                let my := Config.isn d
                let (s, tx) := s.freshTx my
                let s : State := { s with xp := { s.xp with incs := s.xp.incs + 1 } }
                let x : Session :=
                  { state := .open, ver := BitVec.ofNat 8 v, peerEp := h.srcEp, ip := f.srcIp,
                    peerSess := openSess, openIsn := isn, openSess := openSess, isn := my, opener := false,
                    since := s.now, inc := s.xp.incs, rx := freshRx isn, tx := tx }
                let s := s.setSess n fun _ => x
                ((s.sendAccept n).owe .tagFree).owe (.sessOpen n)
    if h.dstSess = 0 then go s
    else match s.row2 f with
      | .done s => s
      | .sess _ => go s

/-- R468: a FENCED answer of a newer epoch isolates a MEMBER device. -/
def State.fencedAnswer (s : State) (st : Byte) (epoch : Word32) : State :=
  if st = stFenced && newer s.fab.curEpoch epoch && s.fab.state = .member then s.owe (.isolate 2) else s

/-- DESIGN CHOICE: an RVT_ACCEPT with OK whose ver is not 2, the one version at which two devices run (R90) and the
device offers, fails row 5: it is discarded and counted as R588 says, and the session stays OPENING (log 108). -/
def State.rvtAccept (s : State) (f : Frame) : State :=
  let h := f.hdr
  let n := h.dstSess.toNat
  let x := s.sess n
  let v := field f.payload 0 1
  if !(s.serving && s.idValid) then s
  else if s.row1Bad 0x02 f then s.discard
  else if 81920 ≤ n || x.state != .opening then
    match s.row2 f with
    | .done s => s
    | .sess _ => s
  else if x.ip != f.srcIp then s.discard
  else if h.ver != 1 || ctlBad f 16 || !zeroAt f.payload 1 3 || !zeroAt f.payload 12 4 || ctlOdd h
      || (h.status = stOk && (v != 2 || bits (s.hub .hubRvtCfg) 17 16 < 2)) then s.discard
  else
    let s := s.fencedAnswer h.status h.epoch
    if h.status = stOk then
      let isn := BitVec.ofNat 32 (field f.payload 8 4)
      let s := s.setSess n fun x =>
        { x with state := .open, ver := BitVec.ofNat 8 v, peerSess := BitVec.ofNat 32 (field f.payload 4 4), rx := freshRx isn }
      (s.owe .tagFree).owe (.sessOpen n)
    else (s.closeSession n).failWaiting x.peerEp.toNat

/-- Session n can receive: OPEN or CLOSING. -/
def State.stands (s : State) (n : Nat) : Bool := n < 81920 && ((s.sess n).state = .open || (s.sess n).state = .closing)

/-- An unsequenced message of a session with `pay` payload bytes passes rows 1, 2 and 4 to 7, and its ack is taken
(R103); `none` otherwise. DESIGN CHOICE: such a message has no number, so no RVT_CPL can keep it (R107): one that
fails rows 4 to 6 is dropped without a count, one that fails row 7 is counted in FAB_STAT(0) (log 108). -/
def State.bare (s : State) (typ : Byte) (f : Frame) (pay : Nat) : State × Option Nat :=
  let h := f.hdr
  if !s.listens then (s, none)
  else if s.row1Bad typ f then (s.discard, none)
  else if typ = 0x03 && !s.stands h.dstSess.toNat then (s, none)
  else match s.row2 f with
    | .done s => (s, none)
    | .sess n =>
      let x := s.sess n
      if !s.verOn h || h.ver != x.ver || ctlBad f pay || (h.status != 0 && typ != 0x05) || (x.ver = 1 && h.epoch != 0)
          || ctlOdd h then (s, none)
      else if s.row7 n h then (s.count .fabStat 0, none)
      else
        let s := if f.ce then s.count .hubRvtStat 6 else s
        ((s.gotAck n h.cls h.ack h.ece).answerAckreq n x.inc f, some n)

def State.rvtClose (s : State) (f : Frame) : State :=
  match s.bare 0x03 f 4 with
  | (s, none) => s
  | (s, some n) => match field f.payload 0 4 with
    | 0 =>
      let s := if isPeerSess n && (s.sess n).state = .open then s.leftOpen n else s
      s.setSess n fun x => { x with state := .closing }
    | 1 | 2 => s.failSession n
    | _ => s

/-- Write of abort to HUB_SESS_CTL(n) (R91). -/
def State.sessAbort (s : State) (n : Nat) : State :=
  let x := s.sess n
  if x.state = .open ∨ x.state = .closing then
    let s := s.sendClose n 2
    s.failSession n
  else s

def State.openingTimeout (s : State) (n : Nat) : State :=
  let x := s.sess n
  if x.state = .opening && s.rtoMax ≤ s.now - x.since then (s.closeSession n).failWaiting x.peerEp.toNat else s

/-- The accepted commands of a session's opening. -/
def State.sessCmds (s : State) (n inc : Nat) : List Cmd :=
  s.cmds.filter fun c => match c.src with | .msg o => o.sess = n && o.inc = inc | _ => false

def State.sessionDrained (s : State) (n : Nat) : State :=
  let x := s.sess n
  if s.sessCmds n x.inc != [] then s
  else match x.state with
    | .closing =>
      if x.tx.all fun t => t.2.unacked.isEmpty && t.2.waiting.isEmpty then
        ((s.sendClose n 0).closeSession n).owe .tagFree
      else s
    | .failed => (s.closeSession n).owe .tagFree
    | _ => s

/-! ### Acknowledgements and retransmission (R103 to R106) -/

/-- Resend one unacknowledged message: retx set, ack and ece as they stand (R105). A cwr that is owed goes with the
next new message, as RFC 3168 has it (R113). -/
def State.resend (s : State) (n cls : Nat) (m : Msg) : State :=
  let fl := orFlag (m.hdr.flags &&& ~~~(BitVec.ofNat 16 0x40)) 6 (s.eceNow n cls)
  let m := { m with hdr := { m.hdr with flags := orFlag fl 7 true, ack := s.ackNo n cls } }
  let s := s.setRx n cls fun r => { r with ackDue := none }
  (s.count .hubRvtStat 2).emit n (s.txOf n cls).srcPort m

def State.rvtAck (s : State) (f : Frame) : State := (s.bare 0x04 f 0).1

def State.rvtNak (s : State) (f : Frame) : State :=
  match s.bare 0x05 f 0 with
  | (s, none) => s
  | (s, some n) =>
    let c := f.hdr.cls
    (s.txOf n c).unacked.foldl (fun s m => s.resend n c m) s

def State.ackDelayExpiry (s : State) (n cls : Nat) : State :=
  let x := s.sess n
  match (s.rxOf n cls).ackDue with
  | some t =>
    if (x.state = .open || x.state = .closing) && s.ackDelay ≤ s.now - t then s.sendBare n cls 0x04 else s
  | none => s

def State.retxTimerExpiry (s : State) (n cls : Nat) : State :=
  let t := s.txOf n cls
  match t.armed, t.unacked with
  | some t0, m :: _ =>
    if s.now - t0 < t.rto then s
    else if s.retxLimit < t.expiries + 1 then s.failSession n
    else
      let s := s.resend n cls m
      s.setTx n cls fun t =>
        { t with expiries := t.expiries + 1, rto := min (2 * t.rto) s.rtoMax, armed := some s.now,
                 cwnd := 9216, cwr := t.cwr || 9216 < t.cwnd }
  | _, _ => s

/-! ### Memory messages (R120, R150, R155) -/

/-- Stage 2 of a memory message: the GFA, or the status (R96, R33). -/
def State.stage2 (s : State) (o : Origin) (addr len : Nat) (p : Perm) : State × (Byte ⊕ Nat) :=
  let st := s.ctxCheck o
  if st != stOk then (s, .inl st)
  else if o.gfa then (s, .inr addr)
  else match s.translate (o.ctxField.toNat % 4096) addr len p with
    | (s, none) => (s, .inl stSegmentFault)
    | (s, some g) => if s.overLimit o then (s, .inl stRetry) else (s, .inr g)

/-- Context number of an accepted message; peer requests name none. -/
def Origin.context (o : Origin) : Nat := if o.gfa then 0 else o.ctxField.toNat % 4096

/-- Accept an access and run it. -/
def State.acceptAccess (s : State) (o : Origin) (f : Frame) (len : Nat) (p : Perm) (mk : Nat → Access) : State :=
  match s.stage2 o f.hdr.addr.toNat len p with
  | (s, .inl st) => s.sendCpl o st []
  | (s, .inr g) => s.internal (.msg o) o.context (mk g)

/-- The in-flight mark that an upset puts into an access. -/
def upsetHurt : Upset → Option Nat
  | .data o => some o
  | _ => none

/-- R482: an uncorrectable header or descriptor word ends the accepted request with POISON; a read's completion has
its op_len bytes (R120). -/
def State.hurtHeader (s : State) (o : Origin) (len : Nat := 0) : State :=
  (s.wordBad 0 stPoison).sendCpl o stPoison (List.replicate len 0)

def parseLen (h : Hdr) (pay : Nat) : Bool := h.opLen.toNat < 1 || 4096 < h.opLen.toNat || h.payLen.toNat != pay

def State.memAtomic (s : State) (f : Frame) : State :=
  let n := f.hdr.opLen.toNat
  let p := f.payload
  let aop := field p 0 1
  s.withRequest 0x12 f { gfa := true }
    (fun _ _ =>
      { bad := !(n = 4 || n = 8) || f.hdr.addr.toNat % n != 0 || f.hdr.payLen != 24 || !zeroAt p 1 7
          || (n = 4 && (!zeroAt p 12 4 || !zeroAt p 20 4)) || (aop != 0x0A && !zeroAt p 16 8)
        odd := aop = 0 || 0x0B < aop || (aop = 0x0B && n = 8) })
    (fun s o => s.acceptAccess o f n { a := true } fun g =>
      { kind := .atomic, gfa := g, len := n, aop := BitVec.ofNat 8 aop, a := BitVec.ofNat 64 (field p 8 8),
        b := BitVec.ofNat 64 (field p 16 8) })

/-- The commands that an ordered signal waits for (R156). -/
def State.signalWaits (s : State) (o : Origin) : Bool :=
  s.cmds.any fun c => match c.src with
    | .msg x => x.sess = o.sess && x.inc = o.inc && x.cls = o.cls && older o.seq x.seq
                  && (x.typ = 0x11 || x.typ = 0x12 || x.typ = 0x13 || x.typ = 0x30)
    | _ => false

def State.memSignal (s : State) (f : Frame) : State :=
  let p := f.payload
  let sop := field p 0 1
  s.withRequest 0x13 f { gfa := true, unord := true }
    (fun _ _ =>
      { bad := f.hdr.opLen != 8 || f.hdr.addr.toNat % 8 != 0 || f.hdr.payLen != 16 || !zeroAt p 1 7
        odd := sop = 0 || 2 < sop })
    (fun s o =>
      match s.stage2 o f.hdr.addr.toNat 8 { w := true } with
      | (s, .inl st) => s.sendCpl o st []
      | (s, .inr g) =>
        let a : Access := { kind := .signal, unord := f.hdr.unord, gfa := g, len := 8, aop := BitVec.ofNat 8 sop,
                            a := BitVec.ofNat 64 (field p 8 8) }
        if !f.hdr.unord && s.signalWaits o then ((s.accept (.msg o) o.context (.held a)).1).count .hubMmStat 2
        else s.internal (.msg o) o.context a)

def State.orderedSignalRelease (s : State) (id : Nat) : State :=
  match s.findCmd id with
  | some c =>
    match c.src, c.body with
    | .msg o, .held a =>
      if s.signalWaits o then s else (s.setCmd id fun c => { c with body := .access a }).startAccess id
    | _, _ => s
  | none => s

/-! ### Fences and drains (R115 to R119, R159) -/

/-- Stage 2 of a fence or drain: a usable data context, with room (R62, R110, R166). -/
def State.quietCheck (s : State) (o : Origin) : Byte :=
  let st := s.ctxCheck o
  if st != stOk then st else if s.overLimit o then stRetry else stOk

def State.memFence (s : State) (f : Frame) : State :=
  let h := f.hdr
  s.withRequest 0x14 f { allCls := true }
    (fun _ _ => { bad := h.addr != 0 || h.opLen != 0 || h.payLen.toNat != (if h.allCls then 32 else 0) })
    (fun s o =>
      let st := s.quietCheck o
      if st != stOk then s.sendCpl o st []
      else
        let upto : List (Nat × Word32) :=
          if h.allCls then (List.range 8).map fun c =>
            (c, if c = h.cls then h.seq - 1 else BitVec.ofNat 32 (field f.payload (4 * c) 4))
          else [(h.cls, h.seq - 1)]
        (s.accept (.msg o) o.context (.fence upto)).1)

/-- Nothing that the fence covers is still to come or to complete. -/
def State.fenceDone (s : State) (id : Nat) (o : Origin) (upto : List (Nat × Word32)) : Bool :=
  upto.all fun u =>
    acked (s.ackNo o.sess u.1) u.2 &&
    !(s.cmds.any fun c => c.id != id && match c.src with
      | .msg x => x.sess = o.sess && x.inc = o.inc && x.cls = u.1 && acked u.2 x.seq
      | _ => false)

def State.fenceComplete (s : State) (id : Nat) : State :=
  match s.findCmd id with
  | some c =>
    match c.src, c.body with
    | .msg o, .fence upto =>
      if !s.sessLive o.sess o.inc || s.fenceDone id o upto then (s.dropCmd id).sendCpl o stOk [] else s
    | _, _ => s
  | none => s

/-- A drain covers writes, atomics, signals and peer requests (R159). -/
def Cmd.drained (c : Cmd) : Bool := match c.src with
  | .msg o => o.typ = 0x11 || o.typ = 0x12 || o.typ = 0x13 || (o.gfa && o.typ = 0x10)
  | _ => false

def State.memDrain (s : State) (f : Frame) : State :=
  let h := f.hdr
  s.withRequest 0x40 f {}
    (fun s n => { bad := h.addr != 0 || h.opLen != 0 || h.payLen != 0, odd := s.v1 n })
    (fun s o =>
      let st := s.quietCheck o
      if st != stOk then s.sendCpl o st []
      else (s.accept (.msg o) o.context (.drain ((s.cmds.filter Cmd.drained).map (·.id)))).1)

/-- DESIGN CHOICE: HUB_MM_STAT(3) counts the drains that complete with OK; R162 does not say whether a refused one
counts (log 109). -/
def State.drainComplete (s : State) (id : Nat) : State :=
  match s.findCmd id with
  | some c =>
    match c.src, c.body with
    | .msg o, .drain ids =>
      if s.cmds.any fun c => ids.contains c.id then s
      else ((s.dropCmd id).sendCpl o stOk []).count .hubMmStat 3
    | _, _ => s
  | none => s

/-! ### PT_INVAL (R124) -/

/-- DESIGN CHOICE: an addr that is not a multiple of 2 MiB is MALFORMED at stage 1, and a context that is not in
mode 1 is UNSUPPORTED there, where R33 has that status; R124 names neither place (log 103). -/
def State.ptInval (s : State) (f : Frame) : State :=
  let h := f.hdr
  let a := h.addr.toNat
  s.withRequest 0x22 f {}
    (fun s _ => { bad := parseLen h 0 || a % 2 ^ 21 != 0, odd := !s.ctxMode h.context })
    (fun s o =>
      let st := s.quietCheck o
      let c := o.ctxField.toNat % 4096
      if st != stOk then s.sendCpl o st []
      else
        let tab := bits (s.hub .hubCtxPtb c) 46 16 * 2 ^ 16
        let i := a / 2 ^ 21
        let s : State := { s with xp := { s.xp with ptCache := s.xp.ptCache.filter fun e =>
          !(e.1 = tab && i ≤ e.2.1 && e.2.1 < i + h.opLen.toNat) } }
        s.sendCpl o stOk [])

/-! ### RVT_CPL received (R109, R180, R234, R468) -/

/-- The answer to a recall is well formed (R180). -/
def recallAnswerOk (st : Byte) (p : List Byte) : Bool :=
  let w := field p 0 8
  st = stOk && w / 8 = 0 && p.length = (if w / 2 % 2 = 1 then 136 else 8)

/-- A completion reaches the request that its tag names. -/
def State.takeCpl (s : State) (n : Nat) (h : Hdr) (p : List Byte) : State :=
  let t := h.tag.toNat
  let inc := (s.sess n).inc
  -- on a version-1 session the epoch is the device's own (R90, R465)
  let s := if h.ver = 1 then s else s.fencedAnswer h.status h.epoch
  match s.xp.reqs.find? fun r => r.1 = t && r.2.sess = n && r.2.inc = inc with
  | some (_, r) =>
    match r.kind with
    | .recall l i =>
      if !recallAnswerOk h.status p then s.countQ (s.lineHome l) .dirStat 5
      else if field p 0 8 % 2 = 0 && field p 0 8 / 4 = 1 then
        -- held 0, wb_sent 1: the recall stays open for the write-back (R191)
        match s.recallTxn l with
        | some x => s.setTxn x.line fun x =>
            { x with recalls := x.recalls.map fun r => if r.host = i then { r with wbSent := true } else r }
        | none => s
      else s.endReq t stOk false p
    | _ => s.endReq t h.status h.nc p
  | none =>
    match s.dir.late.find? fun x => x.1 = t && x.2.1 = n && x.2.2.1 = inc with
    | some x =>
      ({ s with dir := { s.dir with late := s.dir.late.filter (· != x) } }).countQ x.2.2.2 .dirStat 5
    | none =>
      match s.xp.late.find? fun x => x.1 = t && x.2.1 = n && x.2.2 = inc with
      | some x =>
        ({ s with xp := { s.xp with late := s.xp.late.filter (· != x) } }).count .hubBorrowStat 1
      | none =>
        match s.xp.lateHeat.find? fun x => x.1 = t && x.2.1 = n && x.2.2.1 = inc with
        | some x => ({ s with xp := { s.xp with lateHeat := s.xp.lateHeat.filter (· != x) } }).countQ x.2.2.2 .guStat 7
        | none => s

/-- An RVT_CPL frame: one that fails rows 4 to 7 is completed with that status, as every sequenced message is
(R107, R108); it takes no internal tag (log 23). -/
def State.rvtCpl (s : State) (f : Frame) : State :=
  let h := f.hdr
  if !s.listens then s
  else if s.row1Bad 0x15 f then s.discard
  else match s.row2 f with
    | .done s => s
    | .sess n =>
      match s.row3 n f with
      | .done s => s
      | .inOrder s =>
        let o := s.originOf n 0x15 h
        let st :=
          if !s.verOn h then stUnsupported
          else if s.headerBad n { h with status := 0 } {} || h.addr != 0 || h.opLen != 0 then stMalformed
          else if s.notHere 0x15 || flagsOdd { h with flags := h.flags &&& ~~~(BitVec.ofNat 16 8) } {} then stUnsupported
          else if s.row7 n h then stFenced
          else stOk
        let s := if st = stFenced then s.count .fabStat 0 else s
        let s := if st = stOk then s.takeCpl n h f.payload else s.sendCpl o st []
        s.answerAckreq n o.inc f

/-! ### Events (R125, R543) -/

def State.evtEn (s : State) : Bool := bit (s.hub .hubRvtEvt) 17
def State.evtSess (s : State) : Nat := bits (s.hub .hubRvtEvt) 16 0

/-- The record is out on the event session as it stands. -/
def EvtRec.outOn (r : EvtRec) (n inc : Nat) : Bool := match r.sent with
  | some (m, i, _) => m = n && i = inc
  | none => false

def State.eventSend (s : State) : State :=
  let n := s.evtSess
  let x := s.sess n
  if !s.serving || !s.evtEn || s.err.restarting || x.state != .open then s
  else match s.mgt.queue.findIdx? fun r => !r.outOn n x.inc with
    | none => s
    | some i =>
      match s.mgt.queue[i]? with
      | none => s
      | some r =>
        let q := (s.txOf n 7).next
        let s : State := { s with mgt := { s.mgt with queue := s.mgt.queue.set i { r with sent := some (n, x.inc, q) } } }
        s.sendSeq n 7 0x23 {} r.bytes

end Sys2Proof.Machine
end

