-- ==== Sys2Proof/Machine/DirOps.lean ====
section
/-! DEFINITION. Coherence requests as they arrive, and the registers and timers of 05_directory.md. -/

namespace Sys2Proof.Machine

/-- A coherence request: stages 1 and 2 (R174, R175), then its line. -/
def State.cohRequest (s : State) (f : Frame) (typ : Byte) (k : CohKind) (p : Perm) : State :=
  let h := f.hdr
  let pay := if k = .wb then 136 else 0
  s.withRequest typ f {}
    (fun s n =>
      { bad := h.opLen != 128 || h.addr.toNat % 128 != 0 || h.payLen.toNat != pay
          || (k = .wb && 2 ≤ field f.payload 128 8)
        odd := s.v1 n || 4 < h.cls })
    (fun s o =>
      let c := o.ctxField.toNat % 4096
      let slots := s.slotsOf c
      let st := s.ctxCheck o
      if st != stOk then s.sendCpl o st []
      else if slots = [] then s.sendCpl o stSegmentFault []
      else match s.translate c h.addr.toNat 128 p with
        | (s, none) => s.sendCpl o stSegmentFault []
        | (s, some g) =>
          if s.overLimit o then s.sendCpl o stRetry []
          else
            -- the domain the context belongs to: the one that is not IDLE, if any (R164)
            let m := match slots.find? fun x => s.domState x.1 != .idle with
              | some x => x
              | none => slots.headD (0, 0)
            let r : CohReq := { kind := k, line := gfaOff g / 128, domain := m.1, host := m.2,
                                data := f.payload.take 128, keep := field f.payload 128 8 % 2 = 1 }
            let (s, id) := s.accept (.msg o) c (.coh r)
            s.cohStage3 id g)

/-- R587: a device that receives COH_RECALL completes it with UNSUPPORTED. -/
def State.cohRecallReceived (s : State) (f : Frame) : State :=
  let h := f.hdr
  s.withRequest 0x46 f { gfaReq := true }
    (fun _ _ => { bad := h.opLen != 128 || h.payLen != 8 || !zeroAt f.payload 1 7, odd := true })
    (fun s _ => s)

/-- R194: a recall not closed within the domain's timeout fails. -/
def State.recallTimeout (s : State) (tag : Nat) : State :=
  match s.xp.reqs.find? (·.1 = tag) with
  | some (_, r) =>
    match r.kind with
    | .recall l i => if s.recallTo (s.entry l).domain ≤ s.now - r.since then s.recallFails l i else s
    | _ => s
  | none => s

/-- R196: a FAILING domain with nothing left enters DOWN and raises its event. -/
def State.domainEnterDown (s : State) (d : Nat) : State :=
  let mine (c : Cmd) : Bool := c.ctx != 0 && (s.slotIn d c.ctx).isSome
  if s.domState d = .failing && !(s.cmds.any mine) && !(s.dir.entries.any fun x => x.2.domain = d) then
    let m := (tget {} s.dir.domains d).member
    (s.setDom d fun x => { x with state := .down }).event 3 [BitVec.ofNat 8 d, m]
  else s

/-- Requests held at the input of stage 4 of a quadrant go on while the first does not stop there again
(R187). -/
def State.drainInput (q : Nat) : Nat → State → State
  | 0, s => s
  | n + 1, s =>
    match s.dir.input.find? (·.1 = q) with
    | none => s
    | some x =>
      let s : State := { s with dir := { s.dir with input := dropFirst (· = x) s.dir.input } }
      let s := s.run4 x.2.1 x.2.2 .input
      -- one that found no place stands at the head again
      if s.dir.input.find? (·.1 = q) = some x then s else State.drainInput q n s

/-- R187: the first request parked on a line that is no longer busy starts. -/
def State.parkedStart (s : State) (l : Nat) : State :=
  if s.busy l then s
  else match s.dir.parked.find? (·.1 = l) with
    | none => s
    | some x =>
      let s : State := { s with dir := { s.dir with parked := dropFirst (· = x) s.dir.parked } }
      let s := s.run4 x.2.1 x.2.2 .parked
      State.drainInput (s.lineHome l) s.dir.input.length s

/-- R188: the parts of an internal request whose backoff has run at least half its bound try again, at stage 4 or at
the device that refused them. -/
def State.retryBackoff (s : State) (id : Nat) : State :=
  match s.acc id with
  | none => s
  | some a =>
    let s := a.parts.zipIdx.foldl (fun s x =>
      match x.1.st with
      | .backoff t =>
        if 2 * (s.now - t) < x.1.last then s
        else if x.1.dev != s.ownId || s.extTier x.1.ext = 2 then s.forwardPart id x.2
        else s.stage4 id x.2 .fresh
      | _ => s) s
    s.settleAccess id

/-! ### DIR_DOM_CFG and the peek -/

/-- R164: every valid member of domain d may stand in it. -/
def State.membersOk (s : State) (d : Nat) : Bool :=
  let ms := (List.range 64).filterMap fun i =>
    let m := s.hub .dirDomMember d i
    if bit m 12 then some (bits m 11 0) else none
  ms.all (fun c => c != 0 && !s.ctxAny c
      && !(s.dir.domains.any fun x => x.1 != d && x.2.state != .idle && (s.slotIn x.1 c).isSome))
    && ms.dedup.length = ms.length

/-- R165: an op on domain d. -/
def State.domOp (s : State) (d op : Nat) : State :=
  let setSt (s : State) (st : Byte) : State := s.setDom d fun x => { x with lastStatus := st }
  match op, s.domState d with
  | 0, _ => s
  | 1, .idle =>
    if s.membersOk d then s.setDom d fun _ => { state := .up, lastStatus := stOk }
    else setSt s stUnsupported
  | 2, .up => (setSt s stOk).domFail d 0xFF
  | 3, .down => s.setDom d fun _ => { state := .idle, lastStatus := stOk }
  | _, _ => setSt s stUnsupported

/-- A write of DIR_DOM_CFG(d): its fields while IDLE, then its op (R165). -/
def State.domCfgWrite (s : State) (d : Nat) (v : Word) : State :=
  let a : RegAt := { reg := .dirDomCfg, i := d }
  let s := if s.domState d = .idle then s.putAt a (storedWrite s a v) else s
  s.domOp d (bits v 35 34)

/-- The logical entry of a line (R171), high and low words; zero where the quadrant holds none. -/
def State.peekEntry (s : State) (q l : Nat) : Word × Word :=
  let e := s.entry l
  if e.state = .free || s.lineHome l != q then (0, 0)
  else
    let code := match e.state with | .free => 0 | .shared => 1 | .excl => 2 | .oshared => 3
    let hi := code * 2 ^ 61 + (if s.busy l then 2 ^ 60 else 0) + e.owner * 2 ^ 54 + e.domain * 2 ^ 46 + l
    (BitVec.ofNat 64 hi, e.sharers)

def State.peekWrite (s : State) (q : Nat) (v : Word) : State :=
  let a : RegAt := { reg := .dirPeekAddr, inst := q }
  let s := s.putAt a (storedWrite s a v)
  { s with dir := { s.dir with peek := tset (0, 0) s.dir.peek q (s.peekEntry q (bits v 39 0)) } }

/-- R164: a member of a domain that is not IDLE keeps its endpoint. -/
def State.ownerFixed (s : State) (c : Nat) : Bool := (s.memberOf c fun st => st != .idle).isSome

end Sys2Proof.Machine
end

