-- ==== Sys2Proof/Machine/Float.lean ====
section
/-! DEFINITION. Numbers of the engines (R268, R269, R287 to R296): exact values, their one rounding to a
format, element encodings, block scales, and the functions of R288. -/

namespace Sys2Proof.Machine

/-- A value, exact: NaN, an infinity, or a signed quotient n / d with d positive (R292 keeps the sign of
zero). -/
inductive Fl where
  | nan
  | inf (neg : Bool)
  | fin (neg : Bool) (n d : Nat)
deriving DecidableEq, Repr

/-! ### Exact arithmetic -/

def Fl.zero : Fl := .fin false 0 1
def Fl.one : Fl := .fin false 1 1
def Fl.ofNat (n : Nat) : Fl := .fin false n 1
def Fl.isNan : Fl → Bool | .nan => true | _ => false
def Fl.isInf : Fl → Bool | .inf _ => true | _ => false
def Fl.isZero : Fl → Bool | .fin _ 0 _ => true | _ => false
def Fl.isNeg : Fl → Bool | .nan => false | .inf b => b | .fin b _ _ => b

def Fl.neg : Fl → Fl
  | .nan => .nan
  | .inf b => .inf !b
  | .fin b n d => .fin (!b) n d

/-- n with a sign. -/
def sgn (neg : Bool) (n : Nat) : Int := if neg then -(n : Int) else n

def Fl.add : Fl → Fl → Fl
  | .nan, _ | _, .nan => .nan
  | .inf a, .inf b => if a = b then .inf a else .nan
  | .inf a, _ | _, .inf a => .inf a
  | .fin a n d, .fin b m e =>
    let (x, y, c) := if d = e then (n, m, d) else (n * e, m * d, d * e)
    let t := sgn a x + sgn b y
    if t = 0 then .fin (a && b) 0 1 else .fin (t < 0) t.natAbs c

def Fl.sub (x y : Fl) : Fl := x.add y.neg

def Fl.mul : Fl → Fl → Fl
  | .nan, _ | _, .nan => .nan
  | .inf a, .inf b => .inf (a != b)
  | .inf a, .fin b n _ | .fin b n _, .inf a => if n = 0 then .nan else .inf (a != b)
  | .fin a n d, .fin b m e => .fin (a != b) (n * m) (d * e)

def Fl.div : Fl → Fl → Fl
  | .nan, _ | _, .nan => .nan
  | .inf _, .inf _ => .nan
  | .inf a, .fin b _ _ => .inf (a != b)
  | .fin a _ _, .inf b => .fin (a != b) 0 1
  | .fin a n d, .fin b m e =>
    if m = 0 then (if n = 0 then .nan else .inf (a != b)) else .fin (a != b) (n * e) (d * m)

/-- x < y, for values that are no NaN. -/
def Fl.lt : Fl → Fl → Bool
  | .nan, _ | _, .nan => false
  | .inf a, .inf b => a && !b
  | .inf a, _ => a
  | _, .inf b => !b
  | .fin a n d, .fin b m e => sgn a (n * e) < sgn b (m * d)

/-- R319: NaN when either is NaN. -/
def Fl.max (x y : Fl) : Fl := if x.isNan || y.isNan then .nan else if x.lt y then y else x

/-! ### One rounding -/

/-- d * 2^e ≤ n. -/
def atLeast (n d : Nat) (e : Int) : Bool :=
  if 0 ≤ e then d * 2 ^ e.toNat ≤ n else d ≤ n * 2 ^ (-e).toNat

/-- floor(log2(n / d)) of a positive quotient. -/
def ilog2 (n d : Nat) : Int :=
  let e : Int := (n.log2 : Int) - d.log2
  if atLeast n d e then e else e - 1

/-- n / d as a multiple of 2^q, to nearest with ties to even, or up when `r` / 2^32 is below the fraction
(R294). -/
def roundAt (n d : Nat) (q : Int) (r : Option Nat) : Nat :=
  let (a, b) := if 0 ≤ q then (n, d * 2 ^ q.toNat) else (n * 2 ^ (-q).toNat, d)
  let k := a / b
  let f := a % b
  let up : Bool := match r with
    | none => b < 2 * f || (2 * f = b && k % 2 = 1)
    | some x => x * b < f * 2 ^ 32
  if up then k + 1 else k

/-- A binary element format (R268): exponent and mantissa bits, bias, largest finite code, canonical NaN. -/
structure FpForm where
  ebits : Nat
  mbits : Nat
  bias : Nat
  top : Nat
  qnan : Nat
  /-- infinities and NaNs stand at exponent all ones -/
  ieee : Bool
deriving DecidableEq, Repr

def fp32 : FpForm := { ebits := 8, mbits := 23, bias := 127, top := 0x7F7FFFFF, qnan := 0x7FC00000, ieee := true }
def bf16 : FpForm := { ebits := 8, mbits := 7, bias := 127, top := 0x7F7F, qnan := 0x7FC0, ieee := true }
def fp16 : FpForm := { ebits := 5, mbits := 10, bias := 15, top := 0x7BFF, qnan := 0x7E00, ieee := true }
def e4m3 : FpForm := { ebits := 4, mbits := 3, bias := 7, top := 0x7E, qnan := 0x7F, ieee := false }
def e5m2 : FpForm := { ebits := 5, mbits := 2, bias := 15, top := 0x7B, qnan := 0x7E, ieee := true }
def e2m1 : FpForm := { ebits := 2, mbits := 1, bias := 1, top := 7, qnan := 0, ieee := false }

/-- The format of an element by fmt code; INT4 (0x09, 0x0A) has none. -/
def fpForm (fmt : Nat) : FpForm := match fmt with
  | 1 => fp32 | 2 => bf16 | 3 => fp16 | 4 | 6 => e4m3 | 5 | 7 => e5m2 | _ => e2m1

/-- 2^e as a value. -/
def pow2 (e : Int) : Fl := if 0 ≤ e then .fin false (2 ^ e.toNat) 1 else .fin false 1 (2 ^ (-e).toNat)

/-- The value of an element's bits (R268, R269). -/
def FpForm.decode (y : FpForm) (w : Nat) : Fl :=
  let neg := w / 2 ^ (y.ebits + y.mbits) % 2 = 1
  let mag := w % 2 ^ (y.ebits + y.mbits)
  let e := mag / 2 ^ y.mbits
  let m := mag % 2 ^ y.mbits
  if y.top < mag then (if y.ieee && m = 0 then .inf neg else .nan)
  else
    let (k, q) : Nat × Int := if e = 0 then (m, 1 - (y.bias + y.mbits : Nat)) else (2 ^ y.mbits + m, (e : Int) - (y.bias + y.mbits : Nat))
    (Fl.fin neg k 1).mul (pow2 q)

/-- The bits of a value in a format (R293): rounded once; past the largest finite by `sat`. -/
def FpForm.encode (y : FpForm) (x : Fl) (sat : Bool) (r : Option Nat) : Nat :=
  let sign (b : Bool) : Nat := if b then 2 ^ (y.ebits + y.mbits) else 0
  let past (b : Bool) : Nat := if sat then sign b + y.top else if y.ieee then sign b + y.top + 1 else y.qnan
  match x with
  | .nan => y.qnan
  | .inf b => past b
  | .fin b n d =>
    if n = 0 then sign b
    else
      let qmin : Int := 1 - (y.bias + y.mbits : Nat)
      let q : Int := Max.max (ilog2 n d - y.mbits) qmin
      let code := (q - qmin).toNat * 2 ^ y.mbits + roundAt n d q r
      if y.top < code then past b else sign b + code

/-- The one rounding to FP32, to nearest even (R287, R290). -/
def toF32 (x : Fl) : Nat := fp32.encode x false none
def ofF32 (w : Nat) : Fl := fp32.decode w
def Fl.f32 (x : Fl) : Fl := ofF32 (toF32 x)

/-! ### exp, rsqrt, reciprocal (R288) -/

/-- The terms of exp(n / d) from the k-th on, in units of 2^-512. -/
def expGo (n d : Nat) : Nat → Nat → Nat → Nat → Nat
  | 0, _, _, acc => acc
  | f + 1, k, t, acc => if t = 0 then acc else expGo n d f (k + 1) (t * n / (d * k)) (acc + t)

/-- exp of a finite FP32 value (log 13). -/
def expFin (neg : Bool) (n d : Nat) : Fl :=
  if 104 * d < n then (if neg then .zero else .inf false)
  else
    let e := expGo n d 1200 1 (2 ^ 512) 0
    if neg then .fin false (2 ^ 512) e else .fin false e (2 ^ 512)

def Fl.exp : Fl → Fl
  | .nan => .nan
  | .inf neg => if neg then .zero else .inf false
  | .fin neg n d => if n = 0 then .one else (expFin neg n d).f32

def Fl.recip (x : Fl) : Fl := (Fl.one.div x).f32

/-- 1 / sqrt(x): the integer root at 256 fraction bits, and half a unit more where it is not exact. -/
def Fl.rsqrt : Fl → Fl
  | .nan => .nan
  | .inf neg => if neg then .nan else .zero
  | .fin neg n d =>
    if n = 0 then .inf neg
    else if neg then .nan
    else
      let t := d * 2 ^ 512 / n
      let r := isqrt t
      let odd := if r * r = t && d * 2 ^ 512 % n = 0 then 0 else 1
      (Fl.fin false (2 * r + odd) (2 ^ 257)).f32

/-- silu (R287). -/
def Fl.silu (x : Fl) : Fl := (x.mul ((Fl.one.add x.neg.exp).f32.recip)).f32

/-- Terms added one at a time, each sum rounded, from the first term (R287, R291). -/
def fsum : List Fl → Fl
  | [] => .zero
  | x :: xs => xs.foldl (fun a b => (a.add b).f32) x

/-- An exact sum (R290, R319). -/
def exactSum : List Fl → Fl
  | [] => .zero
  | x :: xs => xs.foldl Fl.add x

/-! ### Elements, scales and rows (R268 to R270, R278) -/

/-- Columns that share a scale; 0 where there is none. -/
def groupOf (fmt : Nat) : Nat := match fmt with | 6 | 7 | 8 | 9 => 32 | 10 => 128 | _ => 0
/-- Bits of an element. -/
def elemBits (fmt : Nat) : Nat := match fmt with | 1 => 32 | 2 | 3 => 16 | 4 | 5 | 6 | 7 => 8 | _ => 4
/-- Bytes of a scale. -/
def scaleBytes (fmt : Nat) : Nat := match fmt with | 6 | 7 | 8 => 1 | 9 | 10 => 2 | _ => 0
/-- INT4 (R268). -/
def isInt4 (fmt : Nat) : Bool := fmt = 9 || fmt = 10

def elemBytes (fmt cols : Nat) : Nat := cols * elemBits fmt / 8
def scaleCount (fmt cols : Nat) : Nat := if groupOf fmt = 0 then 0 else cols / groupOf fmt
/-- Bytes of a row (R278). -/
def rowSize (fmt cols : Nat) : Nat := elemBytes fmt cols + scaleCount fmt cols * scaleBytes fmt

/-- The bits of element i of a row; two 4-bit elements share a byte, the even one low (R269). -/
def elemAt (fmt : Nat) (b : List Byte) (i : Nat) : Nat :=
  if elemBits fmt = 4 then field b (i / 2) 1 / 2 ^ (4 * (i % 2)) % 16
  else field b (i * (elemBits fmt / 8)) (elemBits fmt / 8)

/-- The value of an element without its scale. -/
def elemVal (fmt w : Nat) : Fl :=
  if isInt4 fmt then let v := signed 4 w; .fin (v < 0) v.natAbs 1 else (fpForm fmt).decode w

/-- The value of a scale: E8M0 or FP16 (R268). -/
def scaleVal (fmt w : Nat) : Fl :=
  if isInt4 fmt then fp16.decode w else if w = 0xFF then .nan else pow2 ((w : Int) - 127)

/-- Elements of a row without scales. -/
def rowElems (fmt cols : Nat) (b : List Byte) : List Fl := (List.range cols).map fun i => elemVal fmt (elemAt fmt b i)

/-- Scales of a row. -/
def rowScales (fmt cols : Nat) (b : List Byte) : List Fl :=
  (List.range (scaleCount fmt cols)).map fun i =>
    scaleVal fmt (field b (elemBytes fmt cols + i * scaleBytes fmt) (scaleBytes fmt))

/-- Values of a row: each element by its block or group scale, tscale not applied (R269). -/
def rowVals (fmt cols : Nat) (b : List Byte) : List Fl :=
  let es := rowElems fmt cols b
  if groupOf fmt = 0 then es
  else
    let ss := rowScales fmt cols b
    es.zipIdx.map fun x => x.1.mul (ss.getD (x.2 / groupOf fmt) .nan)

/-! ### Conversion (R293 to R296) -/

/-- The random value of R294. -/
def srBits (seed : Word) (entry row col : Nat) : Nat :=
  let x : Word := seed ^^^ BitVec.ofNat 64 (entry * 2 ^ 48) ^^^ BitVec.ofNat 64 (row * 2 ^ 32) ^^^ BitVec.ofNat 64 col
  let x := (x ^^^ (x >>> 30)) * 0xBF58476D1CE4E5B9
  let x := (x ^^^ (x >>> 27)) * 0x94D049BB133111EB
  let x := x ^^^ (x >>> 31)
  x.toNat % 2 ^ 32

/-- How values are rounded: stochastically with a seed and entry, or to nearest; and saturation. -/
structure Rounding where
  sr : Option (Word × Nat) := none
  sat : Bool := false
deriving DecidableEq, Repr

/-- The random value of the element at a row and column; none for rounding to nearest. -/
def Rounding.at (y : Rounding) (row col : Nat) : Option Nat := y.sr.map fun x => srBits x.1 x.2 row col

/-- One element of a format without block scales (R293); a conversion to FP32 changes nothing. -/
def putElem (fmt : Nat) (x : Fl) (sat : Bool) (r : Option Nat) : Nat :=
  if fmt = 1 then fp32.encode x false none else (fpForm fmt).encode x sat r

/-- The largest magnitude of finite values. -/
def largest (xs : List Fl) : Nat × Nat :=
  xs.foldl (fun a x => match x with
    | .fin _ n d => if a.1 * d < n * a.2 then (n, d) else a
    | _ => a) (0, 1)

/-- emax of R295. -/
def emax (fmt : Nat) : Int := match fmt with | 6 => 8 | 7 => 15 | _ => 2

/-- A block of R295: its elements' bits and its scale byte. -/
def putBlock (fmt : Nat) (xs : List Fl) (r : Nat → Option Nat) : List Nat × Nat :=
  if xs.any fun x => x.isNan || x.isInf then (xs.map fun _ => 0, 0xFF)
  else
    let a := largest xs
    let e : Int := if a.1 = 0 then -127 else Max.max (-127) (Min.min 127 (ilog2 a.1 a.2 - emax fmt))
    (xs.zipIdx.map fun x => (fpForm fmt).encode (x.1.div (pow2 e)) true (r x.2), (e + 127).toNat)

/-- An element of an INT4 group: the quotient rounded on the integers, clamped to -8 to 7 (R296). -/
def putInt4 (x s : Fl) (r : Option Nat) : Nat :=
  match x.div s with
  | .fin neg n d =>
    let k := roundAt n d 0 r
    if neg then (16 - min 8 k) % 16 else min 7 k
  | .inf neg => if neg then 8 else 7
  | .nan => 0

/-- A group of R296. -/
def putGroup (xs : List Fl) (r : Nat → Option Nat) : List Nat × Nat :=
  if xs.any Fl.isNan then (xs.map fun _ => 0, 0x7E00)
  else
    let a := largest xs
    let s : Nat := if xs.any Fl.isInf then fp16.top
      else fp16.encode (Fl.fin false a.1 (7 * a.2)) true none
    if s = 0 then (xs.map fun _ => 0, 0)
    else (xs.zipIdx.map fun x => putInt4 x.1 (fp16.decode s) (r x.2), s)

/-- Nibbles to bytes, the even one low. -/
def packNibbles : List Nat → List Byte
  | [] => []
  | [a] => [BitVec.ofNat 8 a]
  | a :: b :: t => BitVec.ofNat 8 (a + 16 * b) :: packNibbles t

/-- Lists of g. -/
def chunksOf {α : Type} (g : Nat) : Nat → List α → List (List α)
  | 0, _ => []
  | f + 1, xs => if xs.isEmpty then [] else xs.take g :: chunksOf g f (xs.drop g)

/-- A row of values in a format, with its scales (R278, R293 to R296). Per-tensor FP8 stores the exact
quotient by tscale. Column of the first value: `col0`. -/
def putRow (fmt : Nat) (ts : Nat) (y : Rounding) (row col0 : Nat) (xs : List Fl) : List Byte :=
  if groupOf fmt = 0 then
    xs.zipIdx.flatMap fun x =>
      let v := if fmt = 4 || fmt = 5 then x.1.div (ofF32 ts) else x.1
      leBytes (elemBits fmt / 8) (putElem fmt v y.sat (y.at row (col0 + x.2)))
  else
    let g := groupOf fmt
    let blocks := (chunksOf g (xs.length / g + 1) xs).zipIdx.map fun b =>
      let r (i : Nat) : Option Nat := y.at row (col0 + b.2 * g + i)
      if isInt4 fmt then putGroup b.1 r else putBlock fmt b.1 r
    let es := blocks.flatMap fun b => b.1
    (if elemBits fmt = 4 then packNibbles es else es.map fun e => BitVec.ofNat 8 e)
      ++ blocks.flatMap fun b => leBytes (scaleBytes fmt) b.2

end Sys2Proof.Machine
end

