-- ==== Sys2Proof/Machine/Extents.lean ====
section
/-! DEFINITION. Operations on extents and segments: ACTIVATE, REVOKE, RELEASE, the zero fill and the
drain (R53 to R57, R72 to R79), and the commit of a segment (R63, R64). -/

namespace Sys2Proof.Machine

/-- The extents in a state that meets p, other than n. -/
def State.otherExts (s : State) (n : Nat) (p : ExtState → Bool) : List Nat :=
  s.extList.filter fun m => m != n && p (s.extState m)

/-- The offset ranges of two extents meet. -/
def State.extOverlap (s : State) (n m : Nat) : Bool :=
  overlaps (s.extOff n) (s.extLen n) (s.extOff m) (s.extLen m)

/-- First and last stack that a tier 0 extent uses, and its bytes in each (R54). -/
def State.extStacks (s : State) (n : Nat) : Nat × Nat × Nat :=
  if s.extLocal n then (4 * s.extQuad n, 4 * s.extQuad n + 3, s.extLen n / 4) else (0, 15, s.extLen n / 16)

/-- Two extents of one tier share backing bytes (R54 row 7). -/
def State.backOverlap (s : State) (n m : Nat) : Bool :=
  if s.extTier n != s.extTier m then false
  else if s.extTier n = 0 then
    let (a, b, k) := s.extStacks n
    let (c, d, j) := s.extStacks m
    a ≤ d && c ≤ b && overlaps (s.extBack n) k (s.extBack m) j
  else if s.extTier n = 1 then overlaps (s.extBack n) (s.extLen n) (s.extBack m) (s.extLen m)
  else false

/-- User capacity of the flash tier in bytes; zero until READY (R236, R238). -/
def State.flashCap (s : State) : Nat :=
  if s.flash.state = .ready then bits (s.at { reg := .flsCfg }) 31 16 * 2 ^ 36 else 0

/-- The checks of ACTIVATE, in order (R54, R493). -/
def State.activateCheck (s : State) (n : Nat) : Byte :=
  let st := s.extState n
  let tier := s.extTier n
  let off := s.extOff n
  let len := s.extLen n
  if st != .free && st != .drained then stUnsupported
  else if tier = 3 || len = 0 || 2 ^ 47 < off + len then stMalformed
  else if (tier = 2 && (s.extCoherent n || s.extZeroFill n)) || (tier != 0 && s.extLent n) then stUnsupported
  else if (s.otherExts n fun x => x = .filling || x = .active || x = .drained).any (s.extOverlap n) then stMalformed
  else if (s.otherExts n fun x => x = .revoking).any (s.extOverlap n) then stRetry
  else if (tier = 0 && 2 ^ 36 < s.extBack n + (s.extStacks n).2.2)
      || (tier = 1 && s.flashCap < s.extBack n + len) then stMalformed
  else if tier != 2 && (s.otherExts n fun x => x != .free).any (s.backOverlap n) then stMalformed
  else if tier = 0 && (List.range 16).any fun k =>
      (s.extStacks n).1 ≤ k && k ≤ (s.extStacks n).2.1 && s.stackHealth k = .failed then stUnsupported
  else stOk

/-- ACTIVATE (R54, R55). -/
def State.activate (s : State) (n : Nat) : State :=
  let st := s.activateCheck n
  if st != stOk then s.setExt n fun x => { x with lastStatus := st }
  else s.setExt n fun x => { x with state := if s.extZeroFill n then .filling else .active, lastStatus := stOk }

/-- Zero the first `k` bytes that a tier 0 extent has in each stack, or the first `k` of a tier 1
extent, and clear their marks (R55). -/
def State.zeroBack (s : State) (n k : Nat) : State :=
  let b := s.extBack n
  if s.extTier n = 0 then
    let (lo, hi, _) := s.extStacks n
    let hit (a : Nat) : Bool := lo ≤ a / 2 ^ 36 && a / 2 ^ 36 ≤ hi && b ≤ a % 2 ^ 36 && a % 2 ^ 36 < b + k
    let m := s.mem
    { s with mem := { hbm := m.hbm.filter fun c => !hit c.1
                      poison := m.poison.filter fun x => !hit (x * 64)
                      flawed := m.flawed.filter fun x => !hit (x * 64)
                      broken := m.broken.filter fun x => !hit (x * 64) } }
  else if s.extTier n = 1 then
    let hit (p : Nat) : Bool := b ≤ p * 4096 && p * 4096 < b + k
    let f := s.flash
    { s with flash := { f with nand := f.nand.filter fun e => !hit e.1
                               stage := f.stage.filter fun e => !hit e.1 } }
  else s

/-- The zero fill of extent n ends (R55). -/
def State.fillDone (s : State) (n : Nat) : State :=
  if s.extState n = .filling then
    let k := if s.extTier n = 0 then (s.extStacks n).2.2 else s.extLen n
    (s.zeroBack n k).setExt n fun x => { x with state := .active }
  else s

/-! ### REVOKE -/

/-- A range of device bytes, as an address test on a GFA range. -/
def State.meets (s : State) (lo n gfa len : Nat) : Bool :=
  gfaDev gfa = s.ownId && overlaps (gfaOff gfa) len lo n

/-- The ranges that an accepted command's descriptor holds (R67, R72). -/
def Cmd.ranges (c : Cmd) (own : Nat) : List (Nat × Nat) :=
  match c.body with
  | .access a => [(a.gfa, a.len)]
  | .held a => [(a.gfa, a.len)]
  | .coh r => [(mkGfa own (r.line * 128), 128)]
  | .eng e => e.opnds.map fun o => (o.gfa, o.len)
  | _ => []

/-- A part that has not entered stage 6. DESIGN CHOICE: a part forwarded to another device counts as in stage 6 from the
moment it leaves stage 3, also while its request waits for a requester tag, for its session or for room in cwnd, so
REVOKE does not withdraw it; R73 does not say when a forwarded part enters stage 6 (log 112). -/
def Part.early (p : Part) : Bool := match p.st with
  | .parked | .backoff _ | .txn => true
  | _ => false

/-- One marked command (R73): what has not entered stage 6 leaves with EXTENT_REVOKED. -/
def State.revokeCmd (s : State) (id : Nat) : State :=
  match s.findCmd id with
  | none => s
  | some c =>
    match c.body with
    | .access a =>
      let s := a.parts.zipIdx.foldl (fun s x =>
        if x.1.early then s.endPart id x.2 { stage := 3, status := stExtentRevoked, data := [] } else s) s
      s.settleAccess id
    | .held _ =>
      match c.src with
      | .msg o => (s.dropCmd id).sendCpl o stExtentRevoked []
      | _ => s
    | .coh _ => s.endCoh id stExtentRevoked
    | .eng e =>
      (s.setCmd id fun c => { c with body := .eng { e with conds := e.conds ++ [stExtentRevoked] } }).owe (.eng id)
    | _ => s

/-- Mark every outstanding request whose range meets [lo, lo+n), for extent e (R72, R229). -/
def State.markRange (s : State) (e lo n : Nat) : State :=
  let hit := (s.cmds.filter fun c => (c.ranges s.ownId).any fun r => s.meets lo n r.1 r.2).map (·.id)
  let s := hit.foldl (fun s id => s.setCmd id fun c => { c with marks := (e :: c.marks).dedup }) s
  hit.foldl State.revokeCmd s

/-- A command that serves itself from extent e is held in its drain while e is REVOKING (R359, R396, R403). -/
def State.heldIn (s : State) (e id : Nat) : State :=
  if s.extState e = .revoking then s.setCmd id fun c => { c with marks := (e :: c.marks).dedup } else s

/-- Marked requests of extent e that have not completed: in_flight (R72). DESIGN CHOICE: the internal accesses that a
marked engine command has issued are marked and counted beside the command itself; R72 does not say whether they count
apart (log 112). -/
def State.extInFlight (s : State) (e : Nat) : Nat := s.cmds.countP fun c => c.marks.contains e

/-- R228: a region enters ENDED: every binding of it is retired, in contexts and descriptors, and its
slots end. -/
def State.regionEnd (s : State) (r : Nat) : State :=
  let x := s.region r
  if x.state = .free || x.state = .ended then s
  else
    (s.rebindAll fun b => b.region = r && b.mode != .none).setRegion r fun x => { x with state := .ended, slots := [] }

/-- Regions, not FREE, whose base lies in extent n. -/
def State.regionsIn (s : State) (n : Nat) : List Nat :=
  (s.vr.regions.filter fun x => x.2.state != .free && s.inExt n (s.regBase x.1)).map fun x => x.1

/-- Regions that hold a page in pool extent n. -/
def State.regionsPooled (s : State) (n : Nat) : List Nat :=
  ((s.vr.pages.filter fun g => g.ext = n).map fun g => g.region).dedup

/-- Pool registers that name extent n detach (R229). -/
def State.detachExt (s : State) (n : Nat) : State :=
  { s with vr := { s.vr with pools := s.vr.pools.map fun x =>
    if x.2.attached && s.poolExt (x.1 / 4) (x.1 % 4) = n then (x.1, { x.2 with attached := false }) else x } }

/-- REVOKE (R57, R72 to R75, R80, R228, R229). -/
def State.revoke (s : State) (n : Nat) : State :=
  let st := s.extState n
  if st != .filling && st != .active then s.setExt n fun x => { x with lastStatus := stUnsupported }
  else
    let s := if st = .filling then
        let (s, d) := s.draw
        let k := if s.extTier n = 0 then (s.extStacks n).2.2 else s.extLen n
        s.zeroBack n (Config.fillReached d % (k + 1) / 64 * 64)
      else s
    let s := s.setExt n fun x => { x with state := .revoking, lastStatus := stOk }
    -- what engine caches hold dirty of it is never written (R137)
    let s := s.ecLose (s.extOff n) (s.extLen n)
    let pooled := if s.inPool n then s.regionsPooled n else []
    let s := s.markRange n (s.extOff n) (s.extLen n)
    let s := pooled.foldl (fun s r => s.markRange n (s.regBase r) (s.regLen r)) s
    let s := (s.regionsIn n ++ pooled).foldl State.regionEnd s
    let s := if s.extCoherent n then s.recallRange (s.extOff n) (s.extLen n) (.revoke n) else s
    s.owe (.revoked n)

/-- RELEASE (R57). -/
def State.releaseExt (s : State) (n : Nat) : State :=
  if s.extState n = .drained then s.setExt n fun x => { x with state := .free, lastStatus := stOk }
  else s.setExt n fun x => { x with lastStatus := stUnsupported }

/-- Entries of extent n's lines, and transactions that recall one of them. -/
def State.extLines (s : State) (n : Nat) : Bool :=
  let lo := s.extOff n
  let hi := lo + s.extLen n
  (s.dir.entries.any fun x => lo ≤ x.1 * 128 && x.1 * 128 < hi)
    || (s.dir.txns.any fun t => lo ≤ t.victim.getD t.line * 128 && t.victim.getD t.line * 128 < hi)

/-- A REVOKING extent with no marked request and no recall left drains (R76, R228, R229). Lines that a
transaction in progress kept from the first recall are recalled first. -/
def State.extentDrained (s : State) (n : Nat) : State :=
  if s.extState n != .revoking || s.extInFlight n != 0 then s
  else if s.extLines n then s.recallRange (s.extOff n) (s.extLen n) (.revoke n)
  else
    let mine := s.regionsIn n ++ s.regionsPooled n
    let s := s.setExt n fun x => { x with state := .drained }
    let s : State := { s with vr := { s.vr with pages := s.vr.pages.filter fun g => g.ext != n } }
    let s := s.freePages fun g => mine.contains g.region
    (s.detachExt n).event 2 (leBytes 2 n)

/-- An op written to HUB_EXT_CTL (R57). -/
def State.extOp (s : State) (n op : Nat) : State :=
  match op with
  | 0 => s
  | 1 => s.activate n
  | 2 => s.revoke n
  | 3 => s.releaseExt n
  | _ => s.setExt n fun x => { x with lastStatus := stUnsupported }

/-- The fields of an extent accept writes (R53). -/
def State.extFree (s : State) (n : Nat) : Bool := match s.extState n with
  | .free | .drained => true
  | _ => false

/-- A write of HUB_EXT_CTL(n): its fields first, then its op (R53). -/
def State.extCtlWrite (s : State) (n : Nat) (v : Word) : State :=
  let a : RegAt := { reg := .hubExtCtl, i := n }
  let s := if s.extFree n then s.putAt a (storedWrite s a v) else s
  s.extOp n (bits v 19 16)

/-- R483: a register of extent entry n is rewritten; with all four its fault is cleared. -/
def State.extUnfault (s : State) (n k : Nat) : State :=
  s.setExt n fun x => { x with fault := x.fault &&& ~~~(BitVec.ofNat 4 (2 ^ k)) }

/-! ### Segments (R63, R64) -/

/-- What HBASE, LEN and GFA of segment (c, sg) hold in staging, else as committed. -/
def State.segStaged (s : State) (c sg : Nat) : Word × Word × Word :=
  match s.ext.segStage.find? (·.1 = 16 * c + sg) with
  | some x => x.2
  | none => (s.hub .hubSegHbase c sg, s.hub .hubSegLen c sg, s.hub .hubSegGfa c sg)

/-- A write of one of the staged registers, k of HBASE, LEN and GFA. -/
def State.segStageWrite (s : State) (c sg k : Nat) (v : Word) : State :=
  let (h, l, g) := s.segStaged c sg
  let key := 16 * c + sg
  let m (r : Reg) : Word := v &&& r.desc.rw
  let x := match k with
    | 0 => (m .hubSegHbase, l, g)
    | 1 => (h, m .hubSegLen, g)
    | _ => (h, l, m .hubSegGfa)
  { s with ext := { s.ext with
      segStage := sortBy (fun a b => a.1 < b.1) ((key, x) :: s.ext.segStage.filter (·.1 != key))
      segFault := tmod 0 s.ext.segFault key fun f => f &&& ~~~(BitVec.ofNat 4 (2 ^ k)) } }

/-- R64: a segment that overflows is not valid. -/
def segOverflows (h l g : Word) : Bool := 2 ^ 64 < h.toNat + l.toNat || 2 ^ 47 < gfaOff g.toNat + l.toNat

/-- A write of HUB_SEG_ATTR(c, sg) commits the staged values and the attributes in one step. -/
def State.segCommit (s : State) (c sg : Nat) (v : Word) : State :=
  let (h, l, g) := s.segStaged c sg
  let key := 16 * c + sg
  let v := v &&& Reg.hubSegAttr.desc.rw
  let v := if segOverflows h l g then v &&& ~~~1 else v
  let s := s.putAt { reg := .hubSegHbase, i := c, j := sg } h
  let s := s.putAt { reg := .hubSegLen, i := c, j := sg } l
  let s := s.putAt { reg := .hubSegGfa, i := c, j := sg } g
  let s := s.putAt { reg := .hubSegAttr, i := c, j := sg } v
  { s with ext := { s.ext with
      segStage := s.ext.segStage.filter (·.1 != key)
      segFault := tmod 0 s.ext.segFault key fun f => f &&& ~~~8 } }

/-- HUB_RC_INVAL: inv_all drops every copy in the hub read cache (R135). -/
def State.rcInval (s : State) (v : Word) : State :=
  if bit v 0 then { s with cache := { s.cache with rc := [] } } else s

end Sys2Proof.Machine
end

