-- ==== Sys2Proof/Machine/Engines.lean ====
section
/-! DEFINITION. What all engine units share: acceptance of an ENG_CMD (R67, R122), queues (R141, R144),
internal accesses through the engine cache (R39, R133, R134), completion (R39), and the common commands
(R142 to R146). -/

namespace Sys2Proof.Machine

/-! ### Commands -/

def Cmd.eng? (c : Cmd) : Option Eng := match c.body with | .eng e => some e | _ => none
def State.eng (s : State) (id : Nat) : Option Eng := (s.findCmd id).bind Cmd.eng?
def State.setEng (s : State) (id : Nat) (f : Eng → Eng) : State :=
  s.setCmd id fun c => match c.body with | .eng e => { c with body := .eng (f e) } | _ => c

/-- Engine unit number in the table of units. -/
def unitKey (u q : Nat) : Nat := if u ≤ 5 then 8 * q + u else 32 + u
def State.unit (s : State) (u q : Nat) : EngUnit := tget {} s.units (unitKey u q)
def State.setUnit (s : State) (u q : Nat) (f : EngUnit → EngUnit) : State :=
  { s with units := tmod {} s.units (unitKey u q) f }

/-- Commands of a unit: accepted and not completed (R404). -/
def State.unitCmds (s : State) (u q : Nat) : List Cmd :=
  s.cmds.filter fun c => match c.body with
    | .eng e => e.unit = u && (5 < u || e.quad = q)
    | _ => false

def State.addCond (s : State) (id : Nat) (st : Byte) : State :=
  (s.setEng id fun e => { e with conds := e.conds ++ [st] }).owe (.eng id)

/-- The common commands (R142). -/
def isCommon (op : Byte) : Bool := op = 0xF0 || op = 0xF1

/-- An operand as a command's body spells it; length 0 stands for an operand that is absent. -/
structure OpSpec where
  addr : Nat
  len : Nat
  rd : Bool := false
  wr : Bool := false
deriving DecidableEq, Repr

/-- R67: every operand translated, or none. -/
def State.transOps (s : State) (c : Nat) : List OpSpec → State × Option (List Opnd)
  | [] => (s, some [])
  | o :: os =>
    let (s, g) := if o.len = 0 then (s, some 0) else s.translate c o.addr o.len { r := o.rd, w := o.wr }
    match g with
    | none => (s, none)
    | some g =>
      match State.transOps s c os with
      | (s, none) => (s, none)
      | (s, some l) => (s, some ({ gfa := g, len := o.len, rd := o.rd, wr := o.wr } :: l))

/-- R122: the quadrant to which a command with quadrant 0xFF is routed. -/
def State.routeTo (s : State) (gfa : Nat) : Nat :=
  if gfaDev gfa != s.ownId then 0
  else match s.findExt (gfaOff gfa) with
    | some e => s.homeOf e (gfaOff gfa - s.extOff e)
    | none => 0

/-- What a unit's chapter says of a command's form. -/
structure UnitForm where
  /-- quadrant values and queues the unit accepts, for an opcode -/
  sel : Nat → Nat → Nat → Bool
  op : Nat → Bool
  /-- body checks: MALFORMED before UNSUPPORTED -/
  body : List Byte → Byte
  operands : List Byte → List OpSpec
  /-- which operand routes a command with quadrant 0xFF -/
  route : List Byte → Nat := fun _ => 0

/-- The form of the common commands (R142, R143). -/
def commonBody (b : List Byte) (quad : Nat) : Byte :=
  let whole := field b 1 1 % 2 = 1
  let len := field b 16 8
  if b.length != 32 || 2 ≤ field b 1 1 || !zeroAt b 2 6 || !zeroAt b 24 8 then stMalformed
  else if whole && (field b 8 8 != 0 || len != 0) then stMalformed
  else if !whole && (field b 8 8 % 128 != 0 || len % 128 != 0 || len < 128 || 2 ^ 40 < len) then stMalformed
  else if quad = 0xFF then stUnsupported
  else stOk

def commonOps (b : List Byte) : List OpSpec := [{ addr := field b 8 8, len := field b 16 8, rd := true }]

/-- Acceptance of an engine command (R33, R35, R67, R110, R405). -/
def State.engAccept (s : State) (o : Origin) (f : Frame) (u : Nat) (y : UnitForm) : State :=
  let c := o.ctxField.toNat % 4096
  let a := f.hdr.addr.toNat
  let b := f.payload
  let op := BitVec.ofNat 8 (field b 0 1)
  let st := s.ctxCheck o
  let sel := a / 256 % 256
  let refuse (s : State) (q : Nat) (st : Byte) : State := (s.countRefusal u q op.toNat).sendCpl o st []
  if st != stOk then refuse s sel st
  else match s.transOps c (if isCommon op then commonOps b else y.operands b) with
    | (s, none) => refuse s sel stSegmentFault
    | (s, some os) =>
      let q := if sel = 0xFF then (if u ≤ 5 then s.routeTo ((os.getD (y.route b) ⟨0, 0, false, false⟩).gfa) else 0xFF) else sel
      if (s.unit u q).state != .enabled then refuse s q stEngineDisabled
      else if s.overLimit o then refuse s q stRetry
      else
        let k := a / 65536 % 65536
        let e : Eng := { unit := u, quad := q, queue := k, op := op, body := b, opnds := os,
                         binds := s.bindsOf c }
        (s.accept (.msg o) c (.eng e)).1.owe (.queue u q k)

/-! ### Queues -/

/-- A unit runs one command of a queue at a time; search queries and the commands of a stream's queue
overlap (R360, R262). -/
def serialUnit (u k : Nat) : Bool := u = 1 || u = 2 || u = 4 || (u = 5 && 8 ≤ k)

/-- A Hurdle command that has not taken effect: a pending watch has (R412). -/
def Eng.unfelt (e : Eng) : Bool := e.unit = 7 && !e.issued && match e.phase with
  | .watch _ => false
  | .peer => e.op != 5
  | _ => true

/-- Two commands came on one stream. -/
def Cmd.sameStream (c d : Cmd) : Bool := match c.src, d.src with
  | .msg o, .msg p => o.sess = p.sess && o.inc = p.inc && o.cls = p.cls
  | _, _ => false

/-- Command c, which runs e, must wait for command d before it in its queue (R141, R144, R412). -/
def Cmd.waitsFor (c : Cmd) (e : Eng) (d : Cmd) : Bool := match d.body with
  | .eng b => serialUnit e.unit e.queue || isCommon e.op || isCommon b.op || (b.unfelt && c.sameStream d)
  | _ => false

/-- Start the commands of a queue that may start (R141, R144). -/
def State.queueStart (s : State) (u q k : Nat) : State :=
  let mine := s.cmds.filter fun c => match c.body with
    | .eng e => e.unit = u && e.quad = q && e.queue = k
    | _ => false
  (mine.foldl (fun (x : State × List Cmd) c =>
    match c.body with
    | .eng e =>
      let (s, before) := x
      let s := if !e.started && !before.any (c.waitsFor e) then
          (s.setEng c.id fun e => { e with started := true, since := s.now }).owe (.eng c.id)
        else s
      (s, before ++ [c])
    | _ => x) (s, [])).1

/-- An engine command completes (R39, R224). -/
def State.endEng (s : State) (id : Nat) (st : Byte) (payload : List Byte) : State :=
  match s.findCmd id with
  | none => s
  | some c =>
    match c.body, c.src with
    | .eng e, .msg o =>
      let s := ((s.forget id).dropCmd id).sendCpl o st payload
      (s.owe (.queue e.unit e.quad e.queue)).owe .retireDue
    | _, _ => s

/-! ### Internal accesses -/

/-- An access of an engine command enters at stage 3 (R39). -/
def State.engAccess (s : State) (id : Nat) (a : Access) : State :=
  match s.findCmd id with
  | none => s
  | some c => (s.setEng id fun e => { e with waits := e.waits + 1 }).internal (.engine id) c.ctx a

/-- A line's read for this command is on its way. -/
def State.engAsked (s : State) (id l : Nat) : Bool :=
  s.cmds.any fun c => match c.src, c.body with
    | .engine e, .access a => e = id && a.kind = .read && a.gfa / 128 = l
    | _, _ => false

/-- Line l for engine command `id`: what it has fetched, what the cache holds, or a new access; with `poc`
an access at the point of coherence only (R375). A published version is read through the cache too (R209). -/
def State.engLine (s : State) (id l : Nat) (poc : Bool := false) : State × Option Fetched :=
  match s.eng id with
  | none => (s, none)
  | some e =>
    match e.fetched.find? (·.line = l) with
    | some x => (s, some x)
    | none =>
      let q := e.quad
      let key := if !poc && 1 ≤ e.unit && e.unit ≤ 4 then s.ecKey e.binds l else none
      let cached := (key.bind fun v => s.ecFind q l v).filter fun x => x.valid = BitVec.allOnes 128
      match cached with
      | some x =>
        let y : Fetched := { line := l, data := x.data, poison := x.poison.zeroExtend 64 }
        ((s.setEng id fun e => { e with fetched := e.fetched ++ [y] }).countQ q .qdEcStat 0, some y)
      | none =>
        if s.engAsked id l then (s, none)
        else
          let s := if key.isSome then s.countQ q .qdEcStat 1 else s
          let s := s.engAccess id { kind := .read, vol := poc, gfa := l * 128, len := 128 }
          (s, (s.eng id).bind fun e => e.fetched.find? (·.line = l))

/-- Lines of [gfa, gfa+n). -/
def linesOf (gfa n : Nat) : List Nat :=
  if n = 0 then [] else (List.range ((gfa + n - 1) / 128 - gfa / 128 + 1)).map (gfa / 128 + ·)

/-- Bytes of [gfa, gfa+n) out of fetched lines, those of poisoned sectors 0 (R160), and whether a sector
that they touch is poisoned. -/
def gather (ls : List Fetched) (gfa n : Nat) : List Byte × Bool :=
  let all := ls.flatMap fun x => x.data.zipIdx.map fun b => if x.poison.getLsbD (b.2 / 64) then 0 else b.1
  let bad := ls.any fun x => (List.range 2).any fun k =>
    x.poison.getLsbD k && overlaps gfa n (x.line * 128 + 64 * k) 64
  (slice all (gfa % 128) n, bad)

/-- Read [gfa, gfa+n) for an engine command; `none` while some line is still to come. -/
def State.engRead (s : State) (id gfa n : Nat) (poc : Bool := false) : State × Option (List Byte × Bool) :=
  let (s, ls) := (linesOf gfa n).foldl (fun (x : State × List (Option Fetched)) l =>
    let (s, r) := x.1.engLine id l poc
    (s, x.2 ++ [r])) (s, [])
  if ls.all Option.isSome then (s, some (gather (ls.filterMap fun x => x) gfa n)) else (s, none)

/-- Put an engine's write over the lines that its command has fetched. -/
def patchFetched (fs : List Fetched) (l o : Nat) (bs : List Byte) : List Fetched :=
  fs.map fun x => if x.line = l then { x with data := patch x.data o bs } else x

/-- One engine write within a line (R133, R134). DESIGN CHOICE: it counts neither as a hit nor as a miss in
QD_EC_STAT(0) and (1), which R162 does not say (log 109). -/
def State.engWriteLine (s : State) (id gfa : Nat) (bs : List Byte) : State :=
  match s.eng id with
  | none => s
  | some e =>
    let l := gfa / 128
    let o := gfa % 128
    let s := s.setEng id fun e => { e with fetched := patchFetched e.fetched l o bs }
    if s.ecBypass l then s.engAccess id { kind := .write, gfa := gfa, len := bs.length, data := bs }
    else if bit (s.quad e.quad .qdEcCfg) 0 then
      (s.ecWrite e.quad l o bs true).engAccess id { kind := .write, gfa := gfa, len := bs.length, data := bs }
    else s.ecWrite e.quad l o bs false

/-- Write bytes for an engine command, line by line. -/
def State.engWrite (s : State) (id gfa : Nat) (bs : List Byte) : State :=
  (cuts 128 gfa bs.length).foldl (fun s x => s.engWriteLine id x.1 ((bs.drop (x.1 - gfa)).take x.2)) s

/-! ### Write-backs and the common commands -/

/-- Write-backs that a command awaits are still on their way. -/
def State.flushWaits (s : State) (e : Eng) : Bool := e.awaited.any fun i => (s.findCmd i).isSome

/-- Write back what is dirty of a line, in one write that carries the dirty bytes (R131, R133); the copy stays, clean.
Bytes whose extent has been revoked are discarded (R137). A line that is leaving goes when the write has ended. -/
def State.ecWriteBack (s : State) (q l : Nat) (evict : Bool) : State :=
  match s.ecFind q l with
  | none => s
  | some x =>
    let lost := gfaDev (l * 128) = s.ownId && (s.findExt (gfaOff (l * 128))).isNone
    let m := if lost then 0 else x.dirty &&& ~~~x.gone
    if x.dirty = 0 then s
    else
      let s := s.ecPut q l { x with dirty := 0, gone := 0 }
      let s := if m = x.dirty then s else s.countQ q .qdEcStat 3
      if m = 0 then s
      else s.internal (.writeBack q evict) 0
        { kind := .write, gfa := l * 128, len := 128, data := x.data, mask := some m
          marks := (List.range 2).filter fun k => x.poison.getLsbD k && m &&& lineMask (64 * k) 64 != 0 }

/-- An engine cache evicts a line at any time (R133); one with a write on its way stays until that has ended, so that
the engines go on to meet it (R141). -/
def State.ecEvict (s : State) (q l : Nat) : State :=
  let s := s.ecWriteBack q l true
  if s.ecHeld q l then s else s.ecDrop q l

/-- Lines of quadrant q's cache in a range; all of them with `whole`. -/
def State.ecLines (s : State) (q : Nat) (whole : Bool) (gfa n : Nat) : List Nat :=
  ((s.cache.ec.filter fun x => x.1.1 = q && (whole || (gfa / 128 ≤ x.1.2 && x.1.2 * 128 < gfa + n))).map
    fun x => x.1.2).dedup

/-- The write-backs and the writes of quadrant q's engines to these lines that are on their way (R145). -/
def State.ecFlying (s : State) (q : Nat) (whole : Bool) (gfa n : Nat) : List Nat :=
  (s.cmds.filter fun c => (s.ecWrites q c).any fun l => whole || (gfa / 128 ≤ l && l * 128 < gfa + n)).map (·.id)

/-- An invalidation drops what it may of a line: every copy, but for bytes that were written while it waited, and those
of a write that is on its way (R146). -/
def State.ecInval (s : State) (q l : Nat) : State :=
  match s.ecFind q l with
  | none => s.ecDrop q l
  | some x =>
    if s.ecHeld q l then s
    else if x.dirty = 0 then s.ecDrop q l
    else (s.ecDrop q l).ecPut q l { x with valid := x.dirty }

/-- Write back what is dirty in a range of quadrant q's cache; `note` learns, before each may end, of the write-backs of
the range that are on their way. -/
def State.flushRange (s : State) (q : Nat) (whole : Bool) (gfa n : Nat) (note : State → List Nat → State) : State :=
  (s.ecLines q whole gfa n).foldl (fun s l => (note s [s.nextId]).ecWriteBack q l false) (note s (s.ecFlying q whole gfa n))

/-- A flush or invalidation (R145, R146): it writes back what is dirty in its range, and ends when every write-back of
its range that was on its way by then has ended. -/
def State.commonRun (s : State) (id : Nat) (e : Eng) : State :=
  let whole := field e.body 1 1 % 2 = 1
  let o := e.opnds.getD 0 ⟨0, 0, false, false⟩
  let s := if e.issued then s
    else
      s.flushRange e.quad whole o.gfa o.len fun s ids =>
        s.setEng id fun e => { e with issued := true, phase := .cache (ids ++ e.awaited) }
  match s.eng id with
  | none => s
  | some e =>
    if s.flushWaits e then s
    else
      let s := if e.op = 0xF1 then
          (s.ecLines e.quad whole o.gfa o.len).foldl (fun s l => s.ecInval e.quad l) s
        else s
      s.endEng id (firstByOrder [stExtentRevoked, stFenced, stTimeout] e.conds) []

end Sys2Proof.Machine
end

