-- ==== Sys2Proof/Machine/Regions.lean ====
section
/-! DEFINITION. Operations on versioned regions: DECLARE, UNDECLARE, folding, pools (R200 to R202, R220,
R223, R226, R227), and the version commands of unit 0x06 (R211 to R217, R225). -/

namespace Sys2Proof.Machine

def State.setRegSt (s : State) (r : Nat) (st : Byte) : State := s.setRegion r fun x => { x with lastStatus := st }

/-! ### DECLARE and UNDECLARE -/

/-- Extent e is the staging range of a Pacer stream that is not IDLE, or the cache area of a Lane that is
not FREE (R201). -/
def State.staged (s : State) (e : Nat) : Bool :=
  (s.pace.any fun x => x.2.state != .idle && s.inExt e (gfaOff x.2.stage))
    || (s.lanes.any fun x => x.2.state != .free && s.inExt e (x.2.base))

/-- Quadrants that are the home of a page of a range of extent e: 64 KiB or more meet every stack that
the extent uses. -/
def State.homesOf (s : State) (e : Nat) : List Nat := if s.extLocal e then [s.extQuad e] else [0, 1, 2, 3]

/-- The extent is the flash map of a tier that is not OFF (R237). -/
def State.isFlashMap (s : State) (e : Nat) : Bool :=
  s.flash.state != .off && bits (s.hub .flsMap) 11 0 = e

/-- The checks of DECLARE, in order (R201). -/
def State.declareCheck (s : State) (r : Nat) : Byte :=
  let base := s.regBase r
  let len := s.regLen r
  if len = 0 || 2 ^ 44 < len then stMalformed
  else match s.findExt base with
    | none => stMalformed
    | some e =>
      if s.extOff e + s.extLen e < base + len then stMalformed
      else if 1 < s.extTier e || s.extLent e || s.inPool e || s.isFlashMap e || s.reserved e || s.staged e then
        stUnsupported
      else if s.vr.regions.any fun x =>
          x.1 != r && x.2.state != .free && overlaps base len (s.regBase x.1) (s.regLen x.1) then stMalformed
      else if (s.homesOf e).any fun q => !((List.range 4).any fun k => (s.pool q k).attached) then stUnsupported
      else stOk

/-- DECLARE (R200 to R202, R226). -/
def State.declare (s : State) (r : Nat) : State :=
  if (s.region r).state != .free then s.setRegSt r stUnsupported
  else
    let st := s.declareCheck r
    if st != stOk then s.setRegSt r st
    else
      let coh := match s.findExt (s.regBase r) with | some e => s.extCoherent e | none => false
      let s := s.setRegion r fun x =>
        { x with state := if coh then .declaring else .ready, lastStatus := stOk
                 slots := [(0, { published := true, lap := x.curLap })] }
      if coh then s.recallRange (s.regBase r) (s.regLen r) (.declare r) else s

/-- Lines of a region that the directory still holds or works on. -/
def State.regLines (s : State) (r : Nat) : Bool :=
  let lo := s.regBase r
  let hi := lo + s.regLen r
  (s.dir.entries.any fun x => lo ≤ x.1 * 128 && x.1 * 128 < hi)
    || (s.dir.txns.any fun t => lo ≤ t.line * 128 && t.line * 128 < hi)

/-- Every recall of a DECLARE has ended (R200, R226). -/
def State.declareDone (s : State) (r : Nat) : State :=
  if (s.region r).state != .declaring then s
  else if s.regLines r then s.recallRange (s.regBase r) (s.regLen r) (.declare r)
  else s.setRegion r fun x => { x with state := .ready }

/-- A region becomes FREE: its bindings are dropped, its pool pages freed (R227). -/
def State.regFree (s : State) (r : Nat) : State :=
  let s : State := { s with vr := { s.vr with binds := s.vr.binds.filter fun e => e.2.region != r } }
  let s := s.freePages fun g => g.region = r
  let s := s.dropVersions (s.regBase r) (s.regLen r)
  s.setRegion r fun x => { x with state := .free, slots := [] }

/-- UNDECLARE (R227). -/
def State.undeclare (s : State) (r : Nat) : State :=
  let x : Region := s.region r
  match x.state with
  | .ready =>
    let s := (x.slots.filter fun v => !(v.2.published && v.2.lap = x.curLap)).foldl (fun s v => s.forceRetire r v) s
    (s.setRegion r fun x => { x with state := .folding, lastStatus := stOk }).retire r
  | .ended => (s.setRegSt r stOk).regFree r
  | _ => s.setRegSt r stUnsupported

/-- An op written to VR_REG_CTL(r) (R200). -/
def State.regOp (s : State) (r op : Nat) : State :=
  match op with
  | 0 => s
  | 1 => s.declare r
  | 2 => s.undeclare r
  | _ => s.setRegSt r stUnsupported

/-! ### Folding (R223, R227) -/

/-- The newest published entry of a page whose Lap is not newer than the oldest live Lap: the one that
folds. -/
def State.foldable (s : State) (r page : Nat) : Option PoolPage :=
  let old := s.oldestLap r
  (s.vr.pages.filter fun g => g.region = r && g.page = page && g.published && !newer old g.lap).foldl
    (fun m g => match m with
      | some y => if newer y.lap g.lap then some g else some y
      | none => some g) none

/-- The home folds one page. -/
def State.foldPage (s : State) (r page : Nat) : State :=
  let x : Region := s.region r
  if x.state != .ready && x.state != .folding then s
  else match s.foldable r page, s.regExt r with
    | some g, some e =>
      let s := s.dropPage r page
      let s := s.copyRuns (s.poolRuns g 0 4096) (s.runs e (s.regBase r - s.extOff e + page * 4096) 4096)
      (s.freePages fun h => h = g).count .vrStat 7
    | _, _ => s

def State.foldingDone (s : State) (r : Nat) : State :=
  if (s.region r).state = .folding && !(s.vr.pages.any fun g => g.region = r) then s.regFree r else s

/-! ### Pools (R220) -/

/-- Extent e may become pool extent of quadrant q. -/
def State.poolable (s : State) (q e : Nat) : Bool :=
  s.extState e = .active && s.extTier e = 0 && s.extLocal e && s.extQuad e = q && !s.extCoherent e
    && !s.extLent e && (s.regionsIn e).isEmpty && !s.inPool e

/-- A write of VR_POOL(k) of quadrant q. -/
def State.poolWrite (s : State) (q k : Nat) (v : Word) : State :=
  let a : RegAt := { reg := .vrPool, inst := q, i := k }
  let i := 4 * q + k
  let setP (s : State) (f : Pool → Pool) : State := { s with vr := { s.vr with pools := tmod {} s.vr.pools i f } }
  if (s.pool q k).attached then
    let s := s.putAt a (putBits (s.at a) 13 13 (bits v 13 13))
    if bit v 13 then setP s fun p => { p with lastStatus := stOk } else s.detachPools
  else
    let e := bits v 11 0
    let s := s.putAt a (storedWrite s a v)
    if !bit v 13 then s
    else if s.poolable q e then setP s fun _ => { attached := true, lastStatus := stOk }
    else setP (s.putAt a (putBits (s.at a) 13 13 0)) fun p => { p with lastStatus := stUnsupported }

/-! ### Version commands -/

/-- The form of a command of unit 0x06 (R211, R212). -/
def versionForm : UnitForm where
  sel q k _ := q = 0xFF && k = 0
  op o := 1 ≤ o && o ≤ 3
  body b :=
    let fl := field b 1 1
    let bad := b.length != 32 || 4 ≤ fl || (fl != 0 && field b 0 1 != 1) || !zeroAt b 2 2 || !zeroAt b 16 16
      || fl = 1 || ((fl != 0 || field b 0 1 != 1) && field b 4 4 != 0)
    if bad then stMalformed else stOk
  operands b :=
    let wr := field b 0 1 = 2 || (field b 0 1 = 1 && field b 1 1 % 2 = 1)
    [{ addr := field b 8 8, len := 4096, rd := !wr, wr := wr }]

/-- The precedence of R214. -/
def versionOrder : List Byte :=
  [stUnsupported, stIndexFault, stVersionRetired, stNotOwner, stQuota, stRetry, stVersionConflict]

/-- The result of R215. -/
def versionResult (lap cur : Word32) (slot : Nat) : List Byte :=
  leBytes 4 lap.toNat ++ leBytes 4 cur.toNat ++ [BitVec.ofNat 8 slot] ++ List.replicate 7 0

/-- retire_dist (VR_CFG). -/
def State.retireDist (s : State) : Nat := min 0x7FFF0000 (max 0x10000 (bits (s.hub .vrCfg) 31 0))

/-- Give context c a binding for region b.region: its old one is replaced (R213). -/
def State.setBind (s : State) (c : Nat) (b : Binding) : State :=
  let j := match s.bindOf c b.region with
    | some (j, _) => some j
    | none => leastBelow 16 fun j => (tget {} s.vr.binds (16 * c + j)).mode = .none
  match j with
  | some j => { s with vr := { s.vr with binds := tset {} s.vr.binds (16 * c + j) b } }
  | none => s

def State.dropBind (s : State) (c r : Nat) : State :=
  match s.bindOf c r with
  | some (j, _) => { s with vr := { s.vr with binds := tset {} s.vr.binds (16 * c + j) {} } }
  | none => s

/-- R225: retire the oldest live version by force until the next Lap fits. -/
def State.makeRoom (r : Nat) : Nat → State → State
  | 0, s => s
  | n + 1, s =>
    let x : Region := s.region r
    let old := s.oldestLap r
    if s.retireDist ≤ (x.curLap + 1 - old).toNat then
      match x.slots.find? fun v => v.2.lap = old with
      | none => s
      | some _ =>
        let gone := x.slots.filter fun v => v.2.lap = old
        State.makeRoom r n (gone.foldl (fun s v => s.forceRetire r v) s)
    else s

/-- The private version of slot v becomes the published one of the next Lap (R216). -/
def State.publishSlot (s : State) (r v : Nat) : State :=
  let lap := (s.region r).curLap + 1
  let s := s.setRegion r fun x =>
    { x with curLap := lap, slots := x.slots.map fun y => if y.1 = v then (v, { published := true, lap := lap }) else y }
  let mine := s.vr.pages.filter fun g => g.region = r && g.slot = v && !g.published
  let pub (g : PoolPage) : PoolPage := { g with published := true, lap := lap }
  let s := mine.foldl (fun s g => s.putMap (pub g) true) s
  { s with vr := { s.vr with pages := s.vr.pages.map fun g => if mine.contains g then pub g else g } }

/-- What a publish waits for: earlier writes, atomics and signals through the write binding, a COH_WB and a held signal
among them, and engine commands that hold it (R216). -/
def State.publishWaits (s : State) (id c r v : Nat) : Bool :=
  s.cmds.any fun x => x.id < id &&
    match x.body with
    | .access a => a.kind.isWrite && x.binds.any (·.writes r v)
    | .coh k => k.kind = .wb && x.binds.any (·.writes r v)
    | .eng _ => x.binds.any (·.writes r v)
    | .held a => x.ctx = c && gfaDev a.gfa = s.ownId && s.regionAt (gfaOff a.gfa) = some r
    | _ => false

/-- What a version command does. -/
inductive VrDone where
  | waits
  | ended (st : Byte) (payload : List Byte)

/-- `VR_OPEN` at its turn. -/
def State.vrOpenRun (s : State) (c r : Nat) (b : List Byte) : State × VrDone :=
  let x : Region := s.region r
  let wr := field b 1 1 % 2 = 1
  let cur := field b 1 1 / 2 % 2 = 1
  let lap : Word32 := if cur then x.curLap else BitVec.ofNat 32 (field b 4 4)
  let old : Option (Nat × Binding) := s.bindOf c r
  let full := old.isNone && (List.range 16).all fun j => (tget {} s.vr.binds (16 * c + j)).mode != .none
  let named := x.slots.find? fun v => v.2.published && v.2.lap = lap
  if old.any (fun y => y.2.mode = .write) then (s, .ended stUnsupported [])
  else if x.state != .ready || newer x.curLap lap then (s, .ended stIndexFault [])
  else match named with
    | none => (s, .ended stVersionRetired (versionResult lap x.curLap 0xFF))
    | some v =>
      if full then (s, .ended stQuota [])
      else if wr then
        match leastBelow 64 fun i => !(x.slots.any (·.1 = i)) with
        | none => (s, .ended stRetry [])
        | some i =>
          let s := s.setRegion r fun x =>
            { x with slots := insertBy (fun a b => a.1 < b.1) (i, { published := false, lap := x.curLap }) x.slots }
          let s := s.setBind c { mode := .write, region := r, slot := i, lap := x.curLap }
          (s, .ended stOk (versionResult x.curLap x.curLap i))
      else
        let s := s.setBind c { mode := .read, region := r, slot := v.1, lap := lap }
        (s, .ended stOk (versionResult lap x.curLap v.1))

/-- `VR_PUBLISH` at its turn. -/
def State.vrPublishRun (s : State) (id c r : Nat) : State × VrDone :=
  let x : Region := s.region r
  if x.state != .ready then (s, .ended stIndexFault [])
  else match s.bindOf c r with
    | none => (s, .ended stNotOwner [])
    | some (_, b) =>
      match b.mode with
      | .retired => (s, .ended stVersionRetired (versionResult b.lap x.curLap b.slot))
      | .write =>
        if s.publishWaits id c r b.slot then (s, .waits)
        else if b.lap != x.curLap then
          (s.count .vrStat 1, .ended stVersionConflict (versionResult b.lap x.curLap b.slot))
        else
          let s := (State.makeRoom r 64 s).publishSlot r b.slot
          let s := s.setBind c { mode := .read, region := r, slot := b.slot, lap := x.curLap + 1 }
          (s.count .vrStat 0, .ended stOk (versionResult (x.curLap + 1) (x.curLap + 1) b.slot))
      | _ => (s, .ended stNotOwner [])

/-- `VR_RELEASE` at its turn. -/
def State.vrReleaseRun (s : State) (c r : Nat) : State × VrDone :=
  let x : Region := s.region r
  if x.state != .ready then (s, .ended stIndexFault [])
  else match s.bindOf c r with
    | none => (s, .ended stNotOwner [])
    | some (_, b) =>
      let s := s.dropBind c r
      let s := if b.mode = .write then s.endVersion r b.slot else s
      (s, .ended stOk (versionResult 0 x.curLap 0xFF))

/-- The region whose base is at an operand's offset. -/
def State.regionBased (s : State) (o : Nat) : Option Nat :=
  (s.vr.regions.find? fun x => x.2.state != .free && s.regBase x.1 = o).map fun x => x.1

/-- An earlier version command of the same region still waits (R399). -/
def State.versionTurn (s : State) (id gfa : Nat) : Bool :=
  !(s.cmds.any fun c => c.id < id && match c.body with
    | .eng e => e.unit = 6 && (e.opnds.any fun o => o.gfa = gfa)
    | _ => false)

/-- Version commands that wait look again. -/
def State.wakeVersions (s : State) : State :=
  (s.unitCmds 6 0xFF).foldl (fun s c => s.owe (.eng c.id)) s

/-- A command of unit 0x06 (R211 to R217). -/
def State.versionRun (s : State) (id : Nat) (e : Eng) : State :=
  match s.findCmd id with
  | none => s
  | some cmd =>
    let gfa := (e.opnds.getD 0 ⟨0, 0, false, false⟩).gfa
    if !s.versionTurn id gfa then s
    else if gfaDev gfa != s.ownId then (s.endEng id stUnsupported []).wakeVersions
    else match s.regionBased (gfaOff gfa) with
      | none => (s.endEng id stIndexFault []).wakeVersions
      | some r =>
        let (s, d) := match e.op.toNat with
          | 1 => s.vrOpenRun cmd.ctx r e.body
          | 2 => s.vrPublishRun id cmd.ctx r
          | _ => s.vrReleaseRun cmd.ctx r
        match d with
        | .waits => s
        | .ended st pay => ((s.endEng id st pay).retire r).wakeVersions

/-- Versions that lost their last holder retire, and publishes that waited for it look again. -/
def State.retireDue (s : State) : State := s.retireAll.wakeVersions

end Sys2Proof.Machine
end

