-- ==== Sys2Proof/Machine/Hurdles.lean ====
section
/-! DEFINITION. Engine unit control (R404 to R410), the tensor save area (R400), and the Hurdle unit
(R411 to R428). -/

namespace Sys2Proof.Machine

/-! ### Unit control -/

/-- The control register of unit u of quadrant q. -/
def engCtl (u q : Nat) : RegAt :=
  if u ≤ 5 then { reg := .qdEngCtl, inst := q, i := u - 1 } else { reg := .hubEngCtl, i := u - 6 }

/-- quiesce_to in ns (0 acts as 1). -/
def State.quiesceTo (s : State) (u q : Nat) : Nat := max 1 (bits (s.at (engCtl u q)) 55 40) * 10000

/-- QUIESCING or KILLING with nothing in flight: DISABLED, with its event (R404); a unit whose microcode is
reloaded is enabled again (R497). -/
def State.engDisabled (s : State) (u q : Nat) : State :=
  let st := (s.unit u q).state
  if (st = .quiescing || st = .killing) && (s.unitCmds u q).isEmpty then
    let s := (s.setUnit u q fun x => { x with state := .disabled }).event 6
      [BitVec.ofNat 8 u, if u ≤ 5 then BitVec.ofNat 8 q else 0xFF]
    if (s.unit u q).reload then s.setUnit u q fun x => { x with state := .enabled, reload := false } else s
  else s

/-- Entry to KILLING (R404, R406). -/
def State.startKill (s : State) (u q : Nat) : State :=
  (s.setUnit u q fun x => { x with state := .killing }).owe (.kill u q)

/-- A command has not started stage 6: it stands in a queue, or waits for a thread or a program slot (R406). One that
reads its program, or awaits its write-backs, has. -/
def Eng.unbegun (e : Eng) : Bool := !e.started || match e.phase with
  | .noThread _ => true
  | .te p => p.slot.isNone && !p.saved
  | _ => false

/-- Every command of a unit is given its kill status (R40, R406). -/
def State.killUnit (s : State) (u q : Nat) : State :=
  (s.unitCmds u q).foldl (fun s c =>
    (s.setEng c.id fun e => { e with killed := some (e.killed.getD (if e.unbegun then stEngineDisabled else stAborted)) }).owe (.eng c.id)) s

/-- An op written to an engine control register (R404). -/
def State.engOp (s : State) (u q op : Nat) : State :=
  let bad := s.setUnit u q fun x => { x with lastStatus := stUnsupported }
  let st := (s.unit u q).state
  match op with
  | 0 => s
  | 1 =>
    if st = .enabled then
      (s.setUnit u q fun _ => { state := .quiescing, lastStatus := stOk, since := s.now }).engDisabled u q
    else bad
  | 2 =>
    if st = .enabled || st = .quiescing then
      let s := s.setUnit u q fun x => { x with lastStatus := stOk }
      if (s.unitCmds u q).isEmpty then (s.setUnit u q fun x => { x with state := .killing }).engDisabled u q
      else s.startKill u q
    else bad
  | _ => if st = .disabled then s.setUnit u q fun x => { x with state := .enabled, lastStatus := stOk } else bad

def State.engCtlWrite (s : State) (u q : Nat) (v : Word) : State :=
  let a := engCtl u q
  (s.putAt a (storedWrite s a v)).engOp u q (bits v 36 35)

/-- quiesce_to has passed with commands in flight (R404). -/
def State.quiesceExpiry (s : State) (u q : Nat) : State :=
  let x := s.unit u q
  if x.state = .quiescing && s.quiesceTo u q ≤ s.now - x.since && !(s.unitCmds u q).isEmpty then s.startKill u q else s

/-! ### Extents that serve a unit (R359, R395, R400) -/

/-- Quadrant q's register r names extent e and is enabled. -/
def State.servesAs (s : State) (r : Reg) (q e : Nat) : Bool := bit (s.quad q r) 12 && bits (s.quad q r) 11 0 = e

/-- What R359 asks of a scratch extent of quadrant q, but for its length. -/
def State.scratchable (s : State) (q e : Nat) : Bool :=
  s.extState e = .active && s.extTier e = 0 && s.extLocal e && s.extQuad e = q && !s.extCoherent e
    && !s.extLent e && (s.regionsIn e).isEmpty && !s.inPool e && !s.staged e && !s.isFlashMap e
    && !((List.range 4).any fun p => p != q && s.servesAs .seCfg p e)

/-- A write of a register whose bit 12 enables an extent: the number only while it is 0, and the enable
only if `ok`; otherwise it reads back 0. Answers whether last_status changes, and to what. -/
def State.enableWrite (s : State) (a : RegAt) (v : Word) (ok : Nat → Bool) : State × Option Byte :=
  let old := s.at a
  let e := if bit old 12 then bits old 11 0 else bits v 11 0
  let w (b : Nat) : Word := putBits (putBits (storedWrite s a v) 12 12 b) 11 0 e
  if !bit v 12 then (s.putAt a (w 0), none)
  else if ok e then (s.putAt a (w 1), some stOk)
  else (s.putAt a (w 0), some stUnsupported)

/-- A write of QD_CTX_CFG of quadrant q (R400). -/
def State.saveWrite (s : State) (q : Nat) (v : Word) : State :=
  let saved := (s.unitCmds 1 q).any fun c => match c.body with
    | .eng e => (match e.phase with | .te p => p.saved | _ => false)
    | _ => false
  let ok (e : Nat) : Bool := !saved && s.scratchable q e && 269484032 ≤ s.extLen e
    && !s.servesAs .seCfg q e && !s.servesAs .guCfg q e
  match s.enableWrite { reg := .qdCtxCfg, inst := q } v ok with
  | (s, some st) => { s with saveStatus := tset 0 s.saveStatus q st }
  | (s, none) => s

/-! ### Hurdle commands: form (R412 to R414) -/

/-- Body checks of a Hurdle command; `peer` for an HDL_PEER payload, which may hold no signal, addr or
timeout (R421). -/
def hurdleBody (own : Nat) (peer : Bool) (b : List Byte) : Byte :=
  let op := field b 0 1
  let fl := field b 1 1
  let sub := field b 2 1
  let h := field b 4 2
  let count := field b 24 2
  let sig := op = 5 && fl / 2 % 2 = 1
  let rec_ := op = 6 || op = 7
  let okFlags := match op with | 1 => fl ≤ 1 | 5 => fl = 0 || fl = 2 | 6 => fl = 0 || fl = 4 | _ => fl = 0
  let bad := b.length != 32 || !okFlags || !zeroAt b 3 1 || !zeroAt b 26 2
    || (if op = 3 || op = 5 then sub = 0 || 3 < sub else sub != 0)
    || 16383 < h || (op = 1 && h != 0)
    || (if rec_ then !peer && (count = 0 || 16384 < h + count) else count != 0)
    || ((op = 2 || op = 4) && field b 8 8 != 0)
    || (!(sig || rec_) && field b 16 8 != 0)
    || ((op != 5 || sig) && field b 28 4 != 0)
    || (sig && field b 16 8 % 8 != 0)
    || (peer && (sig || field b 16 8 != 0 || field b 28 4 != 0 || field b 6 2 != own))
  let far := op = 3 || op = 4 || op = 5
  if bad then stMalformed
  else if (peer && !far) || (!far && field b 6 2 != own) then stUnsupported
  else stOk

def hurdleForm (own : Nat) : UnitForm where
  sel q k _ := q = 0xFF && k = 0
  op o := 1 ≤ o && o ≤ 7
  body := hurdleBody own false
  operands b :=
    match field b 0 1 with
    | 5 => if field b 1 1 = 2 then [{ addr := field b 16 8, len := 8, wr := true }] else []
    | 6 => [{ addr := field b 16 8, len := field b 8 8, wr := true }]
    | 7 => [{ addr := field b 16 8, len := field b 8 8, rd := true }]
    | _ => []

/-- The precedence of R416. -/
def hurdleOrder : List Byte :=
  [stFenced, stNotOwner, stQuota, stRetry, stMalformed, stIndexFault, stSegmentFault, stPoison, stAborted, stTimeout]

/-- The result of R417. -/
def hurdleResult (h : Nat) (fired : Bool) (n : Nat) (v : Word) : List Byte :=
  leBytes 2 h ++ [if fired then 1 else 0, 0] ++ leBytes 4 n ++ leBytes 8 v.toNat

/-! ### State of the unit -/

def State.hurdle (s : State) (h : Nat) : Hurdle := tget {} s.hdl.hdl h
def State.setHurdle (s : State) (h : Nat) (f : Hurdle → Hurdle) : State :=
  { s with hdl := { s.hdl with hdl := tmod {} s.hdl.hdl h f } }

/-- Hurdles a tenant holds, and its watches: those of its Hurdles here, and those it has forwarded (R421,
R425). -/
def State.hurdlesHeld (s : State) (t : Nat) : Nat := s.hdl.hdl.countP fun x => x.2.alloc && x.2.tenant = t
def State.watchesHeld (s : State) (t : Nat) : Nat :=
  (s.hdl.watches.countP fun w => w.tenant = t)
    + (s.cmds.countP fun c => c.tenant = t && match c.body with
        | .eng e => e.unit = 7 && e.op = 5 && e.phase = .peer
        | _ => false)
    + (s.xp.reqs.countP fun r => match r.2.kind with | .hdlSignal _ t' _ _ => t' = t | _ => false)
    + (s.xp.reqWait.countP fun r => match r.kind with | .hdlSignal _ t' _ _ => t' = t | _ => false)

def State.hdlMax (s : State) (t : Nat) : Nat := bits (s.hub .hubTenQuota t) 14 0
def State.watchMax (s : State) (t : Nat) : Nat := bits (s.hub .hubTenQuota t) 48 32

/-- A watch's condition (R418). -/
def Watch.holds (w : Watch) (v : Word) : Bool := match w.cond with
  | 1 => v = w.target
  | 2 => decide (w.target ≤ v)
  | _ => v != w.target

/-- The notification of one watch (R419). -/
def State.notify (s : State) (w : Watch) (v : Word) : State :=
  match w.to_ with
  | .cmd id => s.endEng id stOk (hurdleResult w.hurdle false 0 v)
  | .signal gfa _ ctx => s.internal .hurdle ctx { kind := .signal, gfa := gfa, len := 8, aop := 1, a := v }

/-- Test every watch on a Hurdle: those that hold fire once, in the order of registration. Answers how
many fired. -/
def State.testWatches (s : State) (h : Nat) : State × Nat :=
  let v := (s.hurdle h).value
  let fired := s.hdl.watches.filter fun w => w.hurdle = h && w.holds v
  let s : State := { s with hdl := { s.hdl with watches := s.hdl.watches.filter fun w => !(w.hurdle = h && w.holds v) } }
  let s := if fired = [] then s else s.count .hubHdlStat 1 fired.length
  (fired.foldl (fun s w => s.notify w v) s, fired.length)

/-- End watches with a status; signal watches just go (R415, R426). -/
def State.endWatches (s : State) (p : Watch → Bool) (st : Byte) : State :=
  let gone := s.hdl.watches.filter p
  let s : State := { s with hdl := { s.hdl with watches := s.hdl.watches.filter fun w => !p w } }
  gone.foldl (fun s w => match w.to_ with
    | .cmd id => (s.count .hubHdlStat 5).endEng id st (hurdleResult w.hurdle false 0 0)
    | .signal _ _ _ => s) s

/-- An update's new value (R415). -/
def hurdleNew (op : Nat) (old v : Word) : Word := match op with
  | 1 => old + v
  | 2 => v
  | _ => if old ≤ v then v else old

/-- A local update: performed, counted, tested. Answers the old value and the watches fired. -/
def State.hurdleUpdate (s : State) (h op : Nat) (v : Word) : State × Word × Nat :=
  let old := (s.hurdle h).value
  let s := (s.setHurdle h fun x => { x with value := hurdleNew op old v }).count .hubHdlStat 0
  let (s, n) := s.testWatches h
  (s, old, n)

/-- R422: a command that completed with OK advances its Hurdle. -/
def State.hurdleAdvance (s : State) (h tenant : Nat) : State :=
  let x := s.hurdle h
  if !x.alloc || x.tenant != tenant || x.faulted || (s.unit 7 0xFF).state != .enabled then s.count .hubHdlStat 4
  else
    let (s, _, n) := s.hurdleUpdate h 1 1
    if 0 < n then s.count .hubHdlStat 2 else s

/-! ### The commands -/

/-- A Hurdle command ends with a condition. -/
def State.hurdleBad (s : State) (id h : Nat) (st : Byte) : State := s.endEng id st (hurdleResult h false 0 0)

/-- The tenant, or a peer, may act on Hurdle h (R411, R416); a faulted one gives POISON (R483). -/
def State.hurdleCheck (s : State) (c : Cmd) (h : Nat) : Byte :=
  let x := s.hurdle h
  let peer : Bool := match c.src with | .msg o => o.gfa | _ => false
  if !x.alloc || (if peer then !x.peerOk else x.tenant != c.tenant) then stNotOwner
  else if x.faulted then stPoison
  else stOk

/-- Register a watch and test it at once. -/
def State.addWatch (s : State) (h cond : Nat) (target : Word) (to_ : WatchTo) (tenant timeout : Nat) : State :=
  let n := s.hdl.regs
  let w : Watch := { n := n, hurdle := h, cond := cond, target := target, to_ := to_, tenant := tenant,
                     since := s.now, timeout := timeout }
  let s : State := { s with hdl := { s.hdl with watches := s.hdl.watches ++ [w], regs := n + 1 } }
  (s.testWatches h).1

/-- `HDL_WATCH` on this device. -/
def State.hurdleWatch (s : State) (id : Nat) (c : Cmd) (e : Eng) : State :=
  let b := e.body
  let h := field b 4 2
  let t := (s.hurdle h).tenant
  if s.watchMax t ≤ s.watchesHeld t then s.hurdleBad id h stQuota
  else if 65536 ≤ s.hdl.watches.length then s.hurdleBad id h stRetry
  else
    let cond := field b 2 1
    let target := BitVec.ofNat 64 (field b 8 8)
    if field b 1 1 = 2 then
      let gfa := (e.opnds.getD 0 ⟨0, 0, false, false⟩).gfa
      let s := s.endEng id stOk (hurdleResult h false 0 0)
      s.addWatch h cond target (.signal gfa (field b 16 8) c.ctx) t 0
    else
      let s := (s.setEng id fun e => { e with phase := .watch s.hdl.regs }).owe (.queue 7 0xFF 0)
      s.addWatch h cond target (.cmd id) t (field b 28 4 * 1000)

/-- Forward a command to the device that holds the Hurdle (R421). A signal watch completes when its message has been
sent. -/
def State.hurdleForward (s : State) (id : Nat) (c : Cmd) (e : Eng) : State :=
  let b := e.body
  let h := field b 4 2
  let dev := field b 6 2
  let watch := e.op = 5
  let hdr : Hdr := { flags := BitVec.ofNat 16 (2 ^ 11), addr := BitVec.ofNat 64 (mkGfa dev 0) }
  let pay := patch (patch (patch b 1 [0]) 16 (leBytes 8 0)) 28 (leBytes 4 0)
  if (tget {} s.fab.members dev).kind != .member then (s.count .fabStat 5).hurdleBad id h stFenced
  else if watch && s.watchMax c.tenant ≤ s.watchesHeld c.tenant then s.hurdleBad id h stQuota
  else
    let s := (s.setEng id fun e => { e with phase := .peer }).owe (.queue 7 0xFF 0)
    s.deviceReq (.hdlPeer id) dev 2 0x54 hdr pay

/-- A forwarded command has been sent: a signal watch completes with OK, and its request goes on without it (R421). -/
def State.hurdleSent (s : State) (id : Nat) : State :=
  match s.findCmd id, s.eng id with
  | some c, some e =>
    if e.op = 5 && field e.body 1 1 = 2 then
      let gfa := (e.opnds.getD 0 ⟨0, 0, false, false⟩).gfa
      let kind : ReqKind := .hdlSignal gfa c.tenant c.ctx s.fab.curEpoch.toNat
      let mine (r : Nat × DevReq) : Nat × DevReq :=
        if r.2.kind = .hdlPeer id then (r.1, { r.2 with kind := kind }) else r
      let s : State := { s with xp := { s.xp with reqs := s.xp.reqs.map mine } }
      s.endEng id stOk (hurdleResult (field e.body 4 2) false 0 0)
    else s
  | _, _ => s

/-- A forwarded update is on its way: it is performed or not at its owner, so a kill awaits its answer (R407). -/
def State.hurdleOut (s : State) (id : Nat) (e : Eng) : Bool :=
  e.unit = 7 && e.op = 3 && s.xp.reqs.any fun r => r.2.kind = .hdlPeer id

/-- The owner's answer to a forwarded command. One that a kill has met keeps the kill status unless the owner performed
it (R407). -/
def State.hurdleAnswer (s : State) (id : Nat) (st : Byte) (data : List Byte) : State :=
  match s.eng id with
  | none => s
  | some e =>
    let fired := field data 2 1 % 2 = 1
    let s := if e.op = 3 && st = stOk && fired then s.count .hubHdlStat 2 else s
    s.endEng id (if st = stOk then st else e.killed.getD st) (if data.length = 16 then data else hurdleResult (field e.body 4 2) false 0 0)

/-- The owner's answer to a forwarded signal watch. -/
def State.signalAnswer (s : State) (gfa ctx : Nat) (st : Byte) (data : List Byte) : State :=
  if st = stOk then
    s.internal .hurdle ctx { kind := .signal, gfa := gfa, len := 8, aop := 1, a := BitVec.ofNat 64 (field data 8 8) }
  else s.count .hubHdlStat 3

/-! ### Records (R426 to R428) -/

/-- The record of Hurdles h to h + n - 1. -/
def State.hurdleRecord (s : State) (h n : Nat) : List Byte :=
  let ws := s.hdl.watches.filter fun w => h ≤ w.hurdle && w.hurdle < h + n &&
    match w.to_ with | .signal _ _ _ => true | .cmd _ => false
  leBytes 2 0x4A7D ++ [1, 0] ++ leBytes 2 h ++ leBytes 2 n ++ leBytes 4 ws.length ++ leBytes 4 0
    ++ (List.range n).flatMap (fun i =>
        let x := s.hurdle (h + i)
        leBytes 8 x.value.toNat
          ++ [BitVec.ofNat 8 ((if x.alloc then 1 else 0) + (if x.peerOk then 2 else 0))] ++ List.replicate 7 0)
    ++ ws.flatMap fun w =>
        leBytes 2 w.hurdle ++ [BitVec.ofNat 8 w.cond] ++ List.replicate 5 0 ++ leBytes 8 w.target.toNat
          ++ (match w.to_ with | .signal _ host _ => leBytes 8 host | .cmd _ => leBytes 8 0) ++ leBytes 8 0

/-- Signal watches of a record. -/
def recordWatches (r : List Byte) : Nat := field r 8 4

/-- Write bytes to an operand as internal requests of at most 4 KiB. -/
def State.engStore (s : State) (id gfa : Nat) (bs : List Byte) : State :=
  (cuts 4096 gfa bs.length).foldl (fun s x =>
    s.engAccess id { kind := .write, gfa := x.1, len := x.2, data := (bs.drop (x.1 - gfa)).take x.2 }) s

/-- `HDL_FREE` of one Hurdle. -/
def State.hurdleFree (s : State) (h : Nat) : State :=
  (s.endWatches (fun w => w.hurdle = h) stAborted).setHurdle h fun _ => {}

/-- `HDL_SAVE`: the snapshot is taken, then written. -/
def State.hurdleSave (s : State) (id : Nat) (c : Cmd) (e : Eng) : State :=
  let b := e.body
  let h := field b 4 2
  let n := field b 24 2
  let own := s.hdl.hdl.filter fun x => h ≤ x.1 && x.1 < h + n && x.2.alloc
  let rec_ := s.hurdleRecord h n
  if e.issued then s
  else if own.any fun x => x.2.tenant != c.tenant then s.hurdleBad id h stNotOwner
  else if field b 8 8 < rec_.length then s.hurdleBad id h stIndexFault
  else if own.any fun x => x.2.faulted then s.hurdleBad id h stPoison
  else
    let s := (s.setEng id fun e =>
      { e with issued := true, payload := hurdleResult h false (recordWatches rec_) 0 }).owe (.queue 7 0xFF 0)
    let s := if field b 1 1 = 4 then own.foldl (fun s x => s.hurdleFree x.1) s else s
    (s.engStore id (e.opnds.getD 0 ⟨0, 0, false, false⟩).gfa rec_).owe (.eng id)

/-- A sector of [gfa, gfa+n) that command `id` has read is poisoned. -/
def State.readBad (s : State) (id gfa n : Nat) : Bool := match s.eng id with
  | some e => e.fetched.any fun x => (List.range 2).any fun k =>
      x.poison.getLsbD k && overlaps gfa n (x.line * 128 + 64 * k) 64
  | none => false

/-- The header of a record is not one of Hurdles h to h + n - 1 (R427). -/
def recordHeadBad (h n : Nat) (r : List Byte) : Bool :=
  field r 0 2 != 0x4A7D || field r 2 1 != 1 || !zeroAt r 3 1 || field r 4 2 != h || field r 6 2 != n || !zeroAt r 12 4

/-- A watch entry of a record is malformed. -/
def recordWatchBad (h n : Nat) (x : List Byte) : Bool :=
  field x 0 2 < h || h + n ≤ field x 0 2 || field x 2 1 = 0 || 3 < field x 2 1 || !zeroAt x 3 5 || !zeroAt x 24 8

/-- The conditions that `HDL_RESTORE` of Hurdles h to h + n - 1 meets with the bytes r of its operand (R411, R416,
R428), and where its watches' signals go. Bytes of poisoned sectors are not data (R160): no condition rests on them. -/
def State.restoreConds (s : State) (id : Nat) (c : Cmd) (h n : Nat) (o : Opnd) (r : List Byte) :
    State × List Byte × List Nat :=
  let there (off k : Nat) : Bool := off + k ≤ r.length && !s.readBad id (o.gfa + off) k
  let head := there 0 16
  let headBad := head && recordHeadBad h n r
  let ok := head && !headBad
  let w := if ok then recordWatches r else 0
  let ent (i : Nat) : List Byte := slice r (16 + 16 * i) 16
  let es := if ok then (List.range n).filter fun i => there (16 + 16 * i) 16 else []
  let ws := ((List.range w).filter fun i => there (16 + 16 * n + 32 * i) 32).map fun i => slice r (16 + 16 * n + 32 * i) 32
  let allocs := es.filter fun i => field (ent i) 8 1 % 2 = 1
  -- every Hurdle of the restore is FREE before, and every watch is on one that the record allocates
  let orphan (x : List Byte) : Bool := es.any fun i => h + i = field x 0 2 && !allocs.contains i
  let c1 := if (List.range n).any (fun i => (s.hurdle (h + i)).alloc) || ws.any orphan then [stNotOwner] else []
  let c2 := if s.hdlMax c.tenant < s.hurdlesHeld c.tenant + allocs.length
      || s.watchMax c.tenant < s.watchesHeld c.tenant + w then [stQuota] else []
  let c3 := if 65536 < s.hdl.watches.length + w then [stRetry] else []
  let c4 := if headBad || es.any (fun i => 4 ≤ field (ent i) 8 1 || !zeroAt (ent i) 9 7) || ws.any (recordWatchBad h n)
    then [stMalformed] else []
  let c5 := if o.len < 16 || (ok && o.len < 16 + 16 * n + 32 * w) then [stIndexFault] else []
  let (s, gs) := ws.foldl (fun (x : State × List (Option Nat)) y =>
    let (s, g) := x.1.translate c.ctx (field y 16 8) 8 { w := true }
    (s, x.2 ++ [g])) (s, [])
  let c6 := if gs.any Option.isNone then [stSegmentFault] else []
  let c7 := if s.readBad id o.gfa r.length then [stPoison] else []
  (s, c1 ++ c2 ++ c3 ++ c4 ++ c5 ++ c6 ++ c7, gs.filterMap fun g => g)

/-- Read what an operand holds of a record: its header, and the rest where the header is sound. -/
def State.readRecord (s : State) (id h n : Nat) (o : Opnd) : State × Option (List Byte) :=
  if o.len < 16 then (s, some [])
  else match s.engRead id o.gfa 16 with
    | (s, none) => (s, none)
    | (s, some (hd, bad)) =>
      if bad || recordHeadBad h n hd then (s, some hd)
      else match s.engRead id o.gfa (min o.len (16 + 16 * n + 32 * recordWatches hd)) with
        | (s, none) => (s, none)
        | (s, some (r, _)) => (s, some r)

/-- `HDL_RESTORE`: all or nothing (R428). -/
def State.hurdleRestore (s : State) (id : Nat) (c : Cmd) (e : Eng) : State :=
  let b := e.body
  let h := field b 4 2
  let n := field b 24 2
  let o := e.opnds.getD 0 ⟨0, 0, false, false⟩
  if (List.range n).any fun i => (s.hurdle (h + i)).alloc then s.hurdleBad id h stNotOwner
  else match s.readRecord id h n o with
    | (s, none) => s
    | (s, some r) =>
      match s.restoreConds id c h n o r with
      | (s, [], gs) =>
        let w := recordWatches r
        let s := (List.range n).foldl (fun s i =>
          let x := slice r (16 + 16 * i) 16
          if field x 8 1 % 2 = 1 then
            s.setHurdle (h + i) fun _ =>
              { alloc := true, peerOk := field x 8 1 / 2 % 2 = 1, tenant := c.tenant, value := BitVec.ofNat 64 (field x 0 8) }
          else s) s
        let s := s.endEng id stOk (hurdleResult h false w 0)
        (List.range w).foldl (fun s i =>
          let x := slice r (16 + 16 * n + 32 * i) 32
          s.addWatch (field x 0 2) (field x 2 1) (BitVec.ofNat 64 (field x 8 8))
            (.signal (gs.getD i 0) (field x 16 8) c.ctx) c.tenant 0) s
      | (s, cs, _) => s.hurdleBad id h (firstByOrder hurdleOrder cs)

/-- A command of unit 0x07 (R415, R416). -/
def State.hurdleRun (s : State) (id : Nat) (e : Eng) : State :=
  match s.findCmd id with
  | none => s
  | some c =>
    let b := e.body
    let h := field b 4 2
    if e.issued then (if e.waits = 0 then s.endEng id stOk e.payload else s)
    else if e.phase = .peer || (match e.phase with | .watch _ => true | _ => false) then s
    else if field b 6 2 != s.ownId then s.hurdleForward id c e
    else match e.op.toNat with
      | 1 =>
        if s.hdlMax c.tenant ≤ s.hurdlesHeld c.tenant then s.hurdleBad id h stQuota
        else match leastBelow 16384 fun i => !(s.hurdle i).alloc with
          | none => s.hurdleBad id h stRetry
          | some i =>
            let v := BitVec.ofNat 64 (field b 8 8)
            let s := s.setHurdle i fun _ => { alloc := true, peerOk := field b 1 1 = 1, tenant := c.tenant, value := v }
            s.endEng id stOk (hurdleResult i false 0 v)
      | 2 =>
        let x := s.hurdle h
        if !x.alloc || x.tenant != c.tenant then s.hurdleBad id h stNotOwner
        else (s.hurdleFree h).endEng id stOk (hurdleResult h false 0 0)
      | 6 => s.hurdleSave id c e
      | 7 => s.hurdleRestore id c e
      | op =>
        let st := s.hurdleCheck c h
        if st != stOk then s.hurdleBad id h st
        else match op with
          | 3 =>
            let peer : Bool := match c.src with | .msg o => o.gfa | _ => false
            let (s, old, n) := s.hurdleUpdate h (field b 2 1) (BitVec.ofNat 64 (field b 8 8))
            let s := if 0 < n && !peer then s.count .hubHdlStat 2 else s
            s.endEng id stOk (hurdleResult h (0 < n) n old)
          | 4 => s.endEng id stOk (hurdleResult h false 0 (s.hurdle h).value)
          | _ => s.hurdleWatch id c e

/-- HDL_PEER received by the owner (R421). -/
def State.hdlPeer (s : State) (f : Frame) : State :=
  let b := f.payload
  s.withRequest 0x54 f { gfaReq := true }
    (fun s n =>
      let st := hurdleBody s.ownId true b
      { bad := gfaOff f.hdr.addr.toNat != 0 || f.hdr.ctx != 0 || f.hdr.opLen != 0 || st = stMalformed
        odd := s.v1 n || f.hdr.cls != 2 || st = stUnsupported })
    (fun s o =>
      if !isPeerSess o.sess then s.sendCpl o stSegmentFault []
      else if (s.unit 7 0xFF).state != .enabled then s.sendCpl o stEngineDisabled []
      else
        let e : Eng := { unit := 7, quad := 0xFF, queue := 0, op := BitVec.ofNat 8 (field b 0 1), body := b }
        (s.accept (.msg o) 0 (.eng e)).1.owe (.queue 7 0xFF 0))

/-- A completion watch whose timeout has passed (R416). -/
def State.watchTimeout (s : State) (id : Nat) : State :=
  match s.hdl.watches.find? fun w => w.to_ = .cmd id with
  | some w => if w.timeout != 0 && w.timeout ≤ s.now - w.since then s.endWatches (fun x => x.n = w.n) stTimeout else s
  | none => s

/-- borrow_to in ns (HUB_BORROW_CFG; below 10 acts as 10). -/
def State.borrowTo (s : State) : Nat := max 10 (bits (s.hub .hubBorrowCfg) 15 0) * 1000

/-- A forwarded command that its owner has not answered in time (R421). -/
def State.hdlPeerTimeout (s : State) (tag : Nat) : State :=
  match s.xp.reqs.find? (·.1 = tag) with
  | some (_, r) =>
    match r.kind with
    | .hdlPeer id =>
      match s.eng id with
      | some e =>
        let t := field e.body 28 4 * 1000
        if e.op = 5 && t = 0 then s
        else if t + s.borrowTo ≤ s.now - r.since then s.endReq tag stTimeout false [] else s
      | none => s
    | _ => s
  | none => s

end Sys2Proof.Machine
end

