-- ==== Sys2Proof/Machine/Tiers.lean ====
section
/-! DEFINITION. The flash tier: START, the staging buffer and NAND, background work (R235 to R247), and
the bounds of tier 1 and borrowed accesses (R234, R242). -/

namespace Sys2Proof.Machine

/-! ### START (R235 to R238) -/

/-- The NAND population is accepted (R235). -/
def popAccepted (p : NandPop) : Bool :=
  p.chOk = BitVec.allOnes 32 && p.pageKib = 16 && 2 ≤ p.spareKib && p.suspend

def State.userCap (s : State) : Nat := bits (s.hub .flsCfg) 31 16

/-- FLS_MAP names an extent that can hold the map (R237). -/
def State.mapOk (s : State) (e cap : Nat) : Bool :=
  s.extState e = .active && s.extTier e = 0 && cap * 2 ^ 26 ≤ s.extLen e && !s.extCoherent e && !s.extLent e
    && (s.regionsIn e).isEmpty && !s.inPool e && !(s.pace.any fun x => x.2.state != .idle && s.inExt e (gfaOff x.2.stage))

/-- Every check of START passes. -/
def State.flashStartOk (s : State) : Bool :=
  let cap := s.userCap
  match s.flash.pop with
  | none => false
  | some p =>
    popAccepted p && cap ≤ min 1536 (p.rawCap * 3 / 4) && s.mapOk (bits (s.hub .flsMap) 11 0) cap
      && (bit (s.hub .flsCfg) 34 || match s.flash.recorded with | none => true | some r => r = cap)

/-- op of FLS_CFG (R238). -/
def State.flashOp (s : State) (op : Nat) : State :=
  let f := s.flash
  let fail (s : State) : State := { s with flash := { s.flash with lastStatus := stUnsupported } }
  match op with
  | 0 => s
  | 1 =>
    if f.state = .off && s.flashStartOk then
      let f := if bit (s.hub .flsCfg) 34 then
          { f with nand := [], blocks := f.blocks.map fun e => (e.1, { e.2 with used := 0, reads := 0 }), open_ := [], credit := [] }
        else f
      { s with flash := { f with state := .starting, lastStatus := stOk, recorded := some s.userCap } }
    else fail s
  | _ => fail s

/-- A write of FLS_CFG: its fields while OFF, then its op. -/
def State.flsCfgWrite (s : State) (v : Word) : State :=
  let a : RegAt := { reg := .flsCfg }
  let s := if s.flash.state = .off then s.putAt a (storedWrite s a v) else s
  s.flashOp (bits v 33 32)

/-! ### Parts that wait at the flash die -/

/-- Stage 6 of a part that waits there runs again, on the runs and the home that stage 4 gave it: no later change of a
table reaches it (R36, R240). -/
def State.flashPart (s : State) (id i : Nat) : State :=
  match (s.acc id).bind fun a => (a.parts[i]?).map fun p => (a, p) with
  | some (a, p) =>
    match p.st with
    | .flash _ rs home =>
      match s.doPart id a p rs home none with
      | (s, .ended r) => s.endPart id i r
      | (s, .waits) => s
    | _ => s
  | none => s

/-- Every waiting part of an access tries again. -/
def State.flashRetry (s : State) (id : Nat) : State :=
  match s.acc id with
  | none => s
  | some a => ((List.range a.parts.length).foldl (fun s i => s.flashPart id i) s).settleAccess id

/-- Parts at the flash die, in the order in which they came: since when, access and part. -/
def State.flashWaiters (s : State) : List (Nat × Nat × Nat) :=
  sortBy (fun a b => a.1 < b.1 || (a.1 = b.1 && a.2.1 < b.2.1)) <| s.cmds.flatMap fun c => match c.acc? with
    | some a => a.parts.zipIdx.filterMap fun x => match x.1.st with
        | .flash t _ _ => some (t, c.id, x.2)
        | _ => none
    | none => []

/-- Every part at the flash die tries again, in order. -/
def State.flashGoOn (s : State) : State :=
  s.flashWaiters.foldl (fun s x => (s.flashPart x.2.1 x.2.2).settleAccess x.2.1) s

/-- Translation pages whose newest bytes NAND does not hold: those in the staging buffer, and those of writes
that stage 4 has placed and that wait at the flash die (R240). -/
def State.flashDirty (s : State) : List Nat :=
  (s.flash.stage.map fun e => e.1) ++ s.cmds.flatMap fun c => match c.acc? with
    | some a =>
      if !a.kind.isWrite then []
      else a.parts.flatMap fun p => match p.st with
        | .flash _ rs _ => rs.filterMap fun r => match r.1 with | .fls o => some (o / 4096) | .hbm _ => none
        | _ => []
    | none => []

/-- Syncs go on that wait for no page any more (R255). -/
def State.syncRefresh (s : State) : State :=
  let left := s.flashDirty
  let s : State := { s with flash := { s.flash with syncs := s.flash.syncs.map fun x => (x.1, x.2.filter left.contains) } }
  s.flash.syncs.foldl (fun s x => if x.2 = [] then s.owe (.eng x.1) else s) s

/-- The map entry of page p in the map extent (R237): `place` counts the 4 KiB places of the channel, block by block
(log 17). -/
def State.putFlashMap (s : State) (p : Nat) (g : FPage) : State :=
  let e := bits (s.hub .flsMap) 11 0
  let place := g.block * s.popOr NandPop.blockPages + g.slot
  let v := (if g.valid then 2 ^ 31 else 0) + (if g.mask = 0 then 0 else 2 ^ 30) + place % 2 ^ 30
  if s.flash.state = .off then s else s.writeRuns (s.runs e (4 * p) 4) (leBytes 4 v) []

/-- The map is rebuilt from the NAND: an entry for every page that it holds, and no other (R238). -/
def State.rebuildMap (s : State) : State :=
  let e := bits (s.hub .flsMap) 11 0
  let s := s.zeroBack e (s.userCap * 2 ^ 26 / (if s.extLocal e then 4 else 16))
  s.flash.nand.foldl (fun s x => if x.2.valid then s.putFlashMap x.1 x.2 else s) s

/-- STARTING ends: READY, with the map rebuilt; or the metadata cannot be read, in STARTING or READY: FAILED (R238). -/
def State.flashStarted (s : State) (metaOk : Bool) : State :=
  match s.flash.state, metaOk with
  | .starting, true =>
    let s := s.rebuildMap
    ({ s with flash := { s.flash with state := .ready } } : State).flashGoOn
  | .starting, false | .ready, false => s.failFlash
  | _, _ => s

/-- 1.45 ms after a part entered stage 6 it completes with TIMEOUT (R242). -/
def State.tier1Timeout (s : State) (id : Nat) : State :=
  match s.acc id with
  | none => s
  | some a =>
    let s := a.parts.zipIdx.foldl (fun s x =>
      match x.1.st with
      | .flash t _ _ => if 1450000 ≤ s.now - t then s.endPart id x.2 { stage := 6, status := stTimeout, data := [] } else s
      | _ => s) s
    (s.settleAccess id).syncRefresh

/-- A forwarded part that its device has not answered within borrow_to (R234, R41). -/
def State.borrowTimeout (s : State) (tag : Nat) : State :=
  match s.xp.reqs.find? (·.1 = tag) with
  | some (_, r) =>
    match r.kind with
    | .fwd _ _ lender =>
      if s.borrowTo ≤ s.now - r.since then
        let s := if lender then
            let s := s.count .hubBorrowStat 1
            { s with xp := { s.xp with late := s.xp.late ++ [(tag, r.sess, r.inc)] } }
          else s
        s.endReq tag stTimeout false []
      else s
    | _ => s
  | none => s

/-! ### NAND (R239, R243 to R247; log 17) -/

/-- Pages whose newest NAND copy stands in block b of channel c. -/
def State.blockValid (s : State) (c b : Nat) : List Nat :=
  (s.flash.nand.filter fun e => e.2.valid && e.1 % 32 = c && e.2.block = b).map fun e => e.1

/-- The block of channel c that takes the next page: its open block, or the free one with the lowest erase
count (R244). -/
def State.openBlock (s : State) (c : Nat) : Option Nat :=
  let cur := (s.flash.open_.find? fun e => e.1 = c).map fun e => e.2
  match cur.filter fun b => (s.block c b).used < s.popOr NandPop.blockPages && !(s.block c b).retired with
  | some b => some b
  | none => (s.freeBlocks c).foldl (fun m b => match m with
      | some x => if (s.block c b).erases < (s.block c x).erases then some b else some x
      | none => some b) none

/-- Program one 4 KiB page into its channel's open block; `none` where the channel has no space. The first place of a
16 KiB NAND page counts it (R235, R263). -/
def State.program (s : State) (p : Nat) (g : FPage) : Option State :=
  let c := p % 32
  match s.openBlock c with
  | none => none
  | some b =>
    let k := (s.block c b).used
    let s : State := { s with flash := { s.flash with open_ := tinsert (terase s.flash.open_ c) c b } }
    let s := s.setBlock c b fun x => { x with used := x.used + 1 }
    let g := { g with valid := true, block := b, slot := k }
    let s : State := { s with flash := { s.flash with nand := tset {} s.flash.nand p g } }
    some (if k % 4 = 0 then (s.putFlashMap p g).count .flsStat 2 else s.putFlashMap p g)

/-- A NAND page is programmed once: what an operation leaves of its open ones stays unused. -/
def State.closePages (s : State) : State :=
  s.flash.open_.foldl (fun s e => s.setBlock e.1 e.2 fun b => { b with used := roundUp b.used 4 }) s

/-- Move the NAND copy of page p to the open block, which reads it; answers whether there was a place. -/
def State.relocate (s : State) (p : Nat) : State × Bool :=
  let g := tget {} s.flash.nand p
  if !g.valid then (s, false)
  else
    let s := s.nandRead p
    match s.program p g with
    | some s => (s, true)
    | none => (s, false)

/-- Move every valid page out of block b of channel c, which takes no more; answers how many moved. -/
def State.moveBlock (s : State) (c b : Nat) : State × Nat :=
  let s : State := { s with flash := { s.flash with open_ := s.flash.open_.filter fun e => !(e.1 = c && e.2 = b) } }
  let s := s.setBlock c b fun x => { x with used := max x.used (s.popOr NandPop.blockPages) }
  let (s, k) := (s.blockValid c b).foldl (fun (x : State × Nat) p =>
    let (s, ok) := x.1.relocate p
    (s, x.2 + if ok then 1 else 0)) (s, 0)
  (s.closePages, k)

/-- Wear of the whole tray: highest and average erase count, and used_pct (FLS_WEAR). -/
def State.wear (s : State) : Nat × Nat × Nat :=
  let es := s.flash.blocks.map fun e => e.2.erases
  let n := 32 * s.popOr NandPop.blocksUsed
  let avg := es.sum / max 1 n
  let o := bits (s.hub .flsCfg) 15 0
  let rated := if o = 0 then s.popOr NandPop.ratedPe else o
  (es.foldl max 0, avg, min 0xFFFF (100 * avg / max 1 rated))

/-- R247: used_pct passes 80 or 100. -/
def State.wearEvents (s : State) : State :=
  let u := s.wear.2.2
  [80, 100].foldl (fun s t =>
    if t < u && !s.flash.wearRaised.contains t then
      ({ s with flash := { s.flash with wearRaised := s.flash.wearRaised ++ [t] } }).event 12 (leBytes 2 t ++ leBytes 2 u)
    else s) s

/-- Erase a block that holds nothing valid. -/
def State.erase (s : State) (c b : Nat) : State :=
  ((s.setBlock c b fun x => { x with erases := x.erases + 1, used := 0, reads := 0 }).count .flsStat 3).wearEvents

/-- R246: the blocks that a channel has left do not hold its share of user_cap and 1 % more. -/
def State.capacityLost (s : State) (c : Nat) : Bool :=
  let bad := (List.range (s.popOr NandPop.blocksUsed)).countP fun b => (s.block c b).retired
  let have_ := (s.popOr NandPop.blocksUsed - bad) * s.popOr NandPop.blockPages * 4096
  have_ * 100 < s.userCap * 2 ^ 36 / 32 * 101

/-- Programmed blocks of channel c that are not open. -/
def State.closedBlocks (s : State) (c : Nat) : List Nat :=
  (List.range (s.popOr NandPop.blocksUsed)).filter fun b =>
    let x := s.block c b
    0 < x.used && !x.retired && !(s.flash.open_.any fun e => e.1 = c && e.2 = b)

/-- The closed block of channel c with the fewest valid pages. -/
def State.gcVictim (s : State) (c : Nat) : Option Nat :=
  (s.closedBlocks c).foldl (fun (m : Option Nat) b => match m with
    | some x => if (s.blockValid c b).length < (s.blockValid c x).length then some b else some x
    | none => some b) none

/-- A block that failed to program or to erase is retired, its data moved (R246). -/
def State.retireBlock (s : State) (c b : Nat) : State :=
  let s := (s.moveBlock c b).1.setBlock c b fun x => { x with retired := true }
  if s.capacityLost c then s.failFlash else s

/-- Garbage collection of one block of channel c (R246). What it frees below gc_crit the buffer may take. -/
def State.flashGc (s : State) (c : Nat) (failed : Bool) : State :=
  if s.flash.state != .ready || bits (s.hub .flsFtl) 23 16 ≤ s.freePm c then s
  else match s.gcVictim c with
    | none => s
    | some b =>
      let (s, k) := s.moveBlock c b
      let s := if k = 0 then s else s.count .flsStat 4 k
      if s.blockValid c b != [] then s
      else if failed then s.retireBlock c b
      else
        let s := s.erase c b
        let freed := if s.gcCritical c then tget 0 s.flash.credit c + (s.popOr NandPop.blockPages - k) else 0
        ({ s with flash := { s.flash with credit := tset 0 s.flash.credit c freed } } : State).flashGoOn

/-- Wear levelling of channel c (R244). -/
def State.wearLevel (s : State) (c : Nat) : State :=
  let all := (List.range (s.popOr NandPop.blocksUsed)).filter fun b => !(s.block c b).retired
  let er (b : Nat) : Nat := (s.block c b).erases
  let hi := all.foldl (fun m b => max m (er b)) 0
  let lo := all.foldl (fun m b => min m (er b)) hi
  if s.flash.state != .ready || hi - lo ≤ bits (s.hub .flsFtl) 63 48 then s
  else match (s.closedBlocks c).find? fun b => er b = lo with
    | none => s
    | some b =>
      let (s, k) := s.moveBlock c b
      let s := if k = 0 then s else s.count .flsStat 6 k
      if (s.blockValid c b) != [] then s else s.erase c b

/-- Page p is found uncorrectable: all its sectors are marked (R239, R245). -/
def State.flashBad (s : State) (p : Nat) : State :=
  let g := { tget {} s.flash.nand p with mask := BitVec.allOnes 64 }
  let s : State := { s with flash := { s.flash with nand := tset {} s.flash.nand p g } }
  let s := (s.putFlashMap p g).count .flsStat 7
  let off := match s.extList.find? fun n => s.extTier n = 1 && s.extState n != .free
      && s.extBack n ≤ p * 4096 && p * 4096 < s.extBack n + s.extLen n with
    | some n => s.extOff n + (p * 4096 - s.extBack n)
    | none => 0
  s.errRecord { type := 5, severity := 1, die := 7, status := stPoison, offset := BitVec.ofNat 64 off }

/-- A patrol read of page p, or its relocation before it degrades; a block read more often than rd_limit allows is
relocated whole, and erased (R245). -/
def State.flashRefresh (s : State) (p : Nat) (patrol correctable : Bool) : State :=
  let g := tget {} s.flash.nand p
  let c := p % 32
  if s.flash.state != .ready || !g.valid then s
  else
    let s := if patrol then s.nandRead p else s
    if !correctable then s.flashBad p
    else if bits (s.hub .flsFtl) 47 32 * 1000 < (s.block c g.block).reads then
      let (s, k) := s.moveBlock c g.block
      let s := if k = 0 then s else s.count .flsStat 5 k
      if (s.blockValid c g.block) != [] then s else s.erase c g.block
    else if patrol then s
    else match s.relocate p with
      | (s, true) => s.closePages.count .flsStat 5
      | (s, false) => s

/-- The flash die programs what the buffer holds, and the map journal (R240, R255). In some channels, which the spec
leaves open, a program fails first: that block is retired (R246, log 17). -/
def State.programDone (s : State) : State :=
  if s.flash.state != .ready then s
  else
    let (s, d) : State × Nat := if s.flash.stage = [] then (s, 0) else s.draw
    let failed := Config.programFails d
    let bad := (List.range 32).filter fun c => failed.getLsbD c && s.flash.stage.any fun e => e.1 % 32 = c
    let s := bad.foldl (fun s c => match s.openBlock c with
      | some b => s.retireBlock c b
      | none => s) s
    if s.flash.state != .ready then s
    else
      let s := s.flash.stage.foldl (fun s e =>
        match s.program e.1 e.2 with
        | some s => { s with flash := { s.flash with stage := terase s.flash.stage e.1 } }
        | none => s) s
      s.closePages.flashGoOn.syncRefresh

end Sys2Proof.Machine
end

