-- ==== Sys2Proof/Machine/Pacer.lean ====
section
/-! DEFINITION. The Pacer, unit 0x05: streams, TILE_MOVE, PACE_STOP and FLASH_SYNC (R249 to R262). -/

namespace Sys2Proof.Machine

/-- The form of a Pacer command (R249 to R252). -/
def pacerForm : UnitForm where
  sel q k op := q < 4 && k < 16 && (if op = 1 || op = 2 then k < 8 else 8 ≤ k)
  op o := 1 ≤ o && o ≤ 4
  body b :=
    let t (off : Nat) : Bool := field b off 8 % 65536 != 0
    let bad := match field b 0 1 with
      | 1 =>
        let slots := field b 48 8 / 65536
        b.length != 64 || !zeroAt b 1 1 || !zeroAt b 56 8 || field b 2 2 = 0 || slots < field b 2 2
          || field b 16 8 % 16 != 0 || field b 16 8 < 16 || 65536 < field b 16 8
          || t 24 || t 32 || field b 32 8 = 0 || t 40 || t 48 || field b 48 8 < 131072 || 2 ^ 28 < field b 48 8
      | 3 =>
        b.length != 32 || !zeroAt b 1 3 || !zeroAt b 24 8 || field b 4 4 = 0 || 2 ^ 24 < field b 4 4 || t 8 || t 16
      | _ => b.length != 32 || !zeroAt b 1 31
    if bad then stMalformed else stOk
  operands b :=
    match field b 0 1 with
    | 1 => [{ addr := field b 8 8, len := field b 16 8, rd := true }, { addr := field b 24 8, len := field b 32 8, rd := true },
            { addr := field b 40 8, len := field b 48 8, wr := true }]
    | 3 => [{ addr := field b 8 8, len := field b 4 4 * 65536, rd := true },
            { addr := field b 16 8, len := field b 4 4 * 65536, wr := true }]
    | _ => []

/-! ### Streams -/

def State.stream (s : State) (q k : Nat) : Stream := tget {} s.pace (8 * q + k)
def State.setStream (s : State) (q k : Nat) (f : Stream → Stream) : State :=
  { s with pace := tmod {} s.pace (8 * q + k) f }

/-- Tiles of one pass. -/
def Stream.perPass (x : Stream) : Nat := (x.sched.map fun e => e.2).sum
/-- loops, of the PACE_START; 0 repeats (R250). -/
def Stream.beyond (x : Stream) (t : Nat) : Bool := x.loops != 0 && x.perPass * x.loops ≤ t

/-- Offset in the source of the i-th tile of a pass. -/
def tileOff : List (Nat × Nat) → Nat → Nat
  | [], _ => 0
  | (o, n) :: es, i => if i < n then o + i * 65536 else tileOff es (i - n)

/-- A stream enters ENDING with the statuses of its command and of its consumers (R262); a later kill
replaces them (R40). -/
def State.streamEnd (s : State) (q k : Nat) (st cons : Byte) : State :=
  let x := s.stream q k
  match x.state with
  | .running | .draining =>
    (s.setStream q k fun x => { x with state := .ending, endStatus := st, consStatus := cons }).owe (.streamWake q k)
  | .ending => if st = stAborted && cons = stAborted then s.setStream q k fun x => { x with endStatus := st, consStatus := cons } else s
  | .idle => s

/-- The staging range of a PACE_START may serve (R257). -/
def State.stageOk (s : State) (q gfa len : Nat) : Bool :=
  gfaDev gfa = s.ownId && match s.findExt (gfaOff gfa) with
    | none => false
    | some e =>
      gfaOff gfa + len ≤ s.extOff e + s.extLen e && s.extTier e = 0 && s.extLocal e && s.extQuad e = q
        && !s.extCoherent e && !s.extLent e && (s.regionsIn e).isEmpty && !s.inPool e && !s.isFlashMap e

/-- The entries of a schedule up to its end (R256). -/
def schedEntries : Nat → List Byte → List (List Byte)
  | 0, _ => []
  | n + 1, b => let e := b.take 16; if field e 14 1 % 2 = 1 then [e] else e :: schedEntries n (b.drop 16)

/-- The `PACE_START` commands of queue k, oldest first. -/
def State.starts (s : State) (q k : Nat) : List Nat :=
  (s.unitCmds 5 q).filterMap fun c => match c.body with
    | .eng e => if e.queue = k && e.op = 1 then some c.id else none
    | _ => none

/-- A `PACE_START` that never ran ends; the next one looks again (R257). -/
def State.startFails (s : State) (id q k : Nat) (st : Byte) : State :=
  let s := s.endEng id st []
  (s.starts q k).foldl (fun s i => s.owe (.eng i)) s

/-- `PACE_START` before its stream runs (R257): it waits for the stream, and for the starts before it in its queue
(R141). -/
def State.paceBegin (s : State) (id : Nat) (e : Eng) : State :=
  let q := e.quad
  let k := e.queue
  let op (i : Nat) : Opnd := e.opnds.getD i ⟨0, 0, false, false⟩
  if (s.stream q k).state != .idle || (s.starts q k).any (· < id) then s
  else if !s.stageOk q (op 2).gfa (op 2).len then s.startFails id q k stUnsupported
  else match s.engRead id (op 0).gfa (op 0).len with
    | (s, none) => s
    | (s, some (b, bad)) =>
      let es := schedEntries ((op 0).len / 16) b
      let odd := es.any fun x => (op 1).len < field x 0 8 + field x 8 4 * 65536 || field x 0 8 % 65536 != 0
        || field x 8 4 = 0 || 2 ≤ field x 14 1 || !zeroAt x 15 1
      if bad then s.startFails id q k stPoison
      else if odd then s.startFails id q k stIndexFault
      else
        let x : Stream :=
          { state := .running, lastStatus := (s.stream q k).lastStatus, sched := es.map fun x => (field x 0 8, field x 8 4),
            loops := field e.body 4 4, lead := field e.body 2 2, slots := (op 2).len / 65536, src := (op 1).gfa,
            stage := (op 2).gfa, cmd := id }
        (s.setStream q k fun _ => x).setEng id fun e => { e with phase := .stream, fetched := [] }

/-- max_inflight and late_to of QD_PACE_CFG. -/
def State.maxInflight (s : State) (q : Nat) : Nat := min 64 (max 1 (bits (s.quad q .qdPaceCfg) 31 24))
def State.lateTo (s : State) (q : Nat) : Nat := max 1 (bits (s.quad q .qdPaceCfg) 15 0) * 10000

/-- A stream issues the fetch of its next tile (R258). -/
def State.paceFetch (s : State) (q k : Nat) : State :=
  let x := s.stream q k
  let t := x.nextFetch
  if x.state != .running || x.head + x.lead ≤ t || s.maxInflight q ≤ x.inflight.length || x.beyond t then s
  else
    let src := x.src + tileOff x.sched (t % max 1 x.perPass)
    let ctx := match s.findCmd x.cmd with | some c => c.ctx | none => 0
    -- the fetch of the last tile of the last pass is issued: DRAINING (R262)
    let s := s.setStream q k fun x =>
      { x with nextFetch := t + 1, inflight := x.inflight ++ [(t, 16)]
               state := if x.beyond (t + 1) then .draining else .running }
    (List.range 16).foldl (fun s p =>
      s.internal (.tile q k t p false) ctx { kind := .read, gfa := src + p * 4096, len := 4096 }) s

/-- One page less is outstanding of tile t. -/
def Stream.pageDone (x : Stream) (t : Nat) : Stream :=
  { x with inflight := x.inflight.map fun e => if e.1 = t then (t, e.2 - 1) else e }

/-- A page of a tile has been read or written (R258, R261, R262). -/
def State.tilePage (s : State) (q k t p : Nat) (wr : Bool) (st : Byte) (data : List Byte) (marks : List Nat) : State :=
  let x := s.stream q k
  let drop (s : State) : State := s.setStream q k fun x => x.pageDone t
  match x.state with
  | .idle => s
  | .ending => drop s
  | _ =>
    if wr then
      if st = stOk then drop s else (drop s).streamEnd q k st st
    else if st = stOk || st = stPoison then
      let ctx := match s.findCmd x.cmd with | some c => c.ctx | none => 0
      s.internal (.tile q k t p true) ctx
        { kind := .write, gfa := x.stage + t % max 1 x.slots * 65536 + p * 4096, len := 4096, data := data, marks := marks }
    else (drop s).streamEnd q k st st

/-- Drop the lines of a tile from its own quadrant's engine cache (R253). -/
def State.dropTile (s : State) (q gfa : Nat) : State :=
  { s with cache := { s.cache with ec := s.cache.ec.filter fun e =>
    !(e.1.1 = q && gfa ≤ e.1.2 * 128 && e.1.2 * 128 < gfa + 65536) } }

/-- All sixteen reads and writes of tile t have been performed (R258). -/
def State.tileStaged (s : State) (q k t : Nat) : State :=
  let x := s.stream q k
  if (x.state = .running || x.state = .draining) && x.inflight.contains (t, 0) then
    let s := s.dropTile q (x.stage + t % max 1 x.slots * 65536)
    let s := s.setStream q k fun x => { x with inflight := x.inflight.filter (·.1 != t), staged := x.staged ++ [t] }
    (s.countQ q .qdPaceStat 0).owe (.streamWake q k)
  else s

/-! ### Consumers (R259, R260) -/

inductive Tile where
  | fault (st : Byte)
  | ready
  | waits
deriving DecidableEq, Repr

/-- Tile t of stream k, as a consumer of quadrant q meets it. -/
def State.tileState (s : State) (q k t : Nat) : Tile :=
  let x := s.stream q k
  match x.state with
  | .ending => .fault x.consStatus
  | .idle => .fault stIndexFault
  | _ =>
    if t < x.head || x.head + x.slots ≤ t || x.beyond t then .fault stIndexFault
    else if x.staged.contains t then .ready
    else .waits

/-- GFA of tile t in its slot. -/
def State.tileGfa (s : State) (q k t : Nat) : Nat := (s.stream q k).stage + t % max 1 (s.stream q k).slots * 65536

/-- The head passes every released tile. -/
def advanceHead (rel : List Nat) : Nat → Nat → Nat
  | 0, h => h
  | n + 1, h => if rel.contains h then advanceHead rel n (h + 1) else h

/-- A consumer releases tile t. -/
def State.releaseTile (s : State) (q k t : Nat) : State :=
  s.setStream q k fun x =>
    if t < x.head || x.released.contains t then x
    else
      let rel := x.released ++ [t]
      let h := advanceHead rel rel.length x.head
      { x with head := h, released := rel.filter (h ≤ ·), staged := x.staged.filter (h ≤ ·) }

/-- A consumer stops waiting: its wait is counted (R260). -/
def State.waitOver (s : State) (q since : Nat) : State :=
  (s.countQ q .qdPaceStat 1).countQ q .qdPaceStat 2 (s.now - since)

/-! ### Ends -/

/-- Stream k's PACE_STOP commands that wait for IDLE. -/
def State.stops (s : State) (q k : Nat) : List Nat :=
  (s.unitCmds 5 q).filterMap fun c => match c.body with
    | .eng e => if e.queue = k && e.op = 2 && e.phase = .stream then some c.id else none
    | _ => none

/-- A DRAINING stream whose tiles are all staged and released, or an ENDING one with nothing in flight,
enters IDLE (R262). -/
def State.streamIdle (s : State) (q k : Nat) : State :=
  let x := s.stream q k
  let done := match x.state with
    | .draining => x.inflight = [] && x.beyond x.head
    | .ending => x.inflight.all fun e => e.2 = 0
    | _ => false
  if !done then s
  else
    let st := if x.state = .draining then stOk else x.endStatus
    let s := s.setStream q k fun _ => { lastStatus := st }
    let s := s.endEng x.cmd st []
    let s := (s.stops q k).foldl (fun s id => s.endEng id stOk []) s
    (s.starts q k).foldl (fun s i => s.owe (.eng i)) (s.owe (.streamWake q k))

/-- `PACE_STOP` (R262). -/
def State.paceStopRun (s : State) (id : Nat) (e : Eng) : State :=
  if e.phase = .stream then s
  else match (s.stream e.quad e.queue).state with
    | .idle => s.endEng id stOk []
    | _ => (s.streamEnd e.quad e.queue stOk stAborted).setEng id fun e => { e with phase := .stream }

/-! ### TILE_MOVE and FLASH_SYNC -/

/-- One page fetched for a move. -/
def Eng.page (e : Eng) (gfa : Nat) : Option Fetched :=
  e.fetched.find? fun x => x.line = gfa / 128 && x.data.length = 4096

/-- Marks as sector numbers. -/
def Fetched.marks (x : Fetched) : List Nat := (List.range (x.data.length / 64)).filter fun i => x.poison.getLsbD i

/-- `TILE_MOVE` at its next tile (R254): its sixteen pages are read, then written. -/
def State.moveRun (s : State) (id : Nat) (e : Eng) : State :=
  let op (i : Nat) : Opnd := e.opnds.getD i ⟨0, 0, false, false⟩
  let n := field e.body 4 4
  let src := (op 0).gfa
  let dst := (op 1).gfa
  let (i, pz) := match e.phase with | .move i p => (i, p) | _ => (0, false)
  let pages (g : Nat) : List Nat := (List.range 16).map fun p => g + i * 65536 + p * 4096
  if e.waits != 0 then s
  else if overlaps src (op 0).len dst (op 1).len then s.endEng id stUnsupported []
  else if n ≤ i then s.endEng id (if pz then stPoison else stOk) []
  else if e.issued then
    let s := s.dropTile e.quad (dst + i * 65536)
    let s := s.setEng id fun e => { e with issued := false, fetched := [], phase := .move (i + 1) pz }
    s.owe (.eng id)
  else
    let got := (pages src).filterMap e.page
    if got.length = 16 then
      let bad := pz || got.any fun x => x.marks != []
      let s := s.setEng id fun e => { e with issued := true, phase := .move i bad }
      let s := (got.zip (pages dst)).foldl (fun s x =>
        s.engAccess id { kind := .write, gfa := x.2, len := 4096, data := x.1.data, marks := x.1.marks }) s
      s.owe (.eng id)
    else
      (pages src).foldl (fun s g => s.engAccess id { kind := .read, gfa := g, len := 4096 }) s

/-- `FLASH_SYNC` (R255): it waits for the pages that were dirty when it was accepted. -/
def State.syncRun (s : State) (id : Nat) : State :=
  let forget (s : State) : State := { s with flash := { s.flash with syncs := s.flash.syncs.filter (·.1 != id) } }
  if s.flash.state != .ready then (forget s).endEng id stTimeout []
  else match s.flash.syncs.find? (·.1 = id) with
    | some (_, _ :: _) => s
    | _ => (forget s).endEng id stOk []

/-- A command of unit 0x05. -/
def State.pacerRun (s : State) (id : Nat) (e : Eng) : State :=
  match e.op.toNat with
  | 1 => if e.phase = .stream then s else s.paceBegin id e
  | 2 => s.paceStopRun id e
  | 3 => s.moveRun id e
  | _ => s.syncRun id

/-- A Pacer command stops with a status: a running stream ends first (R262, R408). -/
def State.pacerStop (s : State) (id : Nat) (e : Eng) (st : Byte) : State :=
  if e.op = 1 && e.phase = .stream then s.streamEnd e.quad e.queue st st
  else if e.op = 1 then s.startFails id e.quad e.queue st
  else
    let s : State := { s with flash := { s.flash with syncs := s.flash.syncs.filter (·.1 != id) } }
    s.endEng id st []

end Sys2Proof.Machine
end

