-- ==== Sys2Proof/Machine/Views.lean ====
section
/-! DEFINITION. Tensor workspaces and the views into them (R277, R278, R269), and the tensor programs of a
quadrant. -/

namespace Sys2Proof.Machine

/-- Bytes of a workspace (R277). -/
abbrev wsSize : Nat := 16777216

/-- A view (R277). -/
structure View where
  off : Nat
  stride : Nat
  rows : Nat
  cols : Nat
  fmt : Nat
  ts : Nat
deriving DecidableEq, Repr

/-- The view at byte o of a program entry. -/
def viewAt (b : List Byte) (o : Nat) : View :=
  { off := field b o 4, stride := field b (o + 4) 4, rows := field b (o + 8) 2, cols := field b (o + 10) 2,
    fmt := field b (o + 12) 1, ts := field b (o + 16) 4 }

/-- A tscale: finite, positive and normal for fmt 0x04 and 0x05, 0 otherwise (R271). -/
def tscaleOk (fmt ts : Nat) : Bool :=
  if fmt = 4 || fmt = 5 then 0x00800000 ≤ ts && ts < 0x7F800000 else ts = 0

def View.rowSize (v : View) : Nat := Machine.rowSize v.fmt v.cols
def View.rowOff (v : View) (r : Nat) : Nat := v.off + r * v.stride

/-- The view at byte o is well formed and lies within the workspace (R277, R278). -/
def viewOk (b : List Byte) (o : Nat) : Bool :=
  let v := viewAt b o
  zeroAt b (o + 13) 3 && 1 ≤ v.fmt && v.fmt ≤ 10 && tscaleOk v.fmt v.ts && v.off % 64 = 0 && v.stride % 64 = 0
    && v.rowSize ≤ v.stride && 1 ≤ v.rows && v.rows ≤ 256 && 1 ≤ v.cols && v.cols ≤ 32768
    && (groupOf v.fmt = 0 || v.cols % groupOf v.fmt = 0)
    && v.rowOff (v.rows - 1) + v.rowSize ≤ wsSize

/-- Two views share a byte of some row (log 28). -/
def View.meets (v w : View) : Bool :=
  (List.range v.rows).any fun i => (List.range w.rows).any fun j => overlaps (v.rowOff i) v.rowSize (w.rowOff j) w.rowSize

/-- Two views are the same bytes or disjoint (R286). -/
def View.sameOrApart (v w : View) : Bool :=
  (v.off = w.off && v.rows = w.rows && v.rowSize = w.rowSize && (v.stride = w.stride || v.rows = 1)) || !v.meets w

/-! ### Workspaces -/

def wsKey (q slot off : Nat) : Nat := (2 * q + slot) * wsSize + off

def State.wsRead (s : State) (q slot off n : Nat) : List Byte :=
  (List.range n).map fun i => tget 0 s.te.ws (wsKey q slot (off + i))

def State.wsWrite (s : State) (q slot off : Nat) (bs : List Byte) : State :=
  { s with te := { s.te with ws := bs.zipIdx.foldl (fun t b => tset 0 t (wsKey q slot (off + b.2)) b.1) s.te.ws } }

/-- Clear a workspace (R276). -/
def State.wsClear (s : State) (q slot : Nat) : State :=
  { s with te := { s.te with ws := s.te.ws.filter fun e => e.1 / wsSize != 2 * q + slot } }

/-! ### Programs -/

def Eng.prog? (e : Eng) : Option TeProg := match e.phase with | .te p => some p | _ => none

def State.setTe (s : State) (id : Nat) (f : TeProg → TeProg) : State :=
  s.setEng id fun e => match e.phase with | .te p => { e with phase := .te (f p) } | _ => e

/-- Values of row r of a view, each with its scale; tscale as well (R269). -/
def State.viewVals (s : State) (q slot : Nat) (v : View) (r : Nat) : List Fl :=
  let xs := rowVals v.fmt v.cols (s.wsRead q slot (v.rowOff r) v.rowSize)
  if v.fmt = 4 || v.fmt = 5 then xs.map fun x => x.mul (ofF32 v.ts) else xs

/-- Write bytes at an offset of a program's workspace; the highest byte written is kept (R302). -/
def State.progWrite (s : State) (id q slot off : Nat) (bs : List Byte) : State :=
  (s.wsWrite q slot off bs).setTe id fun p => { p with high := max p.high (off + bs.length) }

/-- Values into row r of a view, converted (R293). -/
def State.putView (s : State) (id q slot : Nat) (v : View) (r : Nat) (y : Rounding) (xs : List Fl) : State :=
  s.progWrite id q slot (v.rowOff r) (putRow v.fmt v.ts y r 0 xs)

/-- Flag i of a program entry (R279). -/
def entFlag (b : List Byte) (i : Nat) : Bool := field b 1 1 / 2 ^ i % 2 = 1

/-- How entry k of a program rounds what it writes (R293, R294). -/
def entRounding (e : Eng) (k : Nat) (b : List Byte) : Rounding :=
  { sr := if entFlag b 2 then some (BitVec.ofNat 64 (field e.body 8 8), k) else none, sat := entFlag b 3 }

end Sys2Proof.Machine
end

