-- ==== Sys2Proof/Machine/Attend.lean ====
section
/-! DEFINITION. Lanes, their cache areas (R304, R305, R315), and attention rows (R316 to R321). -/

namespace Sys2Proof.Machine

/-! ### Lanes -/

def State.lane (s : State) (l : Nat) : Lane := tget {} s.lanes l
def State.setLane (s : State) (l : Nat) (f : Lane → Lane) : State := { s with lanes := tmod {} s.lanes l f }

/-- R305. -/
def LaneState.code : LaneState → Nat
  | .free => 0 | .armed => 1 | .receiving => 2 | .held => 3 | .offered => 4 | .taken => 5 | .released => 6 | .lost => 7

/-- Fields of the configuration, bytes 2 to 19 of SQ_OPEN (R308). -/
def Lane.fmt (x : Lane) : Nat := field x.config 0 1
def Lane.layers (x : Lane) : Nat := field x.config 2 2
def Lane.nq (x : Lane) : Nat := field x.config 4 1
def Lane.nkv (x : Lane) : Nat := field x.config 5 1
def Lane.dim (x : Lane) : Nat := field x.config 6 2
def Lane.window (x : Lane) : Nat := field x.config 10 4
/-- The score scale in use; 0 means rsqrt(D). -/
def Lane.scale (x : Lane) : Nat :=
  let c := field x.config 14 4
  if c = 0 then toF32 (Fl.ofNat x.dim).rsqrt else c

/-- R315. -/
def Lane.vecBytes (x : Lane) : Nat := rowSize x.fmt x.dim
def Lane.planeBytes (x : Lane) : Nat := roundUp (x.cap * x.vecBytes) 4096
def Lane.vecOff (x : Lane) (c g k p : Nat) : Nat :=
  x.base + ((c * x.nkv + g) * 2 + k) * x.planeBytes + p * x.vecBytes

/-- Stage 3 refuses the accesses to a cache area (R306): its extent is not ACTIVE any more, or serves the device, as one
attached as a pool does (R220). -/
def State.laneShut (s : State) (x : Lane) : Bool := match s.findExt x.base with
  | some e => s.closedExt e || s.extLent e
  | none => true

/-- Where n bytes of a cache area stand. -/
def State.laneRuns (s : State) (off n : Nat) : List (Loc × Nat × Nat) :=
  match s.findExt off with
  | some e => if n = 0 then [] else s.runs e (off - s.extOff e) n
  | none => []

/-! ### Arithmetic of a row (R319) -/

/-- dot of R319: q with a stored key. -/
def kvDot (fmt dim : Nat) (q : List Fl) (key : List Byte) : Fl :=
  let es := rowElems fmt dim key
  let ss := rowScales fmt dim key
  fsum ((List.range (dim / 32)).map fun b =>
    let t := exactSum ((List.range 32).map fun i => (q.getD (32 * b + i) .nan).mul (es.getD (32 * b + i) .nan))
    (t.mul (if groupOf fmt = 0 then .one else ss.getD b .nan)).f32)

/-- One block of at most 256 positions: scores and values. -/
def attendBlock (st : Fl × Fl × List Fl) (blk : List (Fl × List Fl)) : Fl × Fl × List Fl :=
  let (m, l, o) := st
  let mn := blk.foldl (fun a x => a.max x.1) m
  let a := ((m.sub mn).f32).exp
  let l := (l.mul a).f32
  let o := o.map fun x => (x.mul a).f32
  let (l, o) := blk.foldl (fun (y : Fl × List Fl) x =>
    let w := ((x.1.sub mn).f32).exp
    ((y.1.add w).f32, (y.2.zip x.2).map fun z => (z.1.add (w.mul z.2).f32).f32)) (l, o)
  (mn, l, o)

/-- One head over positions in order. -/
def attendHead (dim : Nat) (pos : List (Fl × List Fl)) : List Fl :=
  if pos.isEmpty then List.replicate dim .zero
  else
    let (_, l, o) := (chunksOf 256 (pos.length / 256 + 1) pos).foldl attendBlock (.inf true, .zero, List.replicate dim .zero)
    o.map fun x => (x.mul l.recip).f32

/-- The stored vectors of kind k, KV head g, at positions lo to len - 1 of layer c, and whether a sector is
poisoned. -/
def State.laneVecs (s : State) (x : Lane) (c g k lo : Nat) : State × List (List Byte) × Bool :=
  let n := x.len - lo
  let (s, bs, bad) := s.readRuns (s.laneRuns (x.vecOff c g k lo) (n * x.vecBytes))
  (s, (List.range n).map fun i => slice bs (i * x.vecBytes) x.vecBytes, bad)

/-- What a row gives: its outputs, the vectors it appends (offset, bytes), and a poisoned sector. -/
structure RowOut where
  out : List Fl
  new : List (Nat × List Byte)
  bad : Bool

/-- One attention row on a Lane (R319). -/
def State.attendRow (s : State) (x : Lane) (append : Bool) (y : Rounding) (row : Nat) (v : List Fl) : State × RowOut :=
  let d := x.dim
  let c := x.cursor
  let n := if append then x.len + 1 else x.len
  let lo := if x.window = 0 then 0 else n - x.window
  let part (i : Nat) : List Fl := (v.drop (i * d)).take d
  -- the vectors of head g and kind k that this row appends (R316)
  let newVec (g k : Nat) : List Byte := putRow x.fmt 0 y row ((x.nq + k * x.nkv + g) * d) (part (x.nq + k * x.nkv + g))
  let (s, heads, bad) := (List.range x.nkv).foldl
    (fun (a : State × List (List (List Byte) × List (List Byte)) × Bool) g =>
      let (s, ks, b1) := a.1.laneVecs x c g 0 lo
      let (s, vs, b2) := s.laneVecs x c g 1 lo
      let ks := if append then ks ++ [newVec g 0] else ks
      let vs := if append then vs ++ [newVec g 1] else vs
      (s, a.2.1 ++ [(ks, vs)], a.2.2 || b1 || b2)) (s, [], false)
  let sc := ofF32 x.scale
  let out := (List.range x.nq).flatMap fun h =>
    let kv := heads.getD (h / max 1 (x.nq / max 1 x.nkv)) ([], [])
    attendHead d ((kv.1.zip kv.2).map fun p => (((kvDot x.fmt d (part h) p.1).mul sc).f32, rowVals x.fmt d p.2))
  let new := if append then (List.range x.nkv).flatMap fun g =>
      [(x.vecOff c g 0 x.len, newVec g 0), (x.vecOff c g 1 x.len, newVec g 1)] else []
  (s, { out := out, new := new, bad := bad })

/-! ### Rows of an entry (R317, R318, R321) -/

/-- Statuses that a row meets at once (R318). -/
def rowConds (x : Lane) (ctx inCols outCols : Nat) (append : Bool) : List Byte :=
  let own := match x.state with | .free | .armed | .receiving | .released => false | _ => true
  let shape := inCols = (x.nq + 2 * x.nkv) * x.dim && outCols = x.nq * x.dim
  (if !own || x.ctx != ctx then [stNotOwner] else [])
    ++ (if x.state = .lost then [stStateLost] else [])
    ++ (if own && x.state != .lost && (!shape || (x.cursor != 0 && append != x.append)) then [stMalformed] else [])
    ++ (if x.state = .held && append && x.len = x.cap then [stIndexFault] else [])

/-- Run row r of the current TE_ATTEND entry of program `id` on its Lane: whether the rows behind it may
go on, and what it met. -/
def State.rowRun (s : State) (id : Nat) (c : Cmd) (e : Eng) (p : TeProg) (b : List Byte) (r : Nat) : State × Bool × List Byte :=
  let slot := p.slot.getD 0
  let vin := viewAt b 4
  let vout := viewAt b 24
  let l := p.lanes.getD r 0
  let x := s.lane l
  let append := field b 44 1 % 2 = 1
  let y := entRounding e p.next b
  match rowConds x c.ctx vin.cols vout.cols append with
  | st :: sts => (s, false, st :: sts)
  | [] =>
    if x.state != .held then
      (s.setTe id fun p => if p.rowWait.any (·.1 = r) then p else { p with rowWait := p.rowWait ++ [(r, s.now)] }, false, [])
    else if s.laneShut x then (s, false, [stExtentRevoked])
    else
      let (s, o) := s.attendRow x append y r (s.viewVals e.quad slot vin r)
      if o.bad then (s, false, [stPoison])
      else
        let s := o.new.foldl (fun s w => s.writeRuns (s.laneRuns w.1 w.2.length) w.2 []) s
        let cur := (x.cursor + 1) % max 1 x.layers
        let s := s.setLane l fun x =>
          { x with cursor := cur, append := if x.cursor = 0 then append else x.append
                   len := if cur = 0 && append then x.len + 1 else x.len }
        let seen := if append then x.len + 1 else x.len
        let vis := if x.window = 0 then seen else min seen x.window
        let s := (s.countQ (l / 64) .sqStat 0).countQ (l / 64) .sqStat 1 (2 * x.nkv * vis)
        let s := s.putView id e.quad slot vout r y o.out
        (s.setTe id fun p => { p with rowsDone := p.rowsDone ++ [r], rowWait := p.rowWait.filter (·.1 != r) }, true, [])

/-- The rows that quadrant q serves, in ascending order, until one waits or meets a condition. -/
def State.rowsOf (s : State) (id : Nat) (c : Cmd) (e : Eng) (b : List Byte) (q : Nat) (rows : List Nat) : State × List Byte :=
  let go := rows.foldl (fun (a : State × Bool × List Byte) r =>
    match (a.1.eng id).bind Eng.prog? with
    | none => a
    | some p =>
      if !a.2.1 || p.lanes.getD r 0 / 64 != q || p.rowsDone.contains r then a
      else
        let (s, on, cs) := a.1.rowRun id c e p b r
        (s, on, a.2.2 ++ cs)) (s, true, [])
  (go.1, go.2.2)

/-- A `TE_ATTEND` entry as far as it goes now: the conditions met, and whether every row has completed. -/
def State.attendRun (s : State) (id : Nat) (c : Cmd) (e : Eng) (p : TeProg) (b : List Byte) : State × List Byte × Bool :=
  let rows := List.range (viewAt b 4).rows
  if (p.lanes.any fun l => 256 ≤ l) || !p.lanes.Nodup then (s, [stMalformed], false)
  else
    let (s, cs) := (List.range 4).foldl (fun (a : State × List Byte) q =>
      let (s, cs) := a.1.rowsOf id c e b q rows
      (s, a.2 ++ cs)) (s, [])
    (s, cs, match (s.eng id).bind Eng.prog? with | some p => rows.all fun r => p.rowsDone.contains r | none => false)

end Sys2Proof.Machine
end

