-- ==== Sys2Proof/Machine/Tensor.lean ====
section
/-! DEFINITION. The tensor engine, unit 0x01: TE_RUN, its static checks, its program slots and its six
commands (R273 to R303). -/

namespace Sys2Proof.Machine

/-! ### TE_RUN (R273 to R275) -/

/-- Operand entry i of a TE_RUN body. -/
def teOpWord (b : List Byte) (i : Nat) : Nat := field b (40 + 16 * i) 8

def teBody (b : List Byte) : Byte :=
  let n := field b 2 1
  let k := field b 4 2
  let opBad (i : Nat) : Bool := let w := teOpWord b i; w / 2 ^ 62 = 0 || w / 2 ^ 48 % 2 ^ 14 != 0 || w % 2 ^ 48 = 0
  if b.length < 32 || b.length != 32 + 16 * n || 2 ≤ field b 1 1 || n = 0 || 16 < n || !zeroAt b 3 1
      || k = 0 || 4096 < k || !zeroAt b 6 2 || field b 16 8 % 64 != 0 || !zeroAt b 24 8
      || (List.range n).any opBad then stMalformed
  else stOk

/-- The table's operands in order, then the program's range (R275). -/
def teOperands (b : List Byte) : List OpSpec :=
  (List.range (field b 2 1)).map (fun i =>
    let w := teOpWord b i
    { addr := field b (32 + 16 * i) 8, len := w % 2 ^ 48, rd := w / 2 ^ 62 % 2 = 1, wr := w / 2 ^ 63 = 1 })
  ++ [{ addr := field b 16 8, len := 64 * field b 4 2, rd := true }]

def tensorForm : UnitForm where
  sel q k op := k < 16 && (q < 4 || (q = 0xFF && !isCommon (BitVec.ofNat 8 op)))
  op o := o = 1
  body := teBody
  operands := teOperands

/-! ### Static checks (R280) -/

def isAct (fmt : Nat) : Bool := 2 ≤ fmt && fmt ≤ 10
/-- R289. -/
def pairOk (a w : Nat) : Bool :=
  if a = 8 || a = 9 || a = 10 then w = a
  else if 4 ≤ a && a ≤ 7 then 4 ≤ w && w ≤ 8
  else if a = 2 || a = 3 then w = a || (4 ≤ w && w ≤ 10)
  else false

/-- Flags that an opcode uses (R279). -/
def flagsUsed (op : Nat) : Nat := match op with | 1 => 1 | 2 => 3 | _ => 13

/-- A vector of FP32 elements lies in the workspace at a multiple of 64 (R285). -/
def vecOk (off cols : Nat) : Bool := off % 64 = 0 && off + 4 * cols ≤ wsSize

def viewsOf (op : Nat) : List Nat := if op = 1 || op = 6 then [4] else [4, 24]

/-- Bytes that an opcode's body leaves reserved are zero (R283, R285). -/
def entReserved (op : Nat) (b : List Byte) : Bool :=
  let z := zeroAt b
  z 2 2 && match op with
  | 1 => z 25 3 && z 40 24
  | 2 => field b 46 1 < 2 && z 47 1 && z 60 4
  | 3 => field b 44 1 < 2 && z 45 3 && z 52 12
  | 4 => z 45 3 && z 60 4
  | 5 => z 45 3 && z 52 12
  | _ => z 26 2 && z 44 20

/-- Fields in range, shapes, overlap, alignment (R280, order 2). -/
def entShape (e : Eng) (op : Nat) (b : List Byte) : Bool :=
  let v := viewAt b 4
  let w := viewAt b 24
  match op with
  | 1 => field b 32 8 % 64 = 0 && v.rowSize ≤ field b 28 4
  | 2 =>
    let kt := field b 56 2
    let nt := field b 58 2
    let src := field b 44 1
    let idx := field b 45 1
    let first := field b 48 8
    isAct v.fmt && w.fmt = 1 && 1 ≤ kt && kt ≤ 256 && 1 ≤ nt && nt ≤ 256 && v.cols = kt * 128 && w.rows = v.rows
      && !v.meets w && src ≤ 1 && !(field e.body 1 1 % 2 = 1 && 3 < kt && !entFlag b 0)
      && (if src = 1 then idx ≤ 7
          else field b 46 1 = 0 && first % 65536 = 0
            && (field e.body 2 1 ≤ idx || ((e.opnds.getD idx ⟨0, 0, false, false⟩).gfa + first) % 65536 = 0))
  | 3 =>
    (v.fmt = 1 || v.fmt = 2) && (w.fmt = 1 || w.fmt = 2) && w.rows = v.rows
      && field b 48 4 % 64 = 0 && field b 48 4 + 2 * v.rows ≤ wsSize
  | 4 =>
    field b 44 1 ≤ 1 && w.rows = v.rows && w.cols = v.cols && v.sameOrApart w && vecOk (field b 52 4) v.cols
      && (field b 56 4 = 0xFFFFFFFF || vecOk (field b 56 4) v.cols)
  | 5 => field b 44 1 ≤ 3 && w.cols = v.cols && (w.rows = v.rows || w.rows = 1) && v.sameOrApart w
  | _ =>
    let f := field b 25 1
    1 ≤ f && f ≤ 7 && (groupOf f = 0 || v.cols % groupOf f = 0) && tscaleOk f (field b 40 4)
      && field b 32 8 % 64 = 0 && rowSize f v.cols ≤ field b 28 4

/-- Operand index, range and access (R280, order 4). -/
def entIndex (e : Eng) (op : Nat) (b : List Byte) : Bool :=
  let v := viewAt b 4
  let inside (i last n : Nat) (wr : Bool) : Bool :=
    let o := e.opnds.getD i ⟨0, 0, false, false⟩
    i < field e.body 2 1 && last + n ≤ o.len && (if wr then o.wr else o.rd)
  let rows (n : Nat) (wr : Bool) : Bool := inside (field b 24 1) (field b 32 8 + (v.rows - 1) * field b 28 4) n wr
  match op with
  | 1 => rows v.rowSize false
  | 6 => rows (rowSize (field b 25 1) v.cols) true
  | 2 => field b 44 1 = 1 || inside (field b 45 1) (field b 48 8) (field b 56 2 * field b 58 2 * 65536) false
  | _ => true

/-- The static check of one entry (R280). -/
def entCheck (e : Eng) (b : List Byte) : Byte :=
  let op := field b 0 1
  if op = 0 || 6 < op then stUnsupported
  else if !entReserved op b || field b 1 1 &&& flagsUsed op != field b 1 1 || !(viewsOf op).all (viewOk b) || !entShape e op b then
    stMalformed
  else if !entIndex e op b then stIndexFault
  else stOk

/-! ### Ends (R282, R300, R303) -/

/-- R300. -/
def tensorOrder : List Byte :=
  [stExtentRevoked, stDomainDown, stVersionRetired, stVersionConflict, stNotOwner, stStateLost, stMalformed,
   stUnsupported, stIndexFault, stFenced, stPoison, stTimeout]

/-- The result of R282. -/
def tensorResult (done fail : Nat) (varied : Bool) : List Byte :=
  leBytes 4 done ++ leBytes 4 fail ++ [if varied then 1 else 0] ++ List.replicate 7 0

/-- Programs of quadrant q's engine (R302). -/
def State.programs (s : State) (q : Nat) : List (Nat × TeProg) :=
  (s.unitCmds 1 q).filterMap fun c => match c.body with
    | .eng e => e.prog?.map fun p => (c.id, p)
    | _ => none

/-- A TE_RUN completes; `fail` overrides the index where a static check failed. -/
def State.teEnd (s : State) (id : Nat) (st : Byte) (fail : Option Nat := none) : State :=
  match s.eng id with
  | none => s
  | some e =>
    let p := e.prog?.getD {}
    let never := st = stOk || p.entries.isEmpty || (st = stEngineDisabled && e.killed.isSome)
    let idx := match fail with | some i => i | none => if never then 0xFFFFFFFF else p.next
    -- a wait for a tile that ends with the program is counted too (R260)
    let s := match p.waitSince with | some t => s.waitOver e.quad t | none => s
    let s := s.countQ e.quad .teStat (if st = stOk then 0 else 1)
    let s := if p.varied then s.countQ e.quad .teStat 4 else s
    s.endEng id st (tensorResult p.next idx p.varied)

/-! ### Slots (R302, R400 to R403) -/

def slotBytes : Nat := 0x01010000

/-- Bytes [off, off+n) of queue k's slot of the save area (R401). -/
def State.saveRuns (s : State) (q k off n : Nat) : List (Loc × Nat × Nat) :=
  if n = 0 then [] else s.runs (bits (s.quad q .qdCtxCfg) 11 0) (k * slotBytes + off) n

def State.saveOn (s : State) (q : Nat) : Bool := bit (s.quad q .qdCtxCfg) 12

/-- A resident program leaves its slot: its workspace and state are saved, and it is ready again. -/
def State.teSave (s : State) (id : Nat) (e : Eng) (p : TeProg) (slot : Nat) : State :=
  let s := s.writeRuns (s.saveRuns e.quad e.queue 0 p.high) (s.wsRead e.quad slot 0 p.high) []
  let s := s.writeRuns (s.saveRuns e.quad e.queue wsSize 256) ((List.range 256).map (Config.programState id)) []
  let n := s.te.orders
  ({ s with te := { s.te with orders := n + 1 } }).setTe id fun p => { p with slot := none, saved := true, order := n }

/-- A ready program takes a slot: with a cleared workspace, or restored (R276, R302, R403). -/
def State.teEnter (s : State) (id q slot : Nat) (e : Eng) (p : TeProg) : State :=
  let s := (s.wsClear q slot).setTe id fun p => { p with slot := some slot, since := s.now, saved := false }
  if !p.saved then s
  else
    let (s, ws, b1) := s.readRuns (s.saveRuns q e.queue 0 p.high)
    let (s, _, b2) := s.readRuns (s.saveRuns q e.queue wsSize 256)
    if b1 || b2 then s.addCond id stPoison else s.wsWrite q slot 0 ws

/-- The ready program that came first takes a free slot: it is ready from when it reached stage 6 (R302). -/
def State.teAdmit (s : State) (q : Nat) : State :=
  let ps := s.programs q
  match leastBelow 2 fun k => !(ps.any fun p => p.2.slot = some k) with
  | none => s
  | some k =>
    let ready := ps.filter fun p => p.2.slot.isNone
    match ready.foldl (fun (b : Option (Nat × TeProg)) p => match b with
        | some x => if p.2.order < x.2.order then some p else b
        | none => some p) none with
    | none => s
    | some (id, p) => match s.eng id with
      | some e => s.teEnter id q k e p
      | none => s

/-- Both slots of a quadrant are filled from the ready programs. -/
def State.teAdmitAll (s : State) (q : Nat) : State := (s.teAdmit q).teAdmit q

/-- A switch of R302: a resident program between entries whose quantum has passed, while another is
ready. -/
def State.teSwitch (s : State) (q : Nat) : State :=
  let ps := s.programs q
  let quantum := max 1 (bits (s.quad q .teCfg) 31 16) * 1000
  let due := ps.filter fun p => p.2.slot.isSome && !p.2.entries.isEmpty && !p.2.busy && quantum ≤ s.now - p.2.since
  let first := due.foldl (fun (b : Option (Nat × TeProg)) p => match b with
    | some x => if p.2.since < x.2.since then some p else b
    | none => some p) none
  match first with
  | some (id, p) =>
    if s.saveOn q && ps.any (fun x => x.2.slot.isNone) then
      match s.eng id, p.slot with
      | some e, some slot => ((s.teSave id e p slot).countQ q .teStat 5).teAdmitAll q
      | _, _ => s
    else s
  | none => s

/-! ### Entries (R283 to R292) -/

/-- Entry `next` is done. -/
def State.entryDone (s : State) (id : Nat) (e : Eng) : State :=
  let s := s.countQ e.quad .teStat 2
  let s := s.setEng id fun e => { e with issued := false, fetched := [] }
  let s := s.setTe id fun p =>
    { p with next := p.next + 1, busy := false, lanes := [], rowsDone := [], rowWait := [], tiles := [], waitSince := none }
  match (s.eng id).bind Eng.prog? with
  | some p => if p.entries.length ≤ p.next then s.teEnd id stOk else s
  | none => s

/-- `TE_LOAD` (R286). -/
def State.teLoad (s : State) (id : Nat) (e : Eng) (p : TeProg) (b : List Byte) : State :=
  let v := viewAt b 4
  let g := (e.opnds.getD (field b 24 1) ⟨0, 0, false, false⟩).gfa + field b 32 8
  let (s, rows) := (List.range v.rows).foldl (fun (a : State × List (Option (List Byte × Bool))) r =>
    let (s, x) := a.1.engRead id (g + r * field b 28 4) v.rowSize
    (s, a.2 ++ [x])) (s, [])
  if !rows.all Option.isSome then s
  else
    let got := rows.filterMap fun x => x
    if got.any fun x => x.2 then s.addCond id stPoison
    else
      let s := got.zipIdx.foldl (fun s x => s.progWrite id e.quad (p.slot.getD 0) (v.rowOff x.2) x.1.1) s
      s.entryDone id e

/-- `TE_STORE` (R286): its rows are written, and the entry is done when they have ended. -/
def State.teStore (s : State) (id : Nat) (e : Eng) (p : TeProg) (b : List Byte) : State :=
  if e.issued then s.entryDone id e
  else
    let v := viewAt b 4
    let g := (e.opnds.getD (field b 24 1) ⟨0, 0, false, false⟩).gfa + field b 32 8
    let s := s.setEng id fun e => { e with issued := true }
    let s := (List.range v.rows).foldl (fun s r =>
      s.engWrite id (g + r * field b 28 4)
        (putRow (field b 25 1) (field b 40 4) (entRounding e p.next b) r 0 (s.viewVals e.quad (p.slot.getD 0) v r))) s
    s.owe (.eng id)

/-- One element of `TE_ACC` (R286, R287). -/
def accElem (mode : Nat) (alpha dst src : Fl) : Fl :=
  let t := (alpha.mul src).f32
  match mode with
  | 0 => t
  | 1 => (dst.add t).f32
  | 2 => (dst.mul t).f32
  | _ => (dst.mul t.silu).f32

/-- `TE_ACC`. -/
def State.teAcc (s : State) (id : Nat) (e : Eng) (p : TeProg) (b : List Byte) : State :=
  let v := viewAt b 4
  let w := viewAt b 24
  let slot := p.slot.getD 0
  let s := (List.range v.rows).foldl (fun s r =>
    let ds := s.viewVals e.quad slot v r
    let xs := s.viewVals e.quad slot w (if w.rows = 1 then 0 else r)
    s.putView id e.quad slot v r (entRounding e p.next b)
      ((ds.zip xs).map fun x => accElem (field b 44 1) (ofF32 (field b 48 4)) x.1 x.2)) s
  s.entryDone id e

/-- One row of `TE_NORM` (R287). -/
def normRow (kind : Nat) (eps : Fl) (gamma : List Fl) (beta : Option (List Fl)) (xs : List Fl) : List Fl :=
  let n := Fl.ofNat xs.length
  if kind = 0 then
    let q := ((fsum (xs.map fun x => (x.mul x).f32)).div n).f32
    let r := ((q.add eps).f32).rsqrt
    (xs.zip gamma).map fun x => (((x.1.mul r).f32).mul x.2).f32
  else
    let u := ((fsum xs).div n).f32
    let ds := xs.map fun x => (x.sub u).f32
    let v := ((fsum (ds.map fun x => (x.mul x).f32)).div n).f32
    let r := ((v.add eps).f32).rsqrt
    let ys := (ds.zip gamma).map fun x => (((x.1.mul r).f32).mul x.2).f32
    match beta with
    | some bs => (ys.zip bs).map fun x => (x.1.add x.2).f32
    | none => ys

/-- `TE_NORM`: its vectors are read before its first row is written. -/
def State.teNorm (s : State) (id : Nat) (e : Eng) (p : TeProg) (b : List Byte) : State :=
  let v := viewAt b 4
  let w := viewAt b 24
  let slot := p.slot.getD 0
  let vec (off : Nat) : List Fl := rowVals 1 v.cols (s.wsRead e.quad slot off (4 * v.cols))
  let gamma := vec (field b 52 4)
  let beta := if field b 56 4 = 0xFFFFFFFF then none else some (vec (field b 56 4))
  let s := (List.range v.rows).foldl (fun s r =>
    s.putView id e.quad slot v r (entRounding e p.next b)
      (normRow (field b 44 1) (ofF32 (field b 48 4)) gamma beta (s.viewVals e.quad slot w r))) s
  s.entryDone id e

/-! ### TE_MATMUL -/

/-- Columns of a tile (R270). -/
def tileCols (fmt : Nat) : Nat := if fmt = 2 || fmt = 3 then 224 else if fmt ≤ 7 then 448 else 896
def tileScale (fmt : Nat) : Nat := 128 / max 1 (groupOf fmt) * scaleBytes fmt
/-- Bytes of a tile that the engine does not ignore. -/
def tileLen (fmt : Nat) : Nat := if groupOf fmt = 0 then 57600 else 57600 + tileCols fmt * tileScale fmt

/-- Column n of a tile, as a row of 128 elements with its scales (R270). -/
def tileCol (fmt : Nat) (t : List Byte) (n : Nat) : List Byte :=
  let cb := elemBytes fmt 128
  slice t (256 + n * cb) cb ++ slice t (57600 + n * tileScale fmt) (if groupOf fmt = 0 then 0 else tileScale fmt)

/-- Tile header wrong, or differing within one matrix (R271, R272). -/
def tileBad (first t : List Byte) : Bool :=
  let f := field t 3 1
  field t 0 2 != 0x7E11 || field t 2 1 != 1 || f < 2 || 10 < f || !tscaleOk f (field t 4 4)
    || f != field first 3 1 || field t 4 4 != field first 4 4

/-- Addends of one chunk of one element, in ascending K (R290). -/
def addends (af wf : Nat) (a w : List Fl × List Fl) : List Fl :=
  let g := groupOf af
  if 8 ≤ af then
    (List.range (a.1.length / max 1 g)).map fun b =>
      let t := exactSum ((List.range g).map fun i => (a.1.getD (b * g + i) .nan).mul (w.1.getD (b * g + i) .nan))
      let t := if isInt4 af && t.isZero then .zero else t
      (t.mul ((a.2.getD b .nan).mul (w.2.getD b .nan))).f32
  else
    let val (f : Nat) (x : List Fl × List Fl) (i : Nat) : Fl :=
      if groupOf f = 0 then x.1.getD i .nan else (x.1.getD i .nan).mul (x.2.getD (i / groupOf f) .nan)
    (List.range a.1.length).map fun i => ((val af a i).mul (val wf w i)).f32

/-- Elements and scales of `n` rows of K from row `k0` on. -/
def kSlice (fmt : Nat) (x : List Fl × List Fl) (k0 n : Nat) : List Fl × List Fl :=
  ((x.1.drop k0).take n, if groupOf fmt = 0 then [] else (x.2.drop (k0 / groupOf fmt)).take ((n + groupOf fmt - 1) / groupOf fmt))

/-- Chunk values v_c of one element (R291). -/
def chunkVals (af wf : Nat) (ts : Fl) (a w : List Fl × List Fl) : List Fl :=
  (List.range ((a.1.length + 383) / 384)).map fun c =>
    ((fsum (addends af wf (kSlice af a (384 * c) 384) (kSlice wf w (384 * c) 384))).mul ts).f32

/-- Chunks of one element in the order in which they are added: ascending, or as they arrive (R298). -/
def chunkOrder (rank : Option (Nat → Nat)) (vs : List Fl) : List (Nat × Fl) :=
  let xs := vs.zipIdx.map fun v => (v.2, v.1)
  match rank with
  | none => xs
  | some f => sortBy (fun x y => f x.1 < f y.1) xs

/-- The element's result from its chunks. -/
def chunkSum (old : Option Fl) (vs : List Fl) : Fl :=
  match old with
  | none => fsum vs
  | some x => vs.foldl (fun a b => (a.add b).f32) x

/-- The product of one row of A with W: C's row, and whether an element's order was not the fixed one. -/
def matRow (af wf : Nat) (ts : Fl) (a : List Fl × List Fl) (cols : List (List Fl × List Fl))
    (old : Option (List Fl)) (rank : Option (Nat → Nat → Nat)) : List (Fl × Bool) :=
  cols.zipIdx.map fun w =>
    let xs := chunkOrder (rank.map fun f => f w.2) (chunkVals af wf ts a w.1)
    (chunkSum (old.map fun o => o.getD w.2 .nan) (xs.map fun x => x.2), xs.map (fun x => x.1) != List.range xs.length)

/-- Multiply-accumulates, counted in units of 2^20 (R303). -/
def State.countMacs (s : State) (q n : Nat) : State :=
  let t := tget 0 s.te.macs q + n
  let s : State := { s with te := { s.te with macs := tset 0 s.te.macs q (t % 2 ^ 20) } }
  if t < 2 ^ 20 then s else s.countQ q .teStat 3 (t / 2 ^ 20)

/-- All tiles are here: the product (R290, R291). -/
def State.matmul (s : State) (id : Nat) (e : Eng) (p : TeProg) (b : List Byte) : State :=
  let v := viewAt b 4
  let w := viewAt b 24
  let slot := p.slot.getD 0
  let kt := field b 56 2
  let t0 := p.tiles.getD 0 []
  let wf := field t0 3 1
  let nt := tileCols wf
  let ta := if v.fmt = 4 || v.fmt = 5 then ofF32 v.ts else .one
  let tw := if wf = 4 || wf = 5 then ofF32 (field t0 4 4) else .one
  let ts := (ta.mul tw).f32
  let col (n : Nat) : List Fl × List Fl :=
    let parts := (List.range kt).map fun i => tileCol wf (p.tiles.getD (n / nt * kt + i) []) (n % nt)
    (parts.flatMap (rowElems wf 128), parts.flatMap (rowScales wf 128))
  let cols := (List.range w.cols).map col
  let (s, d) : State × Nat := if p.bal then s.draw else (s, 0)
  let s := (List.range v.rows).foldl (fun s r =>
    let a := s.wsRead e.quad slot (v.rowOff r) v.rowSize
    let old := if entFlag b 1 then some (s.viewVals e.quad slot w r) else none
    let rank : Option (Nat → Nat → Nat) := if p.bal then some (fun n c => Config.arrival d (r * w.cols + n) c) else none
    let out := matRow v.fmt wf ts (rowElems v.fmt v.cols a, rowScales v.fmt v.cols a) cols old rank
    let s := if out.any fun x => x.2 then s.setTe id fun p => { p with varied := true } else s
    s.putView id e.quad slot w r {} (out.map fun x => x.1)) s
  (s.countMacs e.quad (v.rows * v.cols * w.cols)).entryDone id e

/-- What reading the next tile gives. -/
inductive TileRead where
  | wait
  | stop (st : Byte)
  | bytes (t : List Byte) (bad : Bool)

/-- `n` bytes of tile t of stream k for a consumer; waiting is counted when it ends (R259, R260). -/
def State.streamRead (s : State) (id q k t n : Nat) (since : Option Nat) : State × TileRead :=
  match s.tileState q k t with
  | .waits => (s, .wait)
  | .fault st => (match since with | some x => s.waitOver q x | none => s, .stop st)
  | .ready =>
    let s := match since with | some x => s.waitOver q x | none => s
    match s.engRead id (s.tileGfa q k t) n with
    | (s, none) => (s, .wait)
    | (s, some (b, bad)) => (s, .bytes b bad)

/-- Where tile i of the current TE_MATMUL entry is: in its operand or its stream. -/
def State.tileAt (s : State) (e : Eng) (b : List Byte) (i : Nat) : Nat :=
  let k := field b 45 1
  if field b 44 1 = 1 then s.tileGfa e.quad k (field b 48 8 + i)
  else (e.opnds.getD k ⟨0, 0, false, false⟩).gfa + field b 48 8 + i * 65536

/-- The first n bytes of tile i of the current TE_MATMUL entry, from its operand or its stream. -/
def State.tileRead (s : State) (id : Nat) (e : Eng) (b : List Byte) (i n : Nat) (since : Option Nat) : State × TileRead :=
  let k := field b 45 1
  if field b 44 1 = 1 then s.streamRead id e.quad k (field b 48 8 + i) n since
  else match s.engRead id (s.tileAt e b i) n with
    | (s, none) => (s, .wait)
    | (s, some (x, bad)) => (s, .bytes x bad)

/-- A tile is kept, and released after its use by the entry (R284). -/
def State.tileTaken (s : State) (id q : Nat) (b : List Byte) (i : Nat) (x : List Byte) : State :=
  let s := s.setEng id fun e => { e with fetched := [] }
  let s := s.setTe id fun p => { p with tiles := p.tiles ++ [x], waitSince := none }
  let s := if field b 44 1 = 1 && field b 46 1 % 2 = 1 then s.releaseTile q (field b 45 1) (field b 48 8 + i) else s
  s.owe (.eng id)

/-- What the header of tile i decides (R272, R283, R289); `first` is the header of tile 0. -/
def tileCheck (b first x : List Byte) (i : Nat) : Byte :=
  let f := field x 3 1
  let n := field b 58 2
  let cols := (viewAt b 24).cols
  if tileBad first x then stMalformed
  else if i = 0 && !((n - 1) * tileCols f < cols && cols ≤ n * tileCols f) then stMalformed
  else if !pairOk (viewAt b 4).fmt f then stUnsupported
  else stOk

/-- `TE_MATMUL`: its tiles come one after another, the header of the first before the rest of it; then the
product. -/
def State.teMatmul (s : State) (id : Nat) (e : Eng) (p : TeProg) (b : List Byte) : State :=
  let i := p.tiles.length
  let first := p.tiles.getD 0 []
  if field b 56 2 * field b 58 2 ≤ i then s.matmul id e p b
  else match s.tileRead id e b i (if i = 0 then 256 else tileLen (field first 3 1)) p.waitSince with
    | (s, .stop st) => (s.setTe id fun p => { p with waitSince := none }).addCond id st
    | (s, .wait) =>
      let late := field b 44 1 = 1 && s.tileState e.quad (field b 45 1) (field b 48 8 + i) = .waits
      s.setTe id fun p => { p with waitSince := if late then some (p.waitSince.getD s.now) else none }
    | (s, .bytes x bad) =>
      let s := s.setTe id fun p => { p with waitSince := none }
      -- a header whose own sector is sound is checked beside a poisoned sector elsewhere (R300)
      let st := if s.readBad id (s.tileAt e b i) 64 then stOk else tileCheck b (if i = 0 then x else first) x i
      if st != stOk then s.addCond id st
      else if bad then s.addCond id stPoison
      else if i != 0 then s.tileTaken id e.quad b i x
      else match s.tileRead id e b 0 (tileLen (field x 3 1)) none with
        | (s, .stop st) => s.addCond id st
        | (s, .wait) => s
        | (s, .bytes y bad) => if bad then s.addCond id stPoison else s.tileTaken id e.quad b 0 y

/-! ### The command -/

/-- The program's entries of 64 bytes. -/
def programEntries (n : Nat) (b : List Byte) : List (List Byte) := (List.range n).map fun i => slice b (64 * i) 64

/-- `TE_RUN` reads its program once, and checks it (R276, R280). -/
def State.teRead (s : State) (id : Nat) (e : Eng) : State :=
  let n := field e.body 4 2
  match s.engRead id (e.opnds.getD (field e.body 2 1) ⟨0, 0, false, false⟩).gfa (64 * n) with
  | (s, none) => s
  | (s, some (b, bad)) =>
    if bad then s.addCond id stPoison
    else
      let es := programEntries n b
      let s := s.setEng id fun e => { e with fetched := [] }
      let s := s.setTe id fun p => { p with entries := es, since := s.now }
      match es.findIdx? fun x => entCheck e x != stOk with
      | some i => s.teEnd id (entCheck e (es.getD i [])) (some i)
      | none => s

/-- bal of a program that reaches stage 6 now (R297, R430). -/
def State.balNow (s : State) (e : Eng) : Bool :=
  field e.body 1 1 % 2 = 1 && bit (s.quad e.quad .teCfg) 0 && (s.hub .hubDetCfg).toNat % 4 = 0

/-- A command of unit 0x01 goes on: its program is read, or its current entry continues. -/
def State.tensorRun (s : State) (id : Nat) (e : Eng) : State :=
  match s.findCmd id, e.prog? with
  | some c, some p =>
    if p.entries.isEmpty then s.teRead id e
    else if !p.busy || e.waits != 0 then s
    else
      let b := p.entries.getD p.next []
      match field b 0 1 with
      | 1 => s.teLoad id e p b
      | 2 => s.teMatmul id e p b
      | 3 =>
        match s.attendRun id c e p b with
        | (s, [], true) => s.entryDone id e
        | (s, cs, _) => cs.foldl (fun s st => s.addCond id st) s
      | 4 => s.teNorm id e p b
      | 5 => s.teAcc id e p b
      | _ => s.teStore id e p b
  | some _, none =>
    -- it reaches stage 6: it is ready, and takes a free slot while its program is read
    let o := s.te.orders
    let s : State := { s with te := { s.te with orders := o + 1 } }
    let s := s.setEng id fun e => { e with phase := .te { bal := s.balNow e, order := o } }
    (s.teAdmitAll e.quad).owe (.eng id)
  | none, _ => s

/-- The resident program of a queue whose next entry is of opcode op and may begin. -/
def State.nextEntry (s : State) (q k op : Nat) : Option (Nat × TeProg) :=
  let c := s.cmds.find? fun c => match c.body with
    | .eng e => e.unit = 1 && e.quad = q && e.queue = k && e.killed.isNone && e.conds = [] &&
        match e.prog? with
        | some p => p.slot.isSome && !p.busy && p.next < p.entries.length && field (p.entries.getD p.next []) 0 1 = op
        | none => false
    | _ => false
  c.bind fun c => c.eng?.bind fun e => e.prog?.map fun p => (c.id, p)

/-- The Lanes of the rows of a TE_ATTEND entry, by its array of row Lanes; no other entry has any (R318). -/
def State.rowLanes (s : State) (q op : Nat) (p : TeProg) : List Nat :=
  let b := p.entries.getD p.next []
  if op = 3 then
    (List.range (viewAt b 4).rows).map fun r => leNat (s.wsRead q (p.slot.getD 0) (field b 48 4 + 2 * r) 2)
  else []

/-- The resident program of a queue begins its next entry, if that is an entry of this opcode. -/
def State.entryBegin (s : State) (q k op : Nat) : State :=
  match s.nextEntry q k op with
  | none => s
  | some (id, p) =>
    let ls := s.rowLanes q op p
    let s := s.setEng id fun x => { x with fetched := [], issued := false }
    (s.setTe id fun p => { p with busy := true, lanes := ls }).owe (.eng id)

/-- A waiting row of a program's entry has waited baton_wait (R318). -/
def State.batonWaitTimeout (s : State) (q k : Nat) : State :=
  let w := max 1 (bits (s.hub .sqCfg) 47 32) * 100000
  (s.unitCmds 1 q).foldl (fun s c => match c.body with
    | .eng e =>
      if e.queue = k && (match e.prog? with | some p => p.rowWait.any (fun r => w ≤ s.now - r.2) | none => false)
      then s.addCond c.id stTimeout else s
    | _ => s) s

/-- A consumer has waited late_to for its tile (R260). -/
def State.lateTimeout (s : State) (id : Nat) : State :=
  match s.eng id with
  | none => s
  | some e =>
    match e.prog?.bind fun p => p.waitSince with
    | some t =>
      if s.lateTo e.quad ≤ s.now - t then
        (((s.waitOver e.quad t).countQ e.quad .qdPaceStat 3).setTe id fun p => { p with waitSince := none }).addCond id stTimeout
      else s
    | none => s

/-- The consumers of stream k of quadrant q look again (R260). -/
def State.streamWake (s : State) (q k : Nat) : State :=
  (s.programs q).foldl (fun s x =>
    let b := x.2.entries.getD x.2.next []
    if x.2.waitSince.isSome && field b 45 1 = k then s.owe (.eng x.1) else s) s

end Sys2Proof.Machine
end

