-- ==== Sys2Proof/Machine/Sequence.lean ====
section
/-! DEFINITION. The sequence decode unit, unit 0x02: its commands (R307 to R314), Baton records and the
handoff (R323 to R336). -/

namespace Sys2Proof.Machine

/-! ### Forms (R307 to R310) -/

/-- A configuration in range, at byte `o` of a body that holds bytes 2 to 19 of SQ_OPEN. -/
def laneCfgOk (x : Lane) (cacheLen : Nat) : Bool :=
  let fmtOk := x.fmt = 2 || x.fmt = 6 || x.fmt = 7 || x.fmt = 8
  1 ≤ x.layers && x.layers ≤ 256 && 1 ≤ x.nq && x.nq ≤ 128 && 1 ≤ x.nkv && x.nkv ≤ 128 && x.nq % max 1 x.nkv = 0
    && 32 ≤ x.dim && x.dim ≤ 256 && x.dim % 32 = 0 && 1 ≤ x.cap && x.cap ≤ 1048576 && x.window ≤ x.cap
    && (x.nq + 2 * x.nkv) * x.dim ≤ 32768
    && (!fmtOk || x.layers * x.nkv * 2 * x.planeBytes ≤ cacheLen)

def seqBody (own : Nat) (b : List Byte) : Byte :=
  let op := field b 0 1
  let z := zeroAt b
  let x : Lane := { config := slice b 2 18, cap := field b 20 4 }
  let big := op = 1 || op = 2
  let bad :=
    if big then
      b.length != 64 || !z 1 1 || !z 3 1 || !z 10 2 || !z 52 12 || (op = 2 && field b 48 4 != 0) || !laneCfgOk x (field b 40 8)
    else
      b.length != 32 || !z 1 3 || (op != 3 && op != 4 && !z 4 4) || (op != 4 && !z 16 2) || !z 18 14
        || (op = 4 && 255 < field b 4 4)
  if bad then stMalformed
  else if big && !(x.fmt = 2 || x.fmt = 6 || x.fmt = 7 || x.fmt = 8) then stUnsupported
  else if op = 4 && field b 16 2 = own then stUnsupported
  else stOk

def seqForm (own : Nat) : UnitForm where
  sel q k _ := q < 4 && k < 64
  op o := 1 ≤ o && o ≤ 6
  body := seqBody own
  operands b := if field b 0 1 ≤ 2 then [{ addr := field b 32 8, len := field b 40 8, rd := true, wr := true }] else []

/-- R311. -/
def seqOrder : List Byte := [stUnsupported, stNotOwner, stStateLost, stIndexFault, stMalformed]

/-! ### Records -/

/-- The result of R313. -/
def Lane.result (x : Lane) : List Byte :=
  [BitVec.ofNat 8 x.state.code, 0] ++ leBytes 2 x.peer.toNat ++ leBytes 4 x.gen.toNat ++ leBytes 4 x.len ++ leBytes 4 0

/-- A sequence command completes; its result describes the Lane now. -/
def State.seqEnd (s : State) (id : Nat) (st : Byte) : State :=
  match s.eng id with
  | some e => s.endEng id st (s.lane (64 * e.quad + e.queue)).result
  | none => s

/-- What a Lane sent about its handoff is answered no more, and its waiters look again. -/
def State.laneMoves (s : State) (l : Nat) (f : Lane → Lane) : State :=
  ((s.setLane l f).cancelReqs fun k => match k with | .baton m _ => m = l | _ => false).owe (.laneWake l)

/-- A Lane's record to HELD: by a release or a resolution it is the taker's handoff done (R336). -/
def State.laneHeld (s : State) (l : Nat) : State :=
  let s := if (s.lane l).state = .taken then s.countQ (l / 64) .sqStat 3 else s
  s.laneMoves l fun x => { x with state := .held, querying := false, offerOk := false, got := [] }

/-- ARMED again (R328, R330, R333). -/
def State.laneArmed (s : State) (l : Nat) : State :=
  s.laneMoves l fun x => { x with state := .armed, peer := 0xFFFF, got := [] }

def State.laneReleased (s : State) (l : Nat) (gen : Word32) : State :=
  (s.laneMoves l fun x => { x with state := .released, gen := gen, querying := false, offerOk := false }).countQ (l / 64) .sqStat 2

/-- A Lane enters LOST (R334). -/
def State.laneLost (s : State) (l : Nat) : State :=
  let x := s.lane l
  if x.state = .free || x.state = .lost then s
  else
    let s := s.laneMoves l fun x => { x with state := .lost, gen := 0, peer := 0xFFFF, querying := false, offerOk := false, got := [] }
    (s.countQ (l / 64) .sqStat 5).event 5 ([BitVec.ofNat 8 l] ++ List.replicate 7 0 ++ leBytes 8 x.reqId.toNat)

/-- drop written to SQ_LANE_CTL (R334). -/
def State.laneDrop (s : State) (l : Nat) (v : Word) : State :=
  match (s.lane l).state with
  | .held | .offered | .taken => if bit v 0 then s.laneLost l else s
  | _ => s

/-- SQ_OFFER and SQ_QUERY commands that wait on a Lane. -/
def State.laneCmds (s : State) (l : Nat) (op : Byte) : List Nat :=
  (s.unitCmds 2 (l / 64)).filterMap fun c => match c.body with
    | .eng e => if e.queue = l % 64 && e.phase = .lane && e.op = op then some c.id else none
    | _ => none

/-- A Lane has changed state: its waiting commands complete, the rows that wait on it look again (R312,
R318). -/
def State.laneWake (s : State) (l : Nat) : State :=
  let st (s : State) : Byte := if (s.lane l).state = .lost then stStateLost else stOk
  let s := if (s.lane l).state = .offered then s else (s.laneCmds l 4).foldl (fun s id => s.seqEnd id (st s)) s
  let s := match (s.lane l).state with
    | .offered | .taken => s
    | _ => (s.laneCmds l 5).foldl (fun s id => s.seqEnd id (st s)) s
  s.cmds.foldl (fun s c => match c.body with
    | .eng e => (match e.prog? with | some p => if p.rowWait != [] then s.owe (.eng c.id) else s | none => s)
    | _ => s) s

/-! ### Baton messages sent (R325, R326) -/

def State.batonSend (s : State) (l : Nat) (typ : Byte) (off : Nat) (pay : List Byte) : State :=
  let peer := (s.lane l).peer.toNat
  s.deviceReq (.baton l typ) peer 2 typ
    { flags := BitVec.ofNat 16 (2 ^ 11), addr := BitVec.ofNat 64 (mkGfa peer off) } pay

def Lane.imageBytes (x : Lane) : Nat := x.layers * x.nkv * 2 * x.offLen * x.vecBytes

/-- BATON_OFFER. -/
def State.sendOffer (s : State) (l : Nat) : State :=
  let x := s.lane l
  s.batonSend l 0x48 0 (leBytes 2 x.peerLane ++ leBytes 2 l ++ leBytes 4 x.offGen.toNat ++ leBytes 8 x.reqId.toNat
    ++ leBytes 4 x.offLen ++ leBytes 4 0 ++ x.config ++ List.replicate 6 0 ++ leBytes 8 x.imageBytes ++ leBytes 8 0)

/-- BATON_QUERY, with the sender's record. -/
def recordOf (x : Lane) : Nat × Word32 := match x.state with
  | .held | .offered | .taken | .released => (x.state.code, x.gen)
  | _ => (0, 0)
def queryPayload (req : Word) (r : Nat × Word32) : List Byte :=
  leBytes 8 req.toNat ++ [BitVec.ofNat 8 r.1, 0, 0, 0] ++ leBytes 4 r.2.toNat
def State.sendQuery (s : State) (l : Nat) : State :=
  let x := s.lane l
  let s := s.setLane l fun x => { x with since := s.now, querying := true }
  (s.countQ (l / 64) .sqStat 4).batonSend l 0x4C 0 (queryPayload x.reqId (recordOf x))

/-- BATON_RELEASE of a Lane in RELEASED. -/
def State.sendRelease (s : State) (l : Nat) : State :=
  let x := s.lane l
  s.batonSend l 0x4B 0 (leBytes 8 x.reqId.toNat ++ leBytes 4 x.gen.toNat ++ leBytes 4 0)

/-- Where image bytes [off, off+n) stand in the cache area (R326). -/
def imagePieces (x : Lane) (off n : Nat) : List (Nat × Nat) :=
  let u := max 1 (x.offLen * x.vecBytes)
  (cuts u off n).map fun c => (x.base + c.1 / u * x.planeBytes + c.1 % u, c.2)

def State.imageRuns (s : State) (x : Lane) (off n : Nat) : List (Loc × Nat × Nat) :=
  (imagePieces x off n).flatMap fun c => s.laneRuns c.1 c.2

/-- BATON_COMMIT, once every BATON_DATA has completed with OK (R327). -/
def State.commitIfDone (s : State) (l : Nat) : State :=
  let x := s.lane l
  let n := x.imageBytes
  if x.state = .offered && x.offerOk && x.sent = n && x.acked = n then
    let (s, bs, _) := s.readRuns (s.imageRuns x 0 n)
    s.batonSend l 0x4A 0 (leBytes 8 x.reqId.toNat ++ leBytes 4 x.offGen.toNat ++ leBytes 4 (crc32c bs).toNat)
  else s

/-- The offerer sends its image's next BATON_DATA; POISON stops the handoff (R327, R492), and so does a refusal of its
reads (DEDUCED, log 115). -/
def State.batonDataSend (s : State) (l : Nat) : State :=
  let x := s.lane l
  let n := min 4096 (x.imageBytes - x.sent)
  if x.state != .offered || !x.offerOk || n = 0 then s
  else
    let stop (s : State) (st : Byte) : State :=
      let ids := s.laneCmds l 4
      ids.foldl (fun s id => s.seqEnd id st) (s.laneHeld l)
    if s.laneShut x then stop s stExtentRevoked
    else
    let (s, bs, bad) := s.readRuns (s.imageRuns x x.sent n)
    if bad then stop s stPoison
    else (s.setLane l fun x => { x with sent := x.sent + n }).batonSend l 0x49 x.sent bs

/-! ### Resolution (R331 to R333) -/

/-- R332, against the peer's record: its state code and generation; 0 for no record. -/
def State.resolve (s : State) (l : Nat) (st : Nat) (g : Word32) : State :=
  let x := s.lane l
  let claim := st = 3 || st = 4 || st = 5
  match x.state with
  | .held | .offered | .taken =>
    if claim && newer x.gen g then
      let rel := x.state = .offered && st = 5
      let s := s.laneReleased l g
      if rel then s.sendRelease l else s
    else if claim && g = x.gen then s.laneLost l
    else if st = 6 && newer x.gen g then s.laneReleased l g
    else if x.state = .offered && claim then s
    else if x.state = .held then s
    else s.laneHeld l
  | _ => s

/-- The epoch excludes the peer of a record (R333). -/
def State.peerExcluded (s : State) (l : Nat) : State :=
  match (s.lane l).state with
  | .offered | .taken => s.laneHeld l
  | .receiving => s.laneArmed l
  | _ => s

/-- A Baton message to the peer ended with TIMEOUT: a query, or, when the peer is not a member, R333. -/
def State.batonTimeout (s : State) (l : Nat) : State :=
  if (tget {} s.fab.members (s.lane l).peer.toNat).kind != .member then s.peerExcluded l
  else if (s.lane l).querying then s
  else s.sendQuery l

/-- The answer to a Baton message (R327, R329, R331). -/
def State.batonAnswer (s : State) (l : Nat) (typ st : Byte) (pay : List Byte) : State :=
  let x := s.lane l
  if typ = 0x4C then
    if st = stOk && pay.length = 16 then
      let s := s.resolve l (field pay 8 1) (BitVec.ofNat 32 (field pay 12 4))
      let lost := (s.lane l).state = .lost
      (s.laneCmds l 5).foldl (fun s id => s.seqEnd id (if lost then stStateLost else stOk)) s
    else if (tget {} s.fab.members x.peer.toNat).kind != .member then s.peerExcluded l
    else s
  else if typ = 0x4B || x.state != .offered then s
  else if st = stTimeout then s.batonTimeout l
  else if st != stOk then s.laneHeld l
  else match typ.toNat with
    | 0x48 => (s.setLane l fun x => { x with offerOk := true }).commitIfDone l
    | 0x49 => (s.setLane l fun x => { x with acked := min x.imageBytes (x.acked + 4096) }).commitIfDone l
    | _ => (s.laneReleased l x.offGen).sendRelease l

/-- baton_to in ns. -/
def State.batonTo (s : State) : Nat := max 100 (bits (s.hub .sqCfg) 15 0) * 1000

/-- baton_to has passed on a Lane (R330). -/
def State.batonToExpiry (s : State) (l : Nat) : State :=
  let x := s.lane l
  if s.now - x.since < s.batonTo then s
  else match x.state with
    | .receiving => s.laneArmed l
    | .taken => s.sendQuery l
    | .offered => if x.querying then s.sendQuery l else s
    | _ => s

/-! ### Commands (R311, R312) -/

/-- The cache range may serve Lane l (R311). -/
def State.cacheOk (s : State) (l gfa len : Nat) : Bool :=
  let o := gfaOff gfa
  gfaDev gfa = s.ownId && match s.findExt o with
    | none => false
    | some e =>
      s.extState e = .active && o + len ≤ s.extOff e + s.extLen e && s.extTier e = 0 && s.extLocal e && s.extQuad e = l / 64
        && !s.extCoherent e && !s.extLent e && !s.inPool e && !s.isFlashMap e
        && !(s.vr.regions.any fun r => r.2.state != .free && overlaps o len (s.regBase r.1) (s.regLen r.1))
        && !(s.pace.any fun x => x.2.state != .idle && s.inExt e (gfaOff x.2.stage))
        && !(s.lanes.any fun x => x.1 != l && x.2.state != .free && overlaps o len x.2.base x.2.cacheLen)

/-- Is the Lane's state allowed for the command? LOST is a condition of its own (R311, log 29). -/
def seqAllowed (op : Nat) (st : LaneState) : Bool :=
  st = .lost || match op with
    | 1 | 2 => st = .free
    | 3 | 4 => st = .held
    | 5 => st = .held || st = .offered || st = .taken || st = .released
    | _ => st = .armed || st = .receiving || st = .held || st = .released

/-- Conditions of a sequence command (R311). -/
def State.seqConds (s : State) (l : Nat) (c : Cmd) (e : Eng) : List Byte :=
  let x := s.lane l
  let op := e.op.toNat
  let b := e.body
  let o := e.opnds.getD 0 ⟨0, 0, false, false⟩
  (if op ≤ 2 && !s.cacheOk l o.gfa o.len then [stUnsupported] else [])
    ++ (if !seqAllowed op x.state || (2 < op && (x.reqId.toNat != field b 8 8 || x.ctx != c.ctx)) then [stNotOwner] else [])
    ++ (if x.state = .lost && op != 6 then [stStateLost] else [])
    ++ (if op = 3 && x.cap < field b 4 4 then [stIndexFault] else [])
    ++ (if op = 4 && x.cursor != 0 then [stMalformed] else [])

/-- A command of unit 0x02. -/
def State.seqRun (s : State) (id : Nat) (e : Eng) : State :=
  match s.findCmd id with
  | none => s
  | some c =>
    if e.phase = .lane then s
    else
      let l := 64 * e.quad + e.queue
      let b := e.body
      let x := s.lane l
      match s.seqConds l c e with
      | st :: sts => s.seqEnd id (firstByOrder seqOrder (st :: sts))
      | [] =>
        match e.op.toNat with
        | 3 => (s.setLane l fun x => { x with len := field b 4 4, cursor := 0 }).seqEnd id stOk
        | 4 =>
          let s := s.setLane l fun x =>
            { x with state := .offered, peer := BitVec.ofNat 16 (field b 16 2), peerLane := field b 4 4, offGen := x.gen + 1
                     offLen := x.len, offerOk := false, sent := 0, acked := 0, querying := false, since := s.now }
          (s.setEng id fun e => { e with phase := .lane }).sendOffer l
        | 5 =>
          if x.state = .offered || x.state = .taken then (s.setEng id fun e => { e with phase := .lane }).sendQuery l
          else s.seqEnd id stOk
        | 6 => ((s.laneMoves l fun _ => {}).owe .retireDue).seqEnd id stOk
        | op =>
          let o := e.opnds.getD 0 ⟨0, 0, false, false⟩
          let y : Lane :=
            { state := if op = 1 then .held else .armed, config := slice b 2 18, cap := field b 20 4, ctx := c.ctx,
              reqId := BitVec.ofNat 64 (field b 24 8), gen := BitVec.ofNat 32 (field b 48 4), base := gfaOff o.gfa,
              cacheLen := o.len }
          (s.setLane l fun _ => y).seqEnd id stOk

/-! ### Baton messages received (R325, R328, R331) -/

/-- Rows 5 and 6 of a Baton message, by its allowed lengths and its reserved bytes (R325). -/
def State.batonParse (s : State) (n : Nat) (typ : Byte) (f : Frame) (lens : Nat → Bool) (res : List Byte → Bool) : Parse :=
  let h := f.hdr
  { bad := h.ctx != 0 || h.opLen != 0 || !lens h.payLen.toNat || !res f.payload
           || (typ != 0x49 && gfaOff h.addr.toNat != 0)
    odd := s.v1 n || h.cls != 2 }

/-- The shared path of a Baton message: stage 1, then its Lane's unit. -/
def State.batonMsg (s : State) (typ : Byte) (f : Frame) (lens : Nat → Bool) (res : List Byte → Bool)
    (act : State → Origin → State) : State :=
  s.withRequest typ f { gfaReq := true } (fun s n => s.batonParse n typ f lens res)
    (fun s o => if !isPeerSess o.sess then s.sendCpl o stSegmentFault [] else act s o)

/-- RECEIVING from this stream: the Lane whose last Baton message is the newest (log 30). -/
def State.receivingOn (s : State) (o : Origin) : Option Nat :=
  let ls := s.lanes.filter fun x => x.2.state = .receiving && x.2.sess = o.sess && x.2.inc = o.inc
  (ls.foldl (fun (b : Option (Nat × Lane)) x => match b with
    | some y => if y.2.since < x.2.since then some x else b
    | none => some x) none).map fun x => x.1

/-- The Lane RECEIVING from this stream for a request. -/
def State.receivingFor (s : State) (o : Origin) (req : Word) : Option Nat :=
  (s.lanes.find? fun x => x.2.state = .receiving && x.2.sess = o.sess && x.2.inc = o.inc && x.2.offReq = req).map fun x => x.1

/-- A failed check: a RECEIVING Lane is ARMED again. -/
def State.batonRefuse (s : State) (o : Origin) (l : Option Nat) (st : Byte) : State :=
  let s : State := match l with
    | some l => if (s.lane l).state = .receiving then s.laneArmed l else s
    | none => s
  s.sendCpl o st []

/-- `BATON_OFFER`. -/
def State.batonOffer (s : State) (f : Frame) : State :=
  let b := f.payload
  s.batonMsg 0x48 f (· = 64) (fun _ => true) fun s o =>
    let l := field b 0 2
    let x := s.lane l
    let req := BitVec.ofNat 64 (field b 8 8)
    if 255 < l then s.sendCpl o stMalformed []
    else if !zeroAt b 20 4 || !zeroAt b 42 6 || !zeroAt b 56 8 || !zeroAt b 25 1 || !zeroAt b 32 2 then s.batonRefuse o (some l) stMalformed
    else if x.state != LaneState.armed || (x.reqId != 0 && x.reqId != req) then s.batonRefuse o (some l) stNotOwner
    else if slice b 24 18 != x.config || x.cap < field b 16 4 then s.batonRefuse o (some l) stUnsupported
    else
      let s := s.setLane l fun x =>
        { x with state := .receiving, peer := BitVec.ofNat 16 o.sess, peerLane := field b 2 2, offGen := BitVec.ofNat 32 (field b 4 4)
                 offLen := field b 16 4, offReq := req, got := [], sess := o.sess, inc := o.inc, since := s.now }
      s.sendCpl o stOk []

/-- `BATON_DATA`. -/
def State.batonData (s : State) (f : Frame) : State :=
  let b := f.payload
  s.batonMsg 0x49 f (fun n => 1 ≤ n && n ≤ 4096) (fun _ => true) fun s o =>
    match s.receivingOn o with
    | none => s.sendCpl o stNotOwner []
    | some l =>
      let x := s.lane l
      let off := gfaOff f.hdr.addr.toNat
      let n := x.imageBytes
      if off % 4096 != 0 || n ≤ off || b.length != min 4096 (n - off) then s.batonRefuse o (some l) stMalformed
      else if s.laneShut x then s.batonRefuse o (some l) stExtentRevoked
      else
        let s := (imagePieces x off b.length).foldl (fun (a : State × Nat) c =>
          (a.1.writeRuns (a.1.laneRuns c.1 c.2) (slice b a.2 c.2) [], a.2 + c.2)) (s, 0) |>.1
        let s := s.setLane l fun x => { x with got := (x.got.filter fun g => g.1 != off) ++ [(off, b)], since := s.now }
        s.sendCpl o stOk []

/-- The image a Lane has received, when it is whole. -/
def Lane.image (x : Lane) : Option (List Byte) :=
  let cs := (List.range ((x.imageBytes + 4095) / 4096)).map fun i => x.got.find? fun g => g.1 = i * 4096
  if cs.all Option.isSome then some (cs.flatMap fun c => match c with | some g => g.2 | none => []) else none

/-- `BATON_COMMIT`. -/
def State.batonCommit (s : State) (f : Frame) : State :=
  let b := f.payload
  s.batonMsg 0x4A f (· = 16) (fun _ => true) fun s o =>
    match s.receivingFor o (BitVec.ofNat 64 (field b 0 8)) with
    | none => s.sendCpl o stNotOwner []
    | some l =>
      let x := s.lane l
      if x.offGen.toNat != field b 8 4 then s.batonRefuse o (some l) stNotOwner
      else match x.image with
        | none => s.batonRefuse o (some l) stMalformed
        | some im =>
          if (crc32c im).toNat != field b 12 4 then s.batonRefuse o (some l) stMalformed
          else
            let s := s.laneMoves l fun x =>
              { x with state := .taken, gen := x.offGen, len := x.offLen, cursor := 0, reqId := x.offReq, got := [], since := s.now
                       querying := false }
            s.sendCpl o stOk []

/-- `BATON_RELEASE`. -/
def State.batonRelease (s : State) (f : Frame) : State :=
  let b := f.payload
  s.batonMsg 0x4B f (· = 16) (zeroAt · 12 4) fun s o =>
    let req := BitVec.ofNat 64 (field b 0 8)
    let gen := BitVec.ofNat 32 (field b 8 4)
    let at_ (st : LaneState) : Option Nat :=
      (s.lanes.find? fun x => x.2.state = st && x.2.reqId = req && x.2.gen = gen).map fun x => x.1
    match at_ .taken with
    | some l => (s.laneHeld l).sendCpl o stOk []
    | none => match at_ .held with
      | some _ => s.sendCpl o stOk []
      | none => s.batonRefuse o (s.receivingFor o req) stNotOwner

/-- The Lane whose record of a request answers a query: a claim first (log 30). -/
def State.recorded (s : State) (req : Word) : Option Nat :=
  let mine (p : LaneState → Bool) : Option Nat := (s.lanes.find? fun x => p x.2.state && x.2.reqId = req).map fun x => x.1
  (mine fun (st : LaneState) => st = .held || st = .offered || st = .taken).orElse fun _ => mine fun (st : LaneState) => st = .released || st = .lost

/-- `BATON_QUERY` (R331). -/
def State.batonQuery (s : State) (f : Frame) : State :=
  let b := f.payload
  s.batonMsg 0x4C f (· = 16) (zeroAt · 9 3) fun s o =>
    let req := BitVec.ofNat 64 (field b 0 8)
    let rs := s.lanes.filter fun (x : Nat × Lane) => x.2.state = LaneState.receiving && x.2.offReq = req
    let s := rs.foldl (fun s x => s.laneArmed x.1) s
    match s.recorded req with
    | none => s.sendCpl o stOk (queryPayload req (0, 0))
    | some l =>
      let s := s.resolve l (field b 8 1) (BitVec.ofNat 32 (field b 12 4))
      s.sendCpl o stOk (queryPayload req (recordOf (s.lane l)))

end Sys2Proof.Machine
end

