-- ==== Sys2Proof/Machine/Search.lean ====
section
/-! DEFINITION. The vector search engine, unit 0x03: index checks, distances, the walk, the exact scan,
scratch and threads (R337 to R362). A query is worked out from its start each time more of its bytes have
arrived; every line is read once. -/

namespace Sys2Proof.Machine

/-! ### Form (R337, R344, R345) -/

/-- Bytes of a query element; 0 for a format that no query has. -/
def queryElem (fmt : Nat) : Nat := match fmt with | 1 => 4 | 2 => 2 | 3 => 2 | _ => 0

def searchBody (b : List Byte) : Byte :=
  let fl := field b 1 1
  let inline_ := fl % 2 = 1
  let exact := 2 ≤ fl % 4
  let es := queryElem (field b 2 1)
  let pf := field b 3 1
  let k := field b 4 2
  let cand := field b 6 2
  let rr := field b 8 2
  let qlen := if inline_ then b.length - 64 else field b 56 8
  let bad := b.length < 64 || 4 ≤ fl || !zeroAt b 10 2 || k = 0 || 255 < k || 8 < pf || 65536 < field b 12 4 || field b 24 8 < 256
    || (if exact then cand != 0 || rr != 0 || pf != 0 || field b 12 4 != 0
        else cand < k || 512 < cand || (rr != 0 && (rr < k || cand < rr)))
    || (if inline_ then field b 48 8 != 0 || field b 56 8 != 0 else b.length != 64)
    || qlen = 0 || (es != 0 && qlen % es != 0)
    || (field b 40 8 = 0 && field b 32 8 != 0)
  if bad then stMalformed else if es = 0 then stUnsupported else stOk

def searchForm : UnitForm where
  sel q k op := k < 64 && (q < 4 || (q = 0xFF && !isCommon (BitVec.ofNat 8 op)))
  op o := o = 1
  body := searchBody
  operands b :=
    [{ addr := field b 16 8, len := field b 24 8, rd := true }, { addr := field b 32 8, len := field b 40 8, rd := true },
     { addr := field b 48 8, len := field b 56 8, rd := true }]

/-- R358. -/
def searchOrder : List Byte :=
  [stExtentRevoked, stDomainDown, stVersionRetired, stNotOwner, stMalformed, stUnsupported, stIndexFault, stPoison, stTimeout]

/-! ### Index (R339 to R343) -/

structure Index where
  metric : Nat
  pq : Bool
  full : Nat
  degree : Nat
  dim : Nat
  pqM : Nat
  n : Nat
  entry : Nat
  nbr : Nat
  code : Nat
  fullOff : Nat
  label : Nat
  tomb : Nat
  cb : Nat

def indexOf (h : List Byte) : Index :=
  { metric := field h 3 1, pq := field h 4 1 = 1, full := field h 5 1, degree := field h 6 2, dim := field h 8 2, pqM := field h 10 2,
    n := field h 12 4, entry := field h 16 4, nbr := field h 24 8, code := field h 32 8, fullOff := field h 40 8,
    label := field h 48 8, tomb := field h 56 8, cb := field h 64 8 }

/-- The header is well formed (R343). -/
def indexOk (h : List Byte) : Bool :=
  let x := indexOf h
  field h 0 2 = 0x5E61 && field h 2 1 = 1 && x.metric ≤ 1 && (field h 4 1 = 1 || field h 4 1 = 2) && x.full ≤ 3
    && 1 ≤ x.degree && x.degree ≤ 64 && 32 ≤ x.dim && x.dim ≤ 4096 && x.dim % 32 = 0
    && (if x.pq then 1 ≤ x.pqM && x.pqM ≤ 256 && x.dim % max 1 x.pqM = 0 && x.dim / max 1 x.pqM ≤ 64 else x.pqM = 0)
    && 1 ≤ x.n && x.n ≤ 0xFFFFFFFE && x.entry < x.n && zeroAt h 20 4 && zeroAt h 72 184
    && [x.nbr, x.code, x.fullOff, x.label, x.tomb, x.cb].all (fun o => o % 64 = 0) && (x.full != 0 || x.fullOff = 0)

def Index.nbrStride (x : Index) : Nat := roundUp (4 + 4 * x.degree) 64
def Index.codeBytes (x : Index) : Nat := if x.pq then x.pqM else x.dim / 2
def Index.fullBytes (x : Index) : Nat := if x.full = 3 then x.dim + 4 else 2 * x.dim
def Index.fullStride (x : Index) : Nat := roundUp x.fullBytes 64
def Index.cbBytes (x : Index) : Nat := if x.pq then 512 * x.dim else 8 * x.dim

/-- Every section that the query uses lies within the operand (R343). -/
def Index.fits (x : Index) (len : Nat) (full : Bool) : Bool :=
  x.nbr + x.n * x.nbrStride ≤ len && x.code + x.n * x.codeBytes ≤ len && x.label + x.n * 8 ≤ len
    && x.tomb + (x.n + 7) / 8 ≤ len && x.cb + x.cbBytes ≤ len && (!full || x.fullOff + x.n * x.fullStride ≤ len)

/-! ### Distances (R350 to R352) -/

def term (metric : Nat) (a b : Fl) : Fl :=
  if metric = 0 then let d := (a.sub b).f32; (d.mul d).f32 else ((a.mul b).f32).neg

def distance (metric : Nat) (q x : List Fl) : Fl := fsum ((q.zip x).map fun p => term metric p.1 p.2)

/-- The table T of PQ8: by subspace, by centroid. -/
def pqTable (x : Index) (cb : List Byte) (q : List Fl) : List (List Fl) :=
  let w := x.dim / max 1 x.pqM
  (List.range x.pqM).map fun s => (List.range 256).map fun j =>
    distance x.metric ((q.drop (s * w)).take w) ((List.range w).map fun i => fp16.decode (field cb ((256 * s + j) * 2 * w + 2 * i) 2))

/-- The compressed distance of a node's code (R350). -/
def codeDist (x : Index) (cb : List Byte) (tab : List (List Fl)) (q : List Fl) (code : List Byte) : Fl :=
  if x.pq then fsum ((List.range x.pqM).map fun s => (tab.getD s []).getD (field code s 1) .nan)
  else distance x.metric q ((List.range x.dim).map fun d =>
    let c := field code (d / 2) 1 / 2 ^ (4 * (d % 2)) % 16
    ((ofF32 (field cb (4 * d) 4)).add ((ofF32 (field cb (4 * x.dim + 4 * d) 4)).mul (Fl.ofNat c)).f32).f32)

/-- A full vector's elements (R342, R351). -/
def fullVec (x : Index) (b : List Byte) : List Fl :=
  match x.full with
  | 1 => (List.range x.dim).map fun d => fp16.decode (field b (2 * d) 2)
  | 2 => (List.range x.dim).map fun d => bf16.decode (field b (2 * d) 2)
  | _ =>
    let sc := ofF32 (field b x.dim 4)
    (List.range x.dim).map fun d =>
      let v := signed 8 (field b d 1)
      ((Fl.fin (v < 0) v.natAbs 1).mul sc).f32

/-- R352: the better of two (distance, node) pairs. -/
def closer (a b : Fl × Nat) : Bool :=
  if a.1.isNan && b.1.isNan then a.2 < b.2
  else if a.1.isNan then false
  else if b.1.isNan then true
  else if a.1.lt b.1 then true
  else if b.1.lt a.1 then false
  else a.2 < b.2

/-! ### Reads that may have to wait -/

inductive Got (α : Type) where
  | ok (a : α)
  | wait
  | stop (st : Byte)

def Got.map {α β : Type} (f : α → β) : Got α → Got β
  | .ok a => .ok (f a)
  | .wait => .wait
  | .stop st => .stop st

/-- Bytes at a GFA: a poisoned sector is a condition. -/
def State.seek (s : State) (id gfa n : Nat) : State × Got (List Byte) :=
  match s.engRead id gfa n with
  | (s, none) => (s, .wait)
  | (s, some (b, bad)) => (s, if bad then .stop stPoison else .ok b)

/-- What a query has of its operands: GFAs of index and bitmap, header, codebook, table, query vector. -/
structure Query where
  id : Nat
  gfa : Nat
  allow : Option Nat
  x : Index
  cb : List Byte
  tab : List (List Fl)
  q : List Fl
  cand : Nat
  pf : Nat
  maxExp : Nat

/-- Where a walk stands. -/
structure Walk where
  /-- the candidate list, best first, each with whether it has been expanded -/
  c : List ((Fl × Nat) × Bool) := []
  e : List (Fl × Nat) := []
  v : List Nat := []
  exps : Nat := 0
  dists : Nat := 0
  fulls : Nat := 0
  hits : Nat := 0
  fetched : List Nat := []
  full : Bool := false

def Walk.counts (w : Walk) : List Nat := [w.exps, w.dists, w.fulls, w.hits]

/-- Is node v eligible? (R353) -/
def State.eligible (s : State) (y : Query) (v : Nat) : State × Got Bool :=
  match s.seek y.id (y.gfa + y.x.tomb + v / 8) 1 with
  | (s, .ok t) =>
    if mapBit t (v % 8) then (s, .ok false)
    else match y.allow with
      | none => (s, .ok true)
      | some g =>
        let (s, r) := s.seek y.id (g + v / 8) 1
        (s, r.map fun a => mapBit a (v % 8))
  | (s, .wait) => (s, .wait)
  | (s, .stop st) => (s, .stop st)

/-- add(v) of R353. -/
def State.addNode (s : State) (y : Query) (w : Walk) (v : Nat) : State × Walk × Got Unit :=
  match s.seek y.id (y.gfa + y.x.code + v * y.x.codeBytes) y.x.codeBytes with
  | (s, .wait) => (s, w, .wait)
  | (s, .stop st) => (s, w, .stop st)
  | (s, .ok code) =>
    let d := codeDist y.x y.cb y.tab y.q code
    match s.eligible y v with
    | (s, .wait) => (s, w, .wait)
    | (s, .stop st) => (s, w, .stop st)
    | (s, .ok el) =>
      let c := (insertBy (fun a b => closer a.1 b.1) ((d, v), false) w.c).take y.cand
      let e := if el then (insertBy closer (d, v) w.e).take y.cand else w.e
      (s, { w with c := c, e := e, v := v :: w.v, dists := w.dists + 1 }, .ok ())

/-- The neighbours of an expanded node, in order. -/
def State.visit (s : State) (y : Query) (w : Walk) : List Nat → State × Walk × Got Unit
  | [] => (s, w, .ok ())
  | v :: vs =>
    if y.x.n ≤ v then (s, w, .stop stIndexFault)
    else if w.v.contains v then State.visit s y w vs
    else if 16384 ≤ w.v.length then (s, { w with full := true }, .ok ())
    else match s.addNode y w v with
      | (s, w, .ok ()) => State.visit s y w vs
      | r => r

/-- The expansion of node u (R353, R355). -/
def State.expand (s : State) (y : Query) (w : Walk) (u : Nat) : State × Walk × Got Unit :=
  let w : Walk :=
    { w with
        c := w.c.map fun (x : (Fl × Nat) × Bool) => if x.1.2 = u then (x.1, true) else x
        exps := w.exps + 1
        hits := if w.fetched.contains u then w.hits + 1 else w.hits }
  let next : List Nat := ((w.c.filter fun x => !x.2).map fun x => x.1.2).take y.pf
  let w : Walk := { w with fetched := w.fetched ++ next }
  let g := y.gfa + y.x.nbr + u * y.x.nbrStride
  match s.seek y.id g 4 with
  | (s, .wait) => (s, w, .wait)
  | (s, .stop st) => (s, w, .stop st)
  | (s, .ok h) =>
    let n := field h 0 2
    if y.x.degree < n then (s, w, .stop stIndexFault)
    else match s.seek y.id (g + 4) (4 * n) with
      | (s, .wait) => (s, w, .wait)
      | (s, .stop st) => (s, w, .stop st)
      | (s, .ok r) => s.visit y w ((List.range n).map fun i => field r (4 * i) 4)

/-- The walk: at most one expansion for every node of the visited set. -/
def State.walkGo (y : Query) : Nat → State → Walk → State × Walk × Got Unit
  | 0, s, w => (s, w, .ok ())
  | f + 1, s, w =>
    if w.full || (y.maxExp != 0 && y.maxExp ≤ w.exps) then (s, w, .ok ())
    else match w.c.find? fun x => !x.2 with
      | none => (s, w, .ok ())
      | some x =>
        match s.expand y w x.1.2 with
        | (s, w, .ok ()) => State.walkGo y f s w
        | r => r

/-- The full distance of node v (R351). -/
def State.fullDist (s : State) (y : Query) (v : Nat) : State × Got Fl :=
  let (s, r) := s.seek y.id (y.gfa + y.x.fullOff + v * y.x.fullStride) y.x.fullBytes
  (s, r.map fun b => distance y.x.metric y.q (fullVec y.x b))

/-- Candidates ranked again by full distance. -/
def State.rerank (s : State) (y : Query) (w : Walk) : List (Fl × Nat) → List (Fl × Nat) → State × Walk × Got (List (Fl × Nat))
  | [], acc => (s, w, .ok acc)
  | c :: cs, acc =>
    match s.fullDist y c.2 with
    | (s, .ok d) => State.rerank s y { w with fulls := w.fulls + 1 } cs (insertBy closer (d, c.2) acc)
    | (s, .wait) => (s, w, .wait)
    | (s, .stop st) => (s, w, .stop st)

/-- The exact scan: nodes from `v` on (R356). -/
def State.scan (y : Query) (k : Nat) : Nat → Nat → State → Walk → List (Fl × Nat) → State × Walk × Got (List (Fl × Nat))
  | 0, _, s, w, acc => (s, w, .ok acc)
  | f + 1, v, s, w, acc =>
    match s.eligible y v with
    | (s, .wait) => (s, w, .wait)
    | (s, .stop st) => (s, w, .stop st)
    | (s, .ok el) =>
      if !el then State.scan y k f (v + 1) s w acc
      else match s.fullDist y v with
        | (s, .wait) => (s, w, .wait)
        | (s, .stop st) => (s, w, .stop st)
        | (s, .ok d) => State.scan y k f (v + 1) s { w with fulls := w.fulls + 1 } ((insertBy closer (d, v) acc).take k)

/-- The result items, with their labels (R357). -/
def State.items (s : State) (y : Query) : List (Fl × Nat) → State × Got (List Byte)
  | [] => (s, .ok [])
  | r :: rs =>
    match s.seek y.id (y.gfa + y.x.label + 8 * r.2) 8 with
    | (s, .ok l) =>
      let (s, t) := State.items s y rs
      (s, t.map fun t => leBytes 4 r.2 ++ leBytes 4 (toF32 r.1) ++ l ++ t)
    | (s, .wait) => (s, .wait)
    | (s, .stop st) => (s, .stop st)

/-! ### The query (R343, R347, R348, R357) -/

def Query.exact (b : List Byte) : Bool := 2 ≤ field b 1 1 % 4

/-- The walk or the scan, and the payload. -/
def State.answer (s : State) (y : Query) (b : List Byte) (lap : Nat) : State × Walk × Got (List Byte) :=
  let k := field b 4 2
  let rr := field b 8 2
  let ex := Query.exact b
  let found : State × Walk × Got (List (Fl × Nat)) :=
    if ex then State.scan y k y.x.n 0 s {} []
    else match s.addNode y {} y.x.entry with
      | (s, w, .wait) => (s, w, .wait)
      | (s, w, .stop st) => (s, w, .stop st)
      | (s, w, .ok ()) =>
        match State.walkGo y 16385 s w with
        | (s, w, .wait) => (s, w, .wait)
        | (s, w, .stop st) => (s, w, .stop st)
        | (s, w, .ok ()) => if rr = 0 then (s, w, .ok w.e) else s.rerank y w (w.e.take rr) []
  match found with
  | (s, w, .wait) => (s, w, .wait)
  | (s, w, .stop st) => (s, w, .stop st)
  | (s, w, .ok r) =>
    let r := r.take k
    let budget := !ex && !w.full && y.maxExp != 0 && w.exps = y.maxExp && w.c.any fun x => !x.2
    let fl := (if budget then 1 else 0) + (if w.full then 2 else 0) + (if rr != 0 || ex then 4 else 0)
    let (s, t) := s.items y r
    (s, w, t.map fun t => leBytes 2 r.length ++ [BitVec.ofNat 8 fl, 0] ++ leBytes 4 w.exps
      ++ leBytes 4 (if ex then w.fulls else w.dists) ++ leBytes 4 lap ++ t)

/-- The query vector, decoded. -/
def queryVec (fmt : Nat) (b : List Byte) : List Fl :=
  (List.range (b.length / max 1 (queryElem fmt))).map fun i => (fpForm fmt).decode (field b (i * queryElem fmt) (queryElem fmt))

/-- The query on its thread: header, query vector, codebook, then the search. -/
def State.queryGo (s : State) (id : Nat) (e : Eng) (lap : Nat) : State × Walk × Got (List Byte) :=
  let b := e.body
  let op (i : Nat) : Opnd := e.opnds.getD i ⟨0, 0, false, false⟩
  let ex := Query.exact b
  match s.seek id (op 0).gfa 256 with
  | (s, .wait) => (s, {}, .wait)
  | (s, .stop st) => (s, {}, .stop st)
  | (s, .ok h) =>
    let x := indexOf h
    let inline_ := field b 1 1 % 2 = 1
    let qlen := if inline_ then b.length - 64 else (op 2).len
    let rr := field b 8 2 != 0
    let conds := (if !indexOk h || qlen != x.dim * queryElem (field b 2 1) then [stMalformed] else [])
      ++ (if (rr || ex) && x.full = 0 then [stUnsupported] else [])
      ++ (if !x.fits (op 0).len (rr || ex) || ((op 1).len != 0 && (op 1).len < (x.n + 7) / 8) then [stIndexFault] else [])
    if conds != [] then (s, {}, .stop (firstByOrder searchOrder conds))
    else
      let (s, qv) : State × Got (List Byte) := if inline_ then (s, .ok (b.drop 64)) else s.seek id (op 2).gfa qlen
      match qv with
      | .wait => (s, {}, .wait)
      | .stop st => (s, {}, .stop st)
      | .ok qb =>
        let q := queryVec (field b 2 1) qb
        let (s, cb) : State × Got (List Byte) := if ex then (s, .ok []) else s.seek id ((op 0).gfa + x.cb) x.cbBytes
        match cb with
        | .wait => (s, {}, .wait)
        | .stop st => (s, {}, .stop st)
        | .ok cb =>
          s.answer { id := id, gfa := (op 0).gfa, allow := if (op 1).len = 0 then none else some (op 1).gfa, x := x, cb := cb,
                     tab := if x.pq && !ex then pqTable x cb q else [], q := q, cand := field b 6 2, pf := field b 3 1,
                     maxExp := field b 12 4 } b lap

/-- An SE_QUERY completes (R357, R362). -/
def State.searchEnd (s : State) (id : Nat) (st : Byte) (pay : List Byte := []) : State :=
  match s.eng id with
  | some e => (s.countQ e.quad .seStat (if st = stOk then 0 else 1)).endEng id st (if st = stOk then pay else [])
  | none => s

/-! ### Threads (R359, R360) -/

def State.scratchOn (s : State) (q : Nat) : Bool := bit (s.quad q .seCfg) 12
def State.threads (s : State) (q : Nat) : Nat :=
  if s.scratchOn q then min 4096 (s.extLen (bits (s.quad q .seCfg) 11 0) / 131072) else 0
def State.threadsBusy (s : State) (q : Nat) : Nat :=
  (s.unitCmds 3 q).countP fun c => match c.body with | .eng e => (match e.phase with | .thread _ => true | _ => false) | _ => false
/-- Queries that wait for a thread, with their places. -/
def State.threadless (s : State) (q : Nat) : List (Nat × Nat) :=
  (s.unitCmds 3 q).filterMap fun c => match c.body with
    | .eng e => (match e.phase with | .noThread n => some (n, c.id) | _ => none)
    | _ => none

/-- What stages 3 and 4 say of an operand of this device before it is read (R51, R166, R167): its extent is revoked, or
its domain is not UP. -/
def State.operandConds (s : State) (gfa : Nat) : List Byte :=
  match s.findExt (gfaOff gfa) with
  | none => [stExtentRevoked]
  | some x =>
    if s.closedExt x then [stExtentRevoked]
    else if s.extCoherent x && s.domState (s.extDomain x) != .up then [stDomainDown]
    else []

/-- The binding of a command for region r: the Lap of the version it sees, 0 for a private one, or a condition (R207,
R348, R374). -/
def State.bindConds (s : State) (e : Eng) (r : Nat) : Nat × List Byte :=
  match (e.binds.find? (·.region = r)).filter fun b => b.mode != .none with
  | none => (0, [stNotOwner])
  | some b => match s.verdict r (some b) false with
    | .refused st _ => (0, if st = stRetry then [] else [st])
    | .reads v => (match v with | some v => if v.mode = .read then v.lap.toNat else 0 | none => 0, [])
    | .writes _ => (0, [])

/-- The version that a query reads its index in (R348): its Lap, or conditions. -/
def State.indexBind (s : State) (e : Eng) : Nat × List Byte :=
  let o := e.opnds.getD 0 ⟨0, 0, false, false⟩
  let off := gfaOff o.gfa
  if gfaDev o.gfa != s.ownId then (0, [stUnsupported])
  else
    let here := s.operandConds o.gfa
    match s.regionAt off with
    | none => (0, here ++ [stUnsupported])
    | some r =>
      let (lap, cs) := s.bindConds e r
      (lap, here ++ cs ++ if s.regBase r + s.regLen r < off + o.len then [stUnsupported] else [])

/-- A command of unit 0x03 goes on. -/
def State.searchRun (s : State) (id : Nat) (e : Eng) : State :=
  let q := e.quad
  match e.phase with
  | .thread counted =>
    if e.waits != 0 then s
    else
      let (s, w, r) := s.queryGo id e (s.indexBind e).1
      let s := ((w.counts.zip counted).zipIdx).foldl (fun s x =>
        if x.1.2 < x.1.1 then s.countQ q .seStat (x.2 + 2) (x.1.1 - x.1.2) else s) s
      match r with
      | .ok pay => s.searchEnd id stOk pay
      | .stop st => s.addCond id st
      | .wait => s.setEng id fun e => { e with phase := .thread ((w.counts.zip counted).map fun x => max x.1 x.2) }
  | .noThread _ => if s.scratchOn q then s else s.searchEnd id stUnsupported
  | _ =>
    let conds := (s.indexBind e).2 ++ (if s.scratchOn q then [] else [stUnsupported])
    if conds != [] then s.searchEnd id (firstByOrder searchOrder conds)
    else
      let ws := s.threadless q
      if ws = [] && s.threadsBusy q < s.threads q then
        (s.setEng id fun e => { e with phase := .thread [0, 0, 0, 0] }).owe (.eng id)
      else
        let n := ws.foldl (fun m w => max m (w.1 + 1)) 0
        (s.setEng id fun e => { e with phase := .noThread n }).countQ q .seStat 6

/-- A waiting query takes a free thread, in arrival order (R360). -/
def State.threadFree (s : State) (q : Nat) : State :=
  let ws := s.threadless q
  if s.threadsBusy q < s.threads q then
    match ws.foldl (fun (b : Option (Nat × Nat)) w => match b with
        | some x => if w.1 < x.1 then some w else b
        | none => some w) none with
    | some w => (s.setEng w.2 fun e => { e with phase := .thread [0, 0, 0, 0] }).owe (.eng w.2)
    | none => s
  else s

/-- A write of SE_CFG (R359). -/
def State.scratchWrite (s : State) (q : Nat) (v : Word) : State :=
  let a : RegAt := { reg := .seCfg, inst := q }
  -- DEDUCED: while a thread is busy scr_en keeps its value, and an enabling write is refused (log 116)
  if s.threadsBusy q != 0 then
    let s := if bit (s.at a) 12 then s else s.putAt a (putBits (storedWrite s a v) 12 12 0)
    if bit v 12 then { s with seStatus := tset 0 s.seStatus q stUnsupported } else s
  else
    let (s, r) := s.enableWrite a v fun e => s.scratchable q e && 131072 ≤ s.extLen e
    let s := (s.threadless q).foldl (fun s w => s.owe (.eng w.2)) s
    match r with
    | some st => { s with seStatus := tset 0 s.seStatus q st }
    | none => s

end Sys2Proof.Machine
end

