-- ==== Sys2Proof/Machine/Gather.lean ====
section
/-! DEFINITION. The embedding gather unit, unit 0x04: tables, gather, scatter-add, Relay groups and Heats
(R363 to R398). -/

namespace Sys2Proof.Machine

/-! ### Form (R366, R368, R369) -/

def gatherBody (b : List Byte) : Byte :=
  let op := field b 0 1
  let fl := field b 1 1
  let relay := fl % 2 = 1
  let n := field b 4 4
  let bag := field b 8 2
  let h := field b 12 4
  let bad := b.length != 64 || 16 ≤ fl || 63 < field b 3 1 || n = 0 || 1048576 < n || bag = 0 || 256 < bag
    || !zeroAt b 10 2 || !zeroAt b 56 8 || (16383 < h && h != 0xFFFFFFFF) || field b 32 8 < 64 || n % max 1 bag != 0
    || (op = 1 && fl / 2 % 2 = 1) || (op = 2 && bag != 1) || (!relay && (field b 3 1 != 0 || field b 16 8 != 0))
    || (op = 2 && fl / 2 % 4 = 0)
  if bad then stMalformed else if queryElem (field b 2 1) = 0 then stUnsupported else stOk

def gatherForm : UnitForm where
  sel q k op := k < 32 && (q < 4 || (q = 0xFF && !isCommon (BitVec.ofNat 8 op)))
  op o := o = 1 || o = 2
  body := gatherBody
  operands b :=
    [{ addr := field b 24 8, len := field b 32 8, rd := true, wr := field b 0 1 = 2 },
     { addr := field b 40 8, len := 4 * field b 4 4, rd := true }]

/-- R394. -/
def gatherOrder : List Byte :=
  [stExtentRevoked, stDomainDown, stVersionRetired, stNotOwner, stVersionConflict, stSegmentFault, stMalformed, stUnsupported,
   stIndexFault, stFenced, stPoison, stAborted, stEngineDisabled, stTimeout]

/-! ### Tables (R363 to R365, R372) -/

structure Tab where
  fmt : Nat
  cols : Nat
  rows : Nat
  stride : Nat
  base : Nat
  total : Nat

def tabOf (h : List Byte) : Tab :=
  { fmt := field h 3 1, cols := field h 4 2, rows := field h 8 4, stride := field h 12 4, base := field h 16 4, total := field h 20 4 }

def Tab.rowBytes (t : Tab) : Nat := if t.fmt = 1 then t.cols + 4 else if t.fmt = 2 then t.cols / 2 + 4 else 4 * t.cols

def tabOk (h : List Byte) : Bool :=
  let t := tabOf h
  field h 0 2 = 0xE7B1 && field h 2 1 = 1 && 1 ≤ t.fmt && t.fmt ≤ 3 && 8 ≤ t.cols && t.cols ≤ 8192 && t.cols % 8 = 0 && zeroAt h 6 2
    && 1 ≤ t.rows && t.rows ≤ 0xFFFFFFFE && t.stride % 16 = 0 && t.rowBytes ≤ t.stride && t.base + t.cols ≤ t.total && zeroAt h 24 40

/-- The FP32 values of a row (R365). -/
def tabRow (t : Tab) (b : List Byte) : List Fl :=
  if t.fmt = 3 then (List.range t.cols).map fun c => ofF32 (field b (4 * c) 4)
  else
    let codes := if t.fmt = 1 then t.cols else t.cols / 2
    let sc := fp16.decode (field b codes 2)
    let off := fp16.decode (field b (codes + 2) 2)
    (List.range t.cols).map fun c =>
      let code := if t.fmt = 1 then field b c 1 else field b (c / 2) 1 / 2 ^ (4 * (c % 2)) % 16
      ((sc.mul (Fl.ofNat code)).add off).f32

/-- Rows pooled column by column, in order, from the first (R376). -/
def poolRows (cols : Nat) (rows : List (List Fl)) : List Fl :=
  match rows with
  | [] => List.replicate cols .zero
  | r :: rs => rs.foldl (fun a b => (a.zip b).map fun x => (x.1.add x.2).f32) r

/-- Values in the output format, sr 0 and sat 0 (R376). -/
def outBytes (fmt : Nat) (xs : List Fl) : List Byte := xs.flatMap fun x => leBytes (queryElem fmt) (putElem fmt x false none)

/-- Update elements decoded to FP32 bytes (R377). -/
def updBytes (fmt : Nat) (b : List Byte) : List Byte :=
  if fmt = 1 then b
  else (List.range (b.length / 2)).flatMap fun i => leBytes 4 (toF32 ((fpForm fmt).decode (field b (2 * i) 2)))

/-! ### Groups (R380) -/

structure GroupMember where
  device : Nat
  base : Nat
  cols : Nat
  valid : Bool

def State.groupCfg (s : State) (g : Nat) : Word := s.hub .guGrpCfg g
def State.groupSize (s : State) (g : Nat) : Nat := bits (s.groupCfg g) 38 32
def State.groupSelf (s : State) (g : Nat) : Nat := bits (s.groupCfg g) 29 24
def State.groupQuad (s : State) (g : Nat) : Nat := bits (s.groupCfg g) 9 8
def State.groupValid (s : State) (g : Nat) : Bool := bit (s.groupCfg g) 0
/-- relay_to in ns; below 10 µs acts as 10 µs. -/
def State.relayTo (s : State) (g : Nat) : Nat := max 10 (bits (s.groupCfg g) 63 48) * 1000
def State.groupMember (s : State) (g i : Nat) : GroupMember :=
  let w := s.hub .guGrpMember g i
  { device := bits w 61 46, base := bits w 45 22, cols := bits w 17 4, valid := bit w 0 }
def State.groupTotal (s : State) (g : Nat) : Nat :=
  let m := s.groupMember g (s.groupSize g - 1)
  m.base + m.cols

def State.group (s : State) (g : Nat) : Group := tget {} s.gu.groups g
def State.setGroup (s : State) (g : Nat) (f : Group → Group) : State :=
  { s with gu := { s.gu with groups := tmod {} s.gu.groups g f } }

/-- The members tile their columns, and no answer's row is too long (R380, R381). -/
def State.groupTiles (s : State) (g es : Nat) : Bool :=
  let n := s.groupSize g
  1 ≤ n && n ≤ 64 && s.groupSelf g < n && (List.range n).all fun i =>
    let m := s.groupMember g i
    m.valid && 8 ≤ m.cols && m.cols ≤ 8192 && m.cols * es ≤ 4032
      && m.base = (if i = 0 then 0 else (s.groupMember g (i - 1)).base + (s.groupMember g (i - 1)).cols)

def State.bufOn (s : State) (q : Nat) : Bool := bit (s.quad q .guCfg) 12

/-! ### The command's own fields -/

def Eng.relay (e : Eng) : Bool := field e.body 1 1 % 2 = 1
def Eng.det (e : Eng) : Bool := field e.body 1 1 / 2 % 2 = 1
def Eng.pad (e : Eng) : Bool := field e.body 1 1 / 8 % 2 = 1
def Eng.iofmt (e : Eng) : Nat := field e.body 2 1
def Eng.grp (e : Eng) : Nat := field e.body 3 1
def Eng.batch (e : Eng) : Nat := field e.body 4 4
def Eng.bag (e : Eng) : Nat := max 1 (field e.body 8 2)
def Eng.round (e : Eng) : Nat := field e.body 16 8
def Eng.tabGfa (e : Eng) : Nat := (e.opnds.getD 0 ⟨0, 0, false, false⟩).gfa
/-- Bytes from one io row to the next (R370). -/
def Eng.ostride (e : Eng) (t : Tab) : Nat := roundUp (t.total * queryElem e.iofmt) 64

def Eng.gu? (e : Eng) : Option GuRun := match e.phase with | .gu g => some g | _ => none
def State.setGu (s : State) (id : Nat) (f : GuRun → GuRun) : State :=
  s.setEng id fun e => match e.phase with | .gu g => { e with phase := .gu (f g) } | _ => e

/-- The command that runs for a group, in its round. -/
def State.groupCmd (s : State) (g : Nat) : Option (Nat × Eng × GuRun) :=
  (s.group g).active.bind fun id => (s.eng id).bind fun e => e.gu?.map fun r => (id, e, r)

/-! ### Held parts (R386, R387) -/

def Cmd.heat? (c : Cmd) : Option HeldPart := match c.body with | .heat h => some h | _ => none
def State.heat (s : State) (id : Nat) : Option HeldPart := (s.findCmd id).bind Cmd.heat?
def State.setHeat (s : State) (id : Nat) (f : HeldPart → HeldPart) : State :=
  s.setCmd id fun c => match c.body with | .heat h => { c with body := .heat (f h) } | _ => c

def HeldPart.round (h : HeldPart) : Nat := field h.payload 8 8
def HeldPart.n (h : HeldPart) : Nat := field h.payload 4 2
def HeldPart.last (h : HeldPart) : Bool := field h.payload 3 1 % 2 = 1
def HeldPart.index (h : HeldPart) (i : Nat) : Nat := field h.payload (32 + 4 * i) 4

/-- Parts held in a quadrant's buffer until they are answered (R387, R389), and the parts of one round of a group. -/
def State.heldOn (s : State) (q : Nat) : List (Nat × HeldPart) :=
  s.cmds.filterMap fun c => c.heat?.bind fun h => if h.quad = q && h.buffered then some (c.id, h) else none
def State.heldOf (s : State) (g round : Nat) : List (Nat × HeldPart) :=
  s.cmds.filterMap fun c => c.heat?.bind fun h => if h.group = g && h.round = round then some (c.id, h) else none

/-- A part is answered: a 16-byte header and rows with OK, nothing otherwise (R388). -/
def State.answerPart (s : State) (id : Nat) (st : Byte) (lap rows : Nat) (data : List Byte) : State :=
  match s.findCmd id with
  | some c =>
    match c.src with
    | .msg o => (s.dropCmd id).sendCpl o st (if st = stOk then leBytes 4 lap ++ leBytes 2 rows ++ List.replicate 10 0 ++ data else [])
    | _ => s
  | none => s

/-! ### Ends (R390 to R393, R398) -/

def gatherResult (r : GuRun) : List Byte :=
  leBytes 4 r.lap ++ [if r.lapDiffers then 1 else 0, 0, 0, 0] ++ leBytes 4 r.done ++ leBytes 4 r.padded

/-- The table's binding (R374): the Lap of its version, and a condition. The Lap of a private version is that of the
version it is based on. -/
def State.tableBind (s : State) (e : Eng) : Nat × List Byte :=
  if gfaDev e.tabGfa != s.ownId then (0, [stUnsupported])
  else match s.regionAt (gfaOff e.tabGfa) with
    | none => (0, [])
    | some r =>
      let (lap, cs) := s.bindConds e r
      let own := (e.binds.find? (·.region = r)).filter fun b => b.mode != .none
      (if lap != 0 then lap else match own with | some b => b.lap.toNat | none => 0, cs)

/-- A command of unit 0x04 completes; a relay command ends its round here. Its result tells the Lap of its table
whatever the condition (R393). -/
def State.gatherEnd (s : State) (id : Nat) (st : Byte) : State :=
  match s.findCmd id, s.eng id with
  | some c, some e =>
    let r := e.gu?.getD { lap := (s.tableBind e).1 }
    let g := e.grp
    let mine := e.relay && (s.group g).active = some id
    let s := s.countQ e.quad .guStat (if st = stOk then 0 else 1)
    let s := if !mine then s
      else
        let s := s.setGroup g fun x => { x with active := none, completed := some e.round }
        let s := (s.heldOf g e.round).foldl (fun s h => s.answerPart h.1 (if st = stOk then stTimeout else st) 0 0 []) s
        s.cmds.foldl (fun s c => match c.body with
          | .eng x => if x.unit = 4 && x.started && x.relay && x.grp = g && x.phase = .none && c.id != id then s.owe (.eng c.id) else s
          | _ => s) s
    let s := s.endEng id st (gatherResult r)
    let h := field e.body 12 4
    if st = stOk && h != 0xFFFFFFFF then s.hurdleAdvance h c.tenant else s
  | _, _ => s

/-! ### Start (R371 to R374, R381, R382) -/

/-- Conditions of a relay command at stage 6. -/
def State.relayConds (s : State) (e : Eng) (t : Tab) : List Byte :=
  let g := e.grp
  let m := s.groupMember g (s.groupSelf g)
  let ok := s.groupValid g && s.groupQuad g = e.quad && s.bufOn e.quad && s.groupTiles g (queryElem e.iofmt)
  (if ok then [] else [stUnsupported])
    ++ (if t.cols != m.cols || t.base != m.base || t.total != s.groupTotal g then [stMalformed] else [])
    ++ (match (s.group g).started with | some k => if e.round ≤ k then [stMalformed] else [] | none => [])

/-- The header has been read: every condition of the start, then the io operand. -/
def State.gatherBegin (s : State) (id : Nat) (c : Cmd) (e : Eng) (h : List Byte) : State :=
  let t := tabOf h
  let (lap, bc) := s.tableBind e
  let rows := if e.op = 1 then e.batch / e.bag else e.batch
  let ioLen := rows * e.ostride t
  let (s, io) := s.translate c.ctx (field e.body 48 8) ioLen { r := e.op = 2, w := e.op = 1 }
  let idxGfa := (e.opnds.getD 1 ⟨0, 0, false, false⟩).gfa
  let far := gfaDev idxGfa != s.ownId || (match io with | some g => gfaDev g != s.ownId | none => false)
  let reach (g : Nat) : List Byte := if gfaDev g = s.ownId then s.operandConds g else []
  let conds := reach e.tabGfa ++ reach idxGfa ++ (match io with | some g => reach g | none => []) ++ bc ++ (if tabOk h then [] else [stMalformed])
    ++ (if e.relay then s.relayConds e t else [])
    ++ (if e.op = 2 && (t.fmt != 3 || (!e.det && bit (s.hub .hubDetCfg) 1)) then [stUnsupported] else []) ++ (if far then [stUnsupported] else [])
    ++ (if (e.opnds.getD 0 ⟨0, 0, false, false⟩).len < 64 + t.rows * t.stride then [stIndexFault] else [])
    ++ (if tabOk h && io.isNone then [stSegmentFault] else [])
  if conds != [] then s.gatherEnd id (firstByOrder gatherOrder conds)
  else
    -- the descriptor holds the io operand and its length too (R67)
    let s := s.setEng id fun e =>
      { e with phase := .gu { hdr := h, io := io.getD 0, lap := lap
                              refused := ((s.group e.grp).refused.filter fun x => e.relay && e.det && x.1 = e.round).map fun x => x.2 }
               opnds := e.opnds ++ [{ gfa := io.getD 0, len := ioLen, rd := e.op = 2, wr := e.op = 1 }], fetched := [] }
    let s := if e.relay then s.setGroup e.grp fun x => { x with active := some id, started := some e.round } else s
    s.owe (.eng id)

/-- Stage 6 begins: a relay command waits for its group; then the header is read (R372, R382). -/
def State.gatherStart (s : State) (id : Nat) (c : Cmd) (e : Eng) : State :=
  if e.relay && (s.group e.grp).active.isSome then s
  else if gfaDev e.tabGfa != s.ownId then s.gatherEnd id stUnsupported
  else match s.engRead id e.tabGfa 64 with
    | (s, none) => s
    | (s, some (h, bad)) => if bad then s.addCond id stPoison else s.gatherBegin id c e h

/-- The index list is read whole and checked (R373). -/
def State.gatherIndex (s : State) (id : Nat) (e : Eng) (t : Tab) : State :=
  match s.engRead id (e.opnds.getD 1 ⟨0, 0, false, false⟩).gfa (4 * e.batch) with
  | (s, none) => s
  | (s, some (b, bad)) =>
    let idx := (List.range e.batch).map fun i => field b (4 * i) 4
    if bad then s.addCond id stPoison
    else if idx.any fun i => t.rows ≤ i && !(e.pad && i = 0xFFFFFFFF) then s.addCond id stIndexFault
    else
      let s := s.setEng id fun e => { e with fetched := [] }
      let s := s.setGu id fun r => { r with idx := some idx, padded := idx.countP fun i => e.pad && i = 0xFFFFFFFF }
      let s := s.owe (.eng id)
      -- the parts of this round that wait may be served (R386, row 4)
      if e.relay then (s.heldOf e.grp e.round).foldl (fun s h => s.owe (.part h.1)) s else s

/-! ### Own share (R376, R377) -/

/-- Rows of a table, or nothing while some is still to come; whether one was poisoned. Rows of a region go by their
version, published ones through the engine cache; all others are read at the point of coherence (R375). -/
def State.tabRows (s : State) (id : Nat) (e : Eng) (t : Tab) (is : List Nat) : State × Option (List (List Fl) × Bool) :=
  let (s, rs) := is.foldl (fun (a : State × List (Option (List Byte × Bool))) i =>
    let (s, x) := a.1.engRead id (e.tabGfa + 64 + i * t.stride) t.rowBytes (s.regionAt (gfaOff e.tabGfa)).isNone
    (s, a.2 ++ [x])) (s, [])
  if rs.all Option.isSome then
    let got := rs.filterMap fun x => x
    (s, some (got.map fun x => tabRow t x.1, got.any fun x => x.2))
  else (s, none)

/-- Non-padding indices of positions p to p + n - 1. -/
def realIdx (pad : Bool) (idx : List Nat) (p n : Nat) : List Nat := ((idx.drop p).take n).filter fun i => !(pad && i = 0xFFFFFFFF)

/-- The row that was being written, or the position that was being added, has been: one of its own share counts in `done`
(R393). A condition leaves it uncounted. -/
def State.flightDone (s : State) (id : Nat) : State :=
  match s.eng id with
  | some x =>
    if x.waits != 0 || x.conds != [] then s
    else s.setGu id fun r => { r with flight := none, done := if r.flight = some true then r.done + 1 else r.done }
  | none => s

/-- Output rows of a gather, one after another. -/
def State.gatherRows (id : Nat) (e : Eng) (t : Tab) (io : Nat) (idx : List Nat) : Nat → State → State
  | 0, s => s
  | f + 1, s =>
    let s := s.flightDone id
    match (s.eng id).bind fun x => x.gu?.map fun r => (x, r) with
    | none => s
    | some (x, r) =>
      if x.waits != 0 || x.conds != [] then s
      else if e.batch / e.bag ≤ r.next then s.setGu id fun r => { r with ownDone := true }
      else
        let is := realIdx e.pad idx (r.next * e.bag) e.bag
        match s.tabRows id e t is with
        | (s, none) => s
        | (s, some (rows, bad)) =>
          let s := s.countQ e.quad .guStat 2 is.length
          if bad then s.addCond id stPoison
          else
            let es := queryElem e.iofmt
            let s := s.setEng id fun e => { e with fetched := [] }
            let s := s.setGu id fun r => { r with next := r.next + 1, flight := some true }
            let s := s.engWrite id (io + r.next * e.ostride t + t.base * es) (outBytes e.iofmt (poolRows t.cols rows))
            State.gatherRows id e t io idx f s

/-- Adds of one row, an atomic operation for each line (R377). -/
def rowAdds (gfa : Nat) (bs : List Byte) : List Access :=
  (cuts 128 gfa bs.length).map fun x =>
    { kind := .atomic, gfa := x.1, len := x.2, data := (bs.drop (x.1 - gfa)).take x.2, aop := aopRow }

/-- Perform waiting adds, one position after another. -/
def State.addRows (id : Nat) (e : Eng) (t : Tab) : Nat → State → State
  | 0, s => s
  | f + 1, s =>
    let s := s.flightDone id
    match s.eng id with
    | none => s
    | some x =>
      if x.waits != 0 || x.conds != [] then s
      else match x.gu?.map fun r => r.work with
        | some (w :: ws) =>
          let s := s.setGu id fun r => { r with work := ws, flight := some w.2.2 }
          State.addRows id e t f ((rowAdds (e.tabGfa + 64 + w.1 * t.stride) w.2.1).foldl (fun s a => s.engAccess id a) s)
        | _ => s

/-- Updates of a scatter, one position after another: read, then added, or kept for a round with det 1. -/
def State.scatterRows (id : Nat) (e : Eng) (t : Tab) (io : Nat) (idx : List Nat) : Nat → State → State
  | 0, s => s
  | f + 1, s =>
    let s := s.flightDone id
    match (s.eng id).bind fun x => x.gu?.map fun r => (x, r) with
    | none => s
    | some (x, r) =>
      if x.waits != 0 || x.conds != [] then s
      else if e.batch ≤ r.next then s.setGu id fun r => { r with ownDone := true }
      else
        let i := idx.getD r.next 0
        if e.pad && i = 0xFFFFFFFF then State.scatterRows id e t io idx f (s.setGu id fun r => { r with next := r.next + 1 })
        else
          let es := queryElem e.iofmt
          match s.engRead id (io + r.next * e.ostride t + t.base * es) (t.cols * es) with
          | (s, none) => s
          | (s, some (b, bad)) =>
            if bad then s.addCond id stPoison
            else
              let s := s.setEng id fun e => { e with fetched := [] }
              let u := updBytes e.iofmt b
              let hold := e.relay && e.det
              let s := s.setGu id fun r =>
                { r with next := r.next + 1, upd := if hold then r.upd ++ [(i, u)] else r.upd
                         work := if hold then [] else [(i, u, true)] }
              State.scatterRows id e t io idx f (if hold then s else s.addRows id e t 1)

/-! ### Heats sent (R383 to R386) -/

/-- Entries of a full part for an owner of `cols` columns (R385). -/
def partFull (kind bag cols es : Nat) : Nat :=
  let fits (n : Nat) : Bool :=
    let body := roundUp (4 * n) 8
    if kind = 1 then n % bag = 0 && 32 + body ≤ 4096 && 16 + n / bag * cols * es ≤ 4096 else 32 + body + n * cols * es ≤ 4096
  ((List.range 1025).filter fun n => 1 ≤ n && fits n).foldl max 0

/-- A part's header and indices. -/
def partHead (e : Eng) (r : GuRun) (t : Tab) (self i n : Nat) (last : Bool) (is : List Nat) (no : Nat) : List Byte :=
  let idx := is.flatMap fun x => leBytes 4 x
  [BitVec.ofNat 8 e.grp, e.op, BitVec.ofNat 8 self,
   BitVec.ofNat 8 ((if last then 1 else 0) + (if e.det then 2 else 0) + (if e.pad then 4 else 0))]
    ++ leBytes 2 n ++ leBytes 2 no ++ leBytes 8 e.round ++ leBytes 4 r.lap ++ leBytes 2 e.bag ++ [BitVec.ofNat 8 e.iofmt, 0]
    ++ leBytes 4 i ++ leBytes 4 t.rows ++ idx ++ List.replicate (roundUp idx.length 8 - idx.length) 0

/-- Part k of a command leaves for its owner. -/
def State.sendPart (s : State) (id k : Nat) (p : SentPart) : State :=
  s.deviceReq (.heat id k) p.owner 2 0x50
    { flags := BitVec.ofNat 16 (2 ^ 11), addr := BitVec.ofNat 64 (mkGfa p.owner 0) } p.payload

/-- The parts of a Heat to every other member, as far as their bytes are here. -/
def State.sendParts (id : Nat) (e : Eng) (t : Tab) (io : Nat) (idx : List Nat) : Nat → State → State
  | 0, s => s
  | f + 1, s =>
    match (s.eng id).bind Eng.gu? with
    | none => s
    | some r =>
      let g := e.grp
      let self := s.groupSelf g
      if s.groupSize g ≤ r.sendTo then s
      else if r.sendTo = self then State.sendParts id e t io idx f (s.setGu id fun r => { r with sendTo := r.sendTo + 1 })
      else
        let m := s.groupMember g r.sendTo
        let es := queryElem e.iofmt
        let full := max 1 (partFull e.op.toNat e.bag m.cols es)
        let n := min full (e.batch - r.sendPos)
        let last := e.batch ≤ r.sendPos + n
        let head := partHead e r t self r.sendPos n last ((idx.drop r.sendPos).take n) (r.sendPos / full)
        let (s, ups) : State × List (Option (List Byte × Bool)) :=
          if e.op = 1 then (s, [])
          else (List.range n).foldl (fun (a : State × List (Option (List Byte × Bool))) i =>
            let (s, x) := a.1.engRead id (io + (r.sendPos + i) * e.ostride t + m.base * es) (m.cols * es)
            (s, a.2 ++ [x])) (s, [])
        if !ups.all Option.isSome then s
        else
          let got := ups.filterMap fun x => x
          if got.any fun x => x.2 then s.addCond id stPoison
          else
            let p : SentPart := { owner := m.device, payload := head ++ got.flatMap fun x => x.1, pos := r.sendPos, n := n }
            let k := r.parts.length
            let s := s.setEng id fun e => { e with fetched := [] }
            let s := s.setGu id fun r =>
              { r with parts := r.parts ++ [p], sendTo := if last then r.sendTo + 1 else r.sendTo
                       sendPos := if last then 0 else r.sendPos + n }
            State.sendParts id e t io idx f (s.sendPart id k p)

/-- The answer to part k (R386, R388, R390). -/
def State.heatAnswer (s : State) (id k : Nat) (st : Byte) (data : List Byte) : State :=
  match s.eng id with
  | none => s
  | some e =>
    match e.gu? with
    | none => s
    | some r =>
      match r.parts[k]? with
      | none => s
      | some p =>
        let put (s : State) (p : SentPart) : State := s.setGu id fun r => { r with parts := r.parts.set k p }
        if st = stRetry then
          let b := if p.bound = 0 then s.boInit else min (2 * p.bound) s.boMax
          put s { p with backoff := some (s.now, b), bound := b }
        else if st != stOk then s.addCond id st
        else
          let s := put s { p with answered := true, backoff := none }
          let s := s.setGu id fun r => { r with lapDiffers := r.lapDiffers || field data 0 4 != r.lap }
          let s := if e.op != 1 then s
            else
              let t := tabOf r.hdr
              let es := queryElem e.iofmt
              let i := (List.range (s.groupSize e.grp)).find? fun i => (s.groupMember e.grp i).device = p.owner
              let m := s.groupMember e.grp (i.getD 0)
              let w := m.cols * es
              (List.range (p.n / e.bag)).foldl (fun s j =>
                s.engWrite id (r.io + (p.pos / e.bag + j) * e.ostride t + m.base * es) (slice data (16 + j * w) w)) s
          s.owe (.eng id)

/-- A part refused with RETRY is sent again after its backoff (R386, R188). -/
def State.heatRetry (s : State) (id k : Nat) : State :=
  match (s.eng id).bind fun e => e.gu?.bind fun r => r.parts[k]? with
  | some p =>
    match p.backoff with
    | some (t, b) =>
      if b ≤ 2 * (s.now - t) && !s.stopping id then
        let p := { p with backoff := none }
        (s.setGu id fun r => { r with parts := r.parts.set k p }).sendPart id k p
      else s
    | none => s
  | none => s

/-! ### Heats received (R386 to R389) -/

/-- Line l for a held part: of a published version through the engine cache, else at the point of coherence (R375). -/
def State.partLine (s : State) (h l : Nat) : State × Option Fetched :=
  match s.heat h with
  | none => (s, none)
  | some x =>
    match x.fetched.find? (·.line = l) with
    | some y => (s, some y)
    | none =>
      let asked := s.cmds.any fun c => match c.src, c.body with
        | .heat k, .access a => k = h && a.kind = .read && a.gfa / 128 = l
        | _, _ => false
      let key := if (s.regionAt (gfaOff (l * 128))).isSome then s.ecKey (s.ownerBinds h) l else none
      match (key.bind fun v => s.ecFind x.quad l v).filter fun y => y.valid = BitVec.allOnes 128 with
      | some y =>
        let z : Fetched := { line := l, data := y.data, poison := y.poison.zeroExtend 64 }
        ((s.setHeat h fun x => { x with fetched := x.fetched ++ [z] }).countQ x.quad .qdEcStat 0, some z)
      | none =>
      if asked then (s, none)
      else
        let ctx := match s.findCmd h with | some c => c.ctx | none => 0
        let s := if key.isSome then s.countQ x.quad .qdEcStat 1 else s
        let s := (s.setHeat h fun x => { x with waits := x.waits + 1 }).internal (.heat h) ctx
          { kind := .read, vol := key.isNone, gfa := l * 128, len := 128 }
        (s, (s.heat h).bind fun x => x.fetched.find? (·.line = l))

/-- Rows for a held part. -/
def State.partRows (s : State) (h : Nat) (e : Eng) (t : Tab) (is : List Nat) : State × Option (List (List Fl) × Bool) :=
  let row (i : Nat) : Nat := e.tabGfa + 64 + i * t.stride
  let ls := (is.flatMap fun i => linesOf (row i) t.rowBytes).dedup
  let s := ls.foldl (fun s l => (s.partLine h l).1) s
  match s.heat h with
  | none => (s, none)
  | some x =>
    if ls.all fun l => x.fetched.any fun y => y.line = l then
      let got := is.map fun i => gather ((linesOf (row i) t.rowBytes).filterMap fun l => x.fetched.find? (·.line = l)) (row i) t.rowBytes
      (s, some (got.map fun x => tabRow t x.1, got.any fun x => x.2))
    else (s, none)

/-- Rows 5 and 6 of R386 against the owner's command and table. -/
def partCheck (e : Eng) (t : Tab) (h : HeldPart) : Byte :=
  let b := h.payload
  let fl := field b 3 1
  if field b 1 1 != e.op.toNat || (fl / 2 % 2 = 1) != e.det || (fl / 4 % 2 = 1) != e.pad || field b 20 2 != e.bag
      || field b 22 1 != e.iofmt || field b 28 4 != t.rows || (e.op = 1 && h.n % e.bag != 0) then stMalformed
  else if (List.range h.n).any fun i => t.rows ≤ h.index i && !(e.pad && h.index i = 0xFFFFFFFF) then stIndexFault
  else stOk

/-- An owner refuses a part; in a round with det 1 it refuses every part with that status (R389). -/
def State.refusePart (s : State) (id o : Nat) (e : Eng) (st : Byte) : State :=
  if e.det then
    let s := s.setGu o fun r => { r with refused := some st }
    (s.heldOf e.grp e.round).foldl (fun s h => s.answerPart h.1 st 0 0 []) s
  else s.answerPart id st 0 0 []

/-- Entry i of a scatter part: its row and FP32 values. -/
def HeldPart.entry (h : HeldPart) (t : Tab) (i : Nat) : Nat × List Byte :=
  let fmt := field h.payload 22 1
  let w := t.cols * queryElem fmt
  (h.index i, updBytes fmt (slice h.payload (32 + roundUp (4 * h.n) 8 + i * w) w))

/-- Adds of a scatter part with det 0, one entry after another. -/
def State.partAdds (id : Nat) (e : Eng) (t : Tab) : Nat → State → State
  | 0, s => s
  | f + 1, s =>
    match s.heat id with
    | none => s
    | some h =>
      if h.waits != 0 || h.conds != [] || h.n ≤ h.next then s
      else
        let (i, u) := h.entry t h.next
        let s := s.setHeat id fun h => { h with next := h.next + 1 }
        if e.pad && i = 0xFFFFFFFF then State.partAdds id e t f s
        else
          let ctx := match s.findCmd id with | some c => c.ctx | none => 0
          State.partAdds id e t f ((rowAdds (e.tabGfa + 64 + i * t.stride) u).foldl (fun s a =>
            (s.setHeat id fun h => { h with waits := h.waits + 1 }).internal (.heat id) ctx a) s)

/-- Serve a held part whose round its owner runs (R386, rows 5 to 7). -/
def State.partRun (s : State) (id : Nat) : State :=
  match s.heat id with
  | none => s
  | some h =>
    match s.groupCmd h.group with
    | none => s
    | some (o, e, r) =>
      if e.round != h.round || r.idx.isNone then s
      -- a command that stops serves its parts no further, and awaits what they have issued (R407)
      else if s.stopping o then s.owe (.eng o)
      else
        let t := tabOf r.hdr
        if !h.checked then
          let s := s.setHeat id fun h => { h with checked := true }
          let s := s.setGu o fun r =>
            { r with gotFrom := r.gotFrom ++ [h.src]
                     lastFrom := if h.last then r.lastFrom ++ [(h.src, field h.payload 6 2 + 1)] else r.lastFrom }
          let st := match r.refused with | some st => st | none => partCheck e t h
          if st != stOk then (s.refusePart id o e st).owe (.eng o)
          else s.owe (.part id)
        else if e.det && e.op = 2 then s
        else if h.conds != [] then
          if h.waits = 0 then (s.answerPart id (firstByOrder gatherOrder h.conds) 0 0 []).owe (.eng o) else s
        else if e.op = 1 then
          let is := (List.range h.n).map h.index
          let real := realIdx e.pad is 0 h.n
          match s.partRows id e t real with
          | (s, none) => s
          | (s, some (_, true)) => ((s.countQ e.quad .guStat 2 real.length).answerPart id stPoison 0 0 []).owe (.eng o)
          | (s, some (rows, false)) =>
            let s := s.countQ e.quad .guStat 2 real.length
            let val (i : Nat) : List Fl := match real.idxOf? i with | some k => rows.getD k [] | none => []
            let out := (List.range (h.n / e.bag)).flatMap fun j =>
              outBytes e.iofmt (poolRows t.cols ((realIdx e.pad is (j * e.bag) e.bag).map val))
            (s.answerPart id stOk r.lap (h.n / e.bag) out).owe (.eng o)
        else
          let s := State.partAdds id e t (h.n + 1) s
          match s.heat id with
          | some h => if h.waits = 0 && h.conds = [] && h.n ≤ h.next then (s.answerPart id stOk r.lap 0 []).owe (.eng o) else s
          | none => s

/-- The payload of a part is out of range (R386, row 1). -/
def State.partBad (s : State) (b : List Byte) : Bool :=
  let kind := field b 1 1
  let n := field b 4 2
  let g := field b 0 1
  let es := queryElem (field b 22 1)
  let m := s.groupMember g (s.groupSelf g)
  kind = 0 || 2 < kind || es = 0 || n = 0 || 8 ≤ field b 3 1 || !zeroAt b 23 1
    || (g < 64 && s.groupValid g && b.length != 32 + roundUp (4 * n) 8 + (if kind = 2 then n * m.cols * es else 0))

/-- A part of a round with det 1 has been refused with `st`: none of the round's adds is performed, and every held part
is answered with it (R389). -/
def State.refuseRound (s : State) (g round : Nat) (st : Byte) : State :=
  let all (s : State) : State := (s.heldOf g round).foldl (fun s h => s.answerPart h.1 st 0 0 []) s
  match (s.groupCmd g).filter fun x => x.2.1.round = round with
  | some (id, e, r) => if e.det && !r.applying then all (s.setGu id fun r => { r with refused := some st }) else s
  | none => all (s.setGroup g fun x => { x with refused := some (round, st) })

/-- `GU_HEAT` at the owner (R386, R387). -/
def State.guHeat (s : State) (f : Frame) : State :=
  let b := f.payload
  s.withRequest 0x50 f { gfaReq := true }
    (fun s n =>
      { bad := f.hdr.ctx != 0 || f.hdr.opLen != 0 || gfaOff f.hdr.addr.toNat != 0 || b.length < 32
        odd := s.v1 n || f.hdr.cls != 2 })
    (fun s o =>
      let g := field b 0 1
      let q := s.groupQuad (g % 64)
      if !isPeerSess o.sess then s.sendCpl o stSegmentFault []
      else if (s.unit 4 q).state = .disabled then s.sendCpl o stEngineDisabled []
      else
        let s := s.countQ q .guStat 5
        let round := field b 8 8
        let src := field b 2 1
        let m := s.groupMember g src
        let named := g < 64 && s.groupValid g
        let done := match (s.group g).completed with | some k => decide (round ≤ k) | none => false
        -- DEDUCED: a part of a round with det 1 that a member sent and that row 1 refuses refuses the round (R389, log 117)
        let det := named && field b 3 1 / 2 % 2 = 1 && !done && (List.range (s.groupSize g)).any fun i =>
          (s.groupMember g i).device = o.sess
        if s.partBad b then
          let s := s.sendCpl o stMalformed []
          if det then s.refuseRound g round stMalformed else s
        else if !named || s.groupSize g ≤ src || m.device != o.sess then s.sendCpl o stNotOwner []
        else if done then s.sendCpl o stMalformed []
        else
          let running := match s.groupCmd g with | some (_, e, _) => e.round = round | none => false
          let hold := !running || field b 3 1 / 2 % 2 = 1
          let room := s.bufOn q && ((s.heldOn q).length + 1) * 4096 ≤ s.extLen (bits (s.quad q .guCfg) 11 0)
          if hold && !room then (s.countQ q .guStat 6).sendCpl o stRetry []
          else
            let h : HeldPart := { group := g, src := src, quad := q, payload := b, since := s.now, buffered := hold }
            let (s, id) := s.accept (.msg o) 0 (.heat h)
            s.owe (.part id))

/-- A held part whose round has not started within relay_to (R387). -/
def State.heldTimeout (s : State) (id : Nat) : State :=
  match s.heat id with
  | none => s
  | some h =>
    let running := match s.groupCmd h.group with | some (_, e, _) => e.round = h.round | none => false
    if !running && s.relayTo h.group ≤ s.now - h.since then s.answerPart id stTimeout 0 0 [] else s

/-! ### Rounds (R389 to R391) -/

/-- Every other member's last part has been received, and every part before it. -/
def State.allParts (s : State) (g : Nat) (r : GuRun) : Bool :=
  (List.range (s.groupSize g)).all fun i =>
    i = s.groupSelf g || match r.lastFrom.find? fun x => x.1 = i with
      | some x => x.2 ≤ r.gotFrom.countP (· = i)
      | none => false

/-- A deterministic round's adds, in ascending order of member index and batch position (R379). -/
def State.roundAdds (s : State) (g : Nat) (e : Eng) (r : GuRun) : List (Nat × List Byte × Bool) :=
  let t := tabOf r.hdr
  let held := s.heldOf g e.round
  (List.range (s.groupSize g)).flatMap fun i =>
    if i = s.groupSelf g then r.upd.map fun w => (w.1, w.2, true)
    else (sortBy (fun a b => field a.2.payload 24 4 < field b.2.payload 24 4) (held.filter fun h => h.2.src = i)).flatMap
      fun h => (((List.range h.2.n).map (h.2.entry t)).filter fun w => !(e.pad && w.1 = 0xFFFFFFFF)).map fun w => (w.1, w.2, false)

/-- A deterministic round whose parts have all been received applies its adds (R389). -/
def State.detApply (s : State) (g : Nat) : State :=
  match s.groupCmd g with
  | some (id, e, r) =>
    if !(e.op = 2 && e.det) || !r.ownDone || r.applying || r.refused.isSome || !s.allParts g r then s
    else (s.setGu id fun x => { x with applying := true, work := s.roundAdds g e r }).owe (.eng id)
  | none => s

/-- A relay command that has not completed within relay_to of reaching stage 6 (R391). -/
def State.relayTimeout (s : State) (id : Nat) : State :=
  match s.eng id with
  | some e =>
    if e.unit = 4 && e.started && e.relay && !isCommon e.op && s.relayTo e.grp ≤ s.now - e.since then s.addCond id stTimeout else s
  | none => s

/-- The command has nothing left to do (R390). -/
def State.gatherDone (s : State) (e : Eng) (r : GuRun) : Bool :=
  r.ownDone && e.waits = 0 && r.work = [] && r.flight.isNone && (!e.relay ||
    (s.groupSize e.grp ≤ r.sendTo && (r.parts.all fun p => p.answered) && (s.heldOf e.grp e.round).isEmpty
      && ((e.op = 2 && e.det) == r.applying) && s.allParts e.grp r))

/-- A command that has nothing left to do, and that advances a Hurdle, first writes back what it dirtied in its engine
cache; it completes when that has been performed (R390, R422). -/
def State.gatherFlush (s : State) (id : Nat) (e : Eng) (r : GuRun) : State :=
  let io := e.opnds.getD 2 ⟨0, 0, false, false⟩
  if field e.body 12 4 = 0xFFFFFFFF || e.op != 1 then s.gatherEnd id stOk
  else
    let s := if r.backs.isSome then s
      else s.flushRange e.quad false io.gfa io.len fun s ids =>
        s.setGu id fun r => { r with backs := some (ids ++ r.backs.getD []) }
    match s.eng id with
    | some e => if e.conds != [] || s.flushWaits e then s else s.gatherEnd id stOk
    | none => s

/-- Accesses for the held parts of a relay command's round are on their way (R407). -/
def State.partsOut (s : State) (id : Nat) (e : Eng) : Bool :=
  e.unit = 4 && e.relay && (s.group e.grp).active = some id && (s.heldOf e.grp e.round).any fun h => h.2.waits != 0

/-- A command of unit 0x04 goes on. -/
def State.gatherRun (s : State) (id : Nat) (e : Eng) : State :=
  match s.findCmd id with
  | none => s
  | some c =>
    match e.gu? with
    | none => s.gatherStart id c e
    | some r =>
      let t := tabOf r.hdr
      match r.idx with
      | none => s.gatherIndex id e t
      | some idx =>
        let s := if e.relay then State.sendParts id e t r.io idx (e.batch * 64 + 65) s else s
        let sending := match (s.eng id).bind Eng.gu? with
          | some r => e.relay && r.sendTo < s.groupSize e.grp
          | none => true
        let s := if sending then s
          else if e.op = 1 then (if r.ownDone then s else State.gatherRows id e t r.io idx (e.batch + 1) s)
          else if r.ownDone then s
          else State.scatterRows id e t r.io idx (e.batch + 1) s
        let s := State.addRows id e t (match (s.eng id).bind Eng.gu? with | some r => r.work.length + 1 | none => 0) s
        match (s.eng id).bind fun x => x.gu?.map fun r => (x, r) with
        | none => s
        | some (x, r) =>
          if x.conds != [] then s
          else
            let s := if r.applying && r.work = [] && r.flight.isNone then
                (s.heldOf e.grp e.round).foldl (fun s h => s.answerPart h.1 stOk r.lap 0 []) s
              else s
            if s.gatherDone x r then s.gatherFlush id x r else s

/-- A write of GU_CFG (R395). -/
def State.bufferWrite (s : State) (q : Nat) (v : Word) : State :=
  let running := (s.unitCmds 4 q).any fun c => match c.body with | .eng e => e.started && e.relay && e.gu?.isSome | _ => false
  match s.enableWrite { reg := .guCfg, inst := q } v fun e =>
      !running && s.scratchable q e && 131072 ≤ s.extLen e && !s.servesAs .seCfg q e with
  | (s, some st) => { s with gu := { s.gu with bufStatus := tset 0 s.gu.bufStatus q st } }
  | (s, none) => s

end Sys2Proof.Machine
end

