-- ==== Sys2Proof/Machine/Fabric.lean ====
section
/-! DEFINITION. Fabric membership (14_fabric.md): links and neighbours, membership and epochs,
exclusion and isolation, lease, heartbeats, suspicions, and the time source. -/

namespace Sys2Proof.Machine

/-! ### Links and neighbours (R456, R457, R463) -/

def MembState.code : MembState → Nat
  | .unjoined => 0 | .member => 1 | .isolated => 2

def State.nbr (s : State) (p : Nat) : Neighbour := tget {} s.fab.nbr p

/-- FAB_NBR(p). -/
def Neighbour.word (x : Neighbour) : Word :=
  let b (v : Bool) : Nat := if v then 1 else 0
  BitVec.ofNat 64 (b x.valid * 2 ^ 63 + b x.crarid * 2 ^ 62 + b x.conflict * 2 ^ 61 + b x.idValid * 2 ^ 60
    + x.state.toNat * 2 ^ 58 + x.port.toNat * 2 ^ 53 + x.device.toNat * 2 ^ 32 + x.epoch.toNat)

/-- A neighbour record changes; a change of valid or device_id, and a new conflict, raise the event. -/
def State.setNbr (s : State) (p : Nat) (x : Neighbour) : State :=
  let y := s.nbr p
  let s : State := { s with fab := { s.fab with nbr := tset {} s.fab.nbr p x } }
  if x.valid != y.valid || x.device != y.device || (x.conflict && !y.conflict) then
    let fl : Nat := (if x.valid then 1 else 0) + (if x.conflict then 2 else 0)
    s.event 7 ([BitVec.ofNat 8 p, BitVec.ofNat 8 fl] ++ List.replicate 6 0 ++ leBytes 8 x.word.toNat
      ++ leBytes 8 x.unit.toNat)
  else s

/-- Lanes of sub-port k in a breakout mode, as a mask (R572). -/
def subLanes (mode : BitVec 2) (k : Nat) : Byte :=
  if mode = 1 then BitVec.ofNat 8 (15 * 2 ^ (4 * k))
  else if mode = 2 then BitVec.ofNat 8 (3 * 2 ^ (2 * k)) else 0xFF

/-- The link of external port p goes down: its groups lose it, its queued frames are discarded, its
neighbour record is cleared. -/
def State.portDown (s : State) (p : Nat) : State :=
  if !s.linkUp p then s
  else
    let s := s.setOptical (p / 4) fun x =>
      { x with link := x.link &&& ~~~(BitVec.ofNat 4 (2 ^ (p % 4))), lanesOk := x.lanesOk &&& ~~~(subLanes x.mode (p % 4)) }
    let s := s.flushPort p
    let s : State := { s with sw := { s.sw with rxPause := s.sw.rxPause.filter fun x => x.1 / 8 != p
                                                paused := s.sw.paused.filter fun x => x.1 / 8 != p } }
    if (s.nbr p).valid then s.setNbr p {} else s

/-- Port Ee may have a link: engine in service, connector seated, enabled, clocked, DSP loaded (R572 to
R574); in the Starting block, sub-port 0 of E0 only (R525). -/
def State.canLink (s : State) (p : Nat) : Bool :=
  let e := p / 4
  p < 32 && s.portExists p && !s.err.stopped && s.photHealth (e / 4) != .failed
    && bit (s.at { reg := .phPortCfg, inst := e / 4, i := e % 4 }) 0 && (s.optical e).conn
    && !s.pwr.released && !s.pwr.clkAbsent.getLsbD (1 + e / 4) && s.pwr.dspLoaded.getLsbD (e / 4)
    && (s.boot.phase != .startingBlock || p = 0)

/-- Training of external port p has ended with its link up (R463). -/
def State.portUp (s : State) (p : Nat) : State :=
  if s.canLink p && s.boot.phase != .reset then
    s.setOptical (p / 4) fun x =>
      { x with link := x.link ||| BitVec.ofNat 4 (2 ^ (p % 4)), lanesOk := x.lanesOk ||| subLanes x.mode (p % 4) }
  else s

/-- Every sub-port of optical port Ee goes down. -/
def State.opticalDown (s : State) (e : Nat) : State :=
  (List.range 4).foldl (fun s k => s.portDown (4 * e + k)) s

/-- lldp_int in ms. -/
def State.lldpInt (s : State) : Nat := max 100 (bits (s.hub .fabHbCfg) 31 16)

/-- The information string of R456. -/
def State.lldpInfo (s : State) (p : Nat) : List Byte :=
  leBytes 2 s.ownId ++ [BitVec.ofNat 8 ((if s.idValid then 1 else 0) + 2 * s.fab.state.code), BitVec.ofNat 8 p]
    ++ leBytes 4 s.fab.curEpoch.toNat ++ leBytes 8 s.unitId.toNat

/-- Bytes of a number, most significant first. -/
def beBytes (n v : Nat) : List Byte := (leBytes n v).reverse

/-- A port number as decimal text. -/
def decText (p : Nat) : List Byte :=
  (if p < 10 then [p] else [p / 10, p % 10]).map fun d => BitVec.ofNat 8 (0x30 + d)

/-- The TLVs of the LLDP frame of port p: Chassis ID, Port ID, Time To Live, the organisational one, and the end of the
frame (R456). -/
def State.lldpTlvs (s : State) (p : Nat) : List (Nat × List Byte) :=
  [(1, 4 :: beBytes 6 (Config.portMac p).toNat), (2, 7 :: decText p),
   (3, beBytes 2 ((4 * s.lldpInt + 999) / 1000)),
   (127, beBytes 3 (bits (s.hub .fabHbCfg) 63 40) ++ [1] ++ s.lldpInfo p), (0, [])]

/-- The LLDP frame of port p, to the nearest-bridge group address. -/
def State.lldpFrame (s : State) (p : Nat) : EthFrame :=
  let tlvs := s.lldpTlvs p
  { dstMac := 0x0180C200000E, srcMac := Config.portMac p, vlan := none, src := .noIp, dst := .noIp, proto := 0
    body := .lldp tlvs, len := max 64 (18 + (tlvs.map fun t => 2 + t.2.length).sum) }

/-- Every external port with link up sends an LLDP frame (R456). -/
def State.lldpSend (s : State) : State :=
  if !s.serving || !bit (s.hub .fabHbCfg) 32 || s.now - s.fab.lldpLast < s.lldpInt * 1000000 then s
  else
    let ps := (List.range 32).filter s.linkUp
    let s : State := { s with fab := { s.fab with lldpLast := s.now } }
    (ps.foldl (fun s p => s.admitFrame 32 p (s.lldpFrame p) false) s).sweep

/-- An LLDP frame arrives on port p (R457). -/
def State.lldpReceive (s : State) (p : Nat) (l : LldpFrame) : State :=
  if !s.serving || !s.linkUp p then s
  else
  let s := s.count .swStat 0
  if l.ttl = 0 then s.setNbr p {}
  else
    let known : Bool := l.oui.toNat = bits (s.hub .fabHbCfg) 63 40 && l.subtype = 1
    let base : Neighbour := { valid := true, mac := l.srcMac, expires := s.now + l.ttl.toNat * sec }
    match l.info, known with
    | some b, true =>
      let idv := field b 2 1 % 2 = 1
      let dev := field b 0 2
      let unit := BitVec.ofNat 64 (field b 8 8)
      s.setNbr p { base with
        crarid := true
        idValid := decide idv
        state := BitVec.ofNat 2 (field b 2 1 / 2)
        port := BitVec.ofNat 5 (field b 3 1)
        device := BitVec.ofNat 16 dev
        epoch := BitVec.ofNat 32 (field b 4 4)
        unit := unit
        conflict := decide idv && decide (dev = s.ownId) && unit != s.unitId }
    | _, _ => s.setNbr p base

/-- A neighbour's Time To Live has run out (R457, R474). -/
def State.neighbourExpiry (s : State) (p : Nat) : State :=
  let x := s.nbr p
  if !x.valid || s.now < x.expires then s
  else
    let s := s.setNbr p {}
    if x.crarid && x.idValid && s.linkUp p then s.owe (.suspect x.device.toNat 3) else s

/-! ### Members (R458, R464, R470) -/

/-- The FAB_MEMBER entry of device d. -/
def State.member (s : State) (d : Nat) : Member :=
  let m := tget {} s.fab.members d
  if m.set_ then m else { m with epoch := s.fab.restEpoch }

def State.setMember (s : State) (d : Nat) (k : MemberKind) (ep : Word32) : State :=
  { s with fab := { s.fab with members := tset {} s.fab.members d { kind := k, epoch := ep, set_ := true } } }

/-- More than 2^30 behind cur_epoch becomes cur_epoch − 2^30 (R470). DEDUCED: so does one that a commit of an UNJOINED
device leaves more than 2^30 ahead, since every epoch that is compared stands within 2^30 of cur_epoch (log 118). -/
def clampEpoch (cur e : Word32) : Word32 :=
  let d := (cur - e).toNat
  if 2 ^ 30 < d && d < 2 ^ 32 - 2 ^ 30 then cur - 0x40000000 else e

def State.clampEpochs (s : State) : State :=
  let c := s.fab.curEpoch
  let s : State := { s with fab := { s.fab with
    members := s.fab.members.map fun x => (x.1, { x.2 with epoch := clampEpoch c x.2.epoch })
    restEpoch := clampEpoch c s.fab.restEpoch } }
  let fl := BitVec.ofNat 32 (bits (s.hub .fabHostFloor) 31 0)
  s.putAt { reg := .fabHostFloor } (BitVec.ofNat 64 (clampEpoch c fl).toNat)

/-- An accepted message that a fence ends: it has not entered stage 6, or it is an engine command and all of them end
(R467, R471). -/
def Cmd.fenceable (c : Cmd) (engines : Bool) : Bool :=
  match c.src, c.body with
  | .msg _, .access a => a.parts.any Part.early
  | .msg _, .held _ | .msg _, .fence _ | .msg _, .drain _ | .msg _, .coh _ => true
  | .msg _, .eng e => engines || e.unbegun
  | .msg _, .heat h => !h.checked
  | _, _ => false

/-- A request that has not entered stage 6 completes with FENCED, which replaces what was found for it
(R467, R471). -/
def State.fenceCmd (s : State) (id : Nat) (engines : Bool) : State :=
  match s.findCmd id with
  | none => s
  | some c =>
    match c.src, c.body with
    | .msg _, .access a =>
      let s := a.parts.zipIdx.foldl (fun s x =>
        if x.1.early then s.endPart id x.2 { stage := 1, status := stFenced, data := [] } else s) s
      s.settleAccess id
    | .msg o, .held _ => (s.dropCmd id).sendCpl o stFenced []
    | .msg o, .fence _ => (s.dropCmd id).sendCpl o stFenced []
    | .msg o, .drain _ => (s.dropCmd id).sendCpl o stFenced []
    | .msg _, .coh _ => s.endCoh id stFenced
    | .msg _, .eng e =>
      if engines || e.unbegun then (s.setEng id fun e => { e with killed := some stFenced }).owe (.eng id) else s
    | .msg _, .heat h => if h.checked then s else s.answerPart id stFenced 0 0 []
    | _, _ => s

/-- Abort a session, whatever its state (R91, R467, R471). -/
def State.endSession (s : State) (n : Nat) : State :=
  if (s.sess n).state = .opening then
    let ep := (s.sess n).peerEp.toNat
    (s.closeSession n).failWaiting ep
  else s.sessAbort n

/-- A request to a device that has left is counted and ends with FENCED, which replaces what was found for a forwarded
one (R466, R467). -/
def State.fenceReq (s : State) (k : ReqKind) : State :=
  let s := s.count .fabStat 5
  match k with
  | .fwd c i _ => (s.endPart c i { stage := 1, status := stFenced, data := [] }).settleAccess c
  | _ => s.owe (.answer k k.fenced false [])

/-- Device x leaves MEMBER (R467). -/
def State.memberLeaves (s : State) (x : Nat) : State :=
  -- 1: what the device sent or forwarded to x
  let kinds := (s.xp.reqs.filter fun r => r.2.peer.toNat = x).map (fun r => r.2.kind)
    ++ (s.xp.reqWait.filter fun w => w.peer.toNat = x).map fun w => w.kind
  let s : State := { s with xp := { s.xp with reqs := s.xp.reqs.filter fun r => r.2.peer.toNat != x
                                              reqWait := s.xp.reqWait.filter fun w => w.peer.toNat != x } }
  let s := (kinds.foldl State.fenceReq s).owe .tagFree
  -- 2: what it accepted from x, on any opening of its session, counted as R480 has it
  let ids := (s.cmds.filter fun c => c.fenceable true && match c.src with | .msg o => o.sess = x | _ => false).map (·.id)
  let s := ids.foldl (fun s id => (s.fenceCmd id true).count .fabStat 5) s
  -- 3 to 5
  let s := s.rcDrop (mkGfa x 0) (2 ^ 47)
  let s := (List.range 256).foldl (fun s l => if (s.lane l).peer.toNat = x then s.peerExcluded l else s) s
  s.endSession x

/-- R471. -/
def State.isolateNow (s : State) (cause : Nat) : State :=
  if s.fab.state != .member then s
  else
    let ids := s.cmds.map (·.id)
    let s := ids.foldl (fun s id => s.fenceCmd id false) s
    let ns := (s.xp.sessions.filter fun x => !s.isMgr x.2.peerEp).map (·.1)
    let s := ns.foldl State.endSession s
    let s : State := { s with fab := { s.fab with state := .isolated, cause := cause } }
    let stays (s : State) (i o : Nat) (e : EthFrame) : Bool := s.mayLeave i o e || (32 ≤ i && e.isClose)
    let s : State := { s with sw := { s.sw with
      queues := s.sw.queues.filterMap fun x =>
        match (x.2.filter fun y => stays s y.input (x.1 / 8) y.frame) with
        | [] => none
        | ys => some (x.1, ys)
      heldEp := s.sw.heldEp.map fun x => (x.1, x.2.filter fun y => stays s (x.1 / 8) y.1 y.2) } }
    let s := s.afterDequeue.sweep
    let us : List (Nat × Nat) :=
      ((List.range 4).flatMap fun q => [(1, q), (2, q), (3, q), (4, q), (5, q)]) ++ [(6, 0), (7, 0)]
    let s := us.foldl (fun s u =>
      match (s.unit u.1 u.2).state with
      | .enabled | .quiescing =>
        if (s.unitCmds u.1 u.2).isEmpty then (s.setUnit u.1 u.2 fun x => { x with state := .killing }).engDisabled u.1 u.2
        else s.startKill u.1 u.2
      | _ => s) s
    let s := (List.range 256).foldl (fun s l =>
      match (s.lane l).state with
      | .held | .offered | .taken => s.laneLost l
      | _ => s) s
    let s := (List.range 256).foldl (fun s d => if s.domState d = .up then s.domOp d 2 else s) s
    s.event 8 ([BitVec.ofNat 8 cause, 0, 0, 0] ++ leBytes 4 s.fab.curEpoch.toNat)

/-- lease_to in ns; 0 keeps no lease (R472). -/
def State.leaseTo (s : State) : Nat := bits (s.hub .fabCtl) 55 40 * 100000

def State.renewLease (s : State) : State := { s with fab := { s.fab with leaseFrom := s.now } }

def State.setCtl (s : State) (st : Byte) : State := { s with fab := { s.fab with ctlStatus := st } }

/-- op JOIN (R458). -/
def State.fabJoin (s : State) : State :=
  if s.fab.state = .unjoined && s.idValid && (s.member s.ownId).kind = .member then
    ({ s with fab := { s.fab with state := .member, ctlStatus := stOk } }).renewLease
  else s.setCtl stUnsupported

/-- op ISOLATE. -/
def State.fabIsolate (s : State) : State :=
  if s.fab.state = .member then (s.setCtl stOk).isolateNow 1 else s.setCtl stUnsupported

/-- op RELEASE. -/
def State.fabRelease (s : State) : State :=
  if s.fab.state = .isolated then
    State.clampEpochs { s with fab := { s.fab with state := .unjoined, ctlStatus := stOk, members := [], restEpoch := 0, curEpoch := 0 } }
  else s.setCtl stUnsupported

/-- A write of FAB_CTL: lease_to, then the op (R458, R472). -/
def State.fabCtlWrite (s : State) (v : Word) : State :=
  let a : RegAt := { reg := .fabCtl }
  let old := s.leaseTo
  let s := s.putAt a (storedWrite s a v)
  let s := if s.leaseTo = old then s else s.renewLease
  match bits v 36 35 with
  | 1 => s.fabJoin
  | 2 => s.fabIsolate
  | 3 => s.fabRelease
  | _ => s

/-- A write of FAB_ID: taken while UNJOINED only (R458). -/
def State.fabIdWrite (s : State) (v : Word) : State :=
  let a : RegAt := { reg := .fabId }
  if s.fab.state = .unjoined then s.putAt a (storedWrite s a v) else s

/-- A write of FAB_CHG stages a range (R464). -/
def State.fabStage (s : State) (v : Word) : State :=
  let act := bits v 49 48
  if act = 0 then s
  else if 1024 ≤ s.fab.staged.length then { s with fab := { s.fab with epochStatus := stQuota } }
  else { s with fab := { s.fab with
    staged := s.fab.staged ++ [(bits v 15 0, bits v 47 32, act)], epochStatus := stOk } }

/-- Apply one staged range. -/
def State.applyRange (s : State) (ep : Word32) (r : Nat × Nat × Nat) : State :=
  let k : MemberKind := match r.2.2 with | 1 => .excluded | 2 => .member | _ => .unknown
  (List.range (r.2.1 + 1 - r.1)).foldl (fun s i => s.setMember (r.1 + i) k ep) s

/-- commit at epoch `ep` (R464, R467, R458 cause 3). -/
def State.fabCommitAt (s : State) (ep : Word32) : State :=
  let d := (ep - s.fab.curEpoch).toNat
  let st : Byte :=
    if s.fab.state = .isolated then stUnsupported
    else if s.fab.state = .member && !(1 ≤ d && d < 2 ^ 30) then stMalformed
    else if s.fab.staged.any fun r => r.2.1 < r.1 then stMalformed
    else stOk
  let s : State := { s with fab := { s.fab with epochStatus := st } }
  if st != stOk then s
  else
    let were := (s.fab.members.filter fun x => x.2.kind = .member).map (·.1)
    let s := s.fab.staged.foldl (fun s r => s.applyRange ep r) s
    let s : State := { s with fab := { s.fab with curEpoch := ep, staged := [] } }
    let s := (s.count .fabStat 1).clampEpochs
    let left := were.filter fun x => (s.member x).kind != .member
    let s := left.foldl (fun s x => if x = s.ownId then s else s.memberLeaves x) s
    if (s.member s.ownId).kind != .member then s.isolateNow 3 else s

/-- A write of FAB_COMMIT. -/
def State.fabCommitWrite (s : State) (v : Word) : State :=
  let s := if bit v 32 then s.fabCommitAt (BitVec.ofNat 32 (bits v 31 0)) else s
  if bit v 33 then { s with fab := { s.fab with staged := [] } } else s

/-- A write of FAB_HOST_FLOOR (R470). -/
def State.hostFloorWrite (s : State) (v : Word) : State :=
  let a : RegAt := { reg := .fabHostFloor }
  (s.putAt a (storedWrite s a v)).clampEpochs

/-- The lease has run out (R472). -/
def State.leaseExpiry (s : State) : State :=
  if s.fab.state = .member && s.leaseTo != 0 && s.leaseTo ≤ s.now - s.fab.leaseFrom then s.isolateNow 4 else s

/-! ### Heartbeats and suspects (R473 to R475) -/

/-- sus_win in ns. -/
def State.susWin (s : State) : Nat := max 1 (bits (s.hub .fabSusCfg) 15 0) * 1000000

/-- Peers suspected now. -/
def State.suspected (s : State) : List Nat :=
  (s.fab.suspects.filter fun x => s.now - x.2 < s.susWin).map (·.1)

/-- Active peers (R474). -/
def State.activePeers (s : State) : Nat :=
  let isOpen := (s.xp.sessions.filter fun x => isPeerSess x.1 && x.2.state = .open).map (·.1)
  let recent := (s.fab.lastOpen.filter fun x => s.now - x.2 < s.susWin).map (·.1)
  (isOpen ++ recent).dedup.length

/-- FAB_REPORT on the event session; `none` when none is named and open. -/
def State.fabReport (s : State) (kind suspect reason : Nat) : Option State :=
  let n := s.evtSess
  if !s.serving || !s.evtEn || s.err.restarting || (s.sess n).state != .open then none
  else
    let seq := s.fab.reports + 1
    let s : State := { s with fab := { s.fab with reports := seq } }
    let self : Bool := match s.fab.withheld with | some t => s.now - t < s.susWin | none => false
    let links : Nat := ((List.range 32).map fun p => if s.linkUp p then 2 ^ p else 0).sum
    let stat (k : Nat) : Nat := (tget 0 s.stat (RegAt.off { reg := .hubHdlStat, i := k })).toNat
    let pay := [BitVec.ofNat 8 kind, if self then 1 else 0] ++ leBytes 2 s.ownId ++ leBytes 4 s.fab.curEpoch.toNat
      ++ leBytes 8 seq.toNat ++ leBytes 4 links ++ leBytes 4 s.suspected.length ++ leBytes 8 (stat 2)
      ++ leBytes 8 (stat 0) ++ leBytes 2 suspect ++ [BitVec.ofNat 8 reason] ++ List.replicate 21 0
    some (s.deviceReq .report (s.sess n).peerEp.toNat 7 0x58 {} pay)

/-- hb_period has passed (R473). -/
def State.heartbeat (s : State) : State :=
  let p := bits (s.hub .fabHbCfg) 15 0
  if p = 0 || !s.idValid || s.now - s.fab.hbLast < p * 100000 then s
  else match s.fabReport 1 0 0 with
    | none => s
    | some s => ({ s with fab := { s.fab with hbLast := s.now } }).count .fabStat 2

/-- An event that makes peer d suspected (R474, R475). -/
def State.suspectPeer (s : State) (d reason : Nat) : State :=
  let new := !s.suspected.contains d
  let s : State := { s with fab := { s.fab with suspects := (s.fab.suspects.filter (·.1 != d)) ++ [(d, s.now)] } }
  if !new then s
  else
    let sent := s.fab.kind2.filter fun t => s.now - t < sec
    let rate := bits (s.hub .fabSusCfg) 47 32
    let floor := min 100 (bits (s.hub .fabSusCfg) 23 16)
    let many := (100 - floor) * s.activePeers < s.suspected.length * 100
    if rate ≤ sent.length || many then
      let s := s.count .fabStat 4
      if many then { s with fab := { s.fab with withheld := some s.now } } else s
    else match s.fabReport 2 d reason with
      | none => s
      | some s => ({ s with fab := { s.fab with kind2 := sent ++ [s.now] } }).count .fabStat 3

/-- sus_win has passed since the last event (R474). -/
def State.suspicionExpiry (s : State) (d : Nat) : State :=
  { s with fab := { s.fab with suspects := s.fab.suspects.filter fun x => !(x.1 = d && s.susWin ≤ s.now - x.2) } }

/-- A session with peer d reached OPEN (R474). -/
def State.peerOpened (s : State) (n : Nat) : State :=
  if isPeerSess n then { s with fab := { s.fab with suspects := s.fab.suspects.filter (·.1 != n) } } else s

/-! ### The time source (R478, R479) -/

def State.ptpEn (s : State) : Bool := bit (s.hub .fabPtpCfg) 32
def State.ptpPort (s : State) : Nat := bits (s.hub .fabPtpCfg) 39 35
def State.ptpMapping (s : State) : Nat := let m := bits (s.hub .fabPtpCfg) 34 33; if m = 3 then 0 else m

def State.setServo (s : State) (f : Servo → Servo) : State :=
  { s with fab := { s.fab with servo := f s.fab.servo } }

/-- A forward step of the counter (R479, R453). -/
def State.timeStep (s : State) (n : Nat) : State :=
  let s : State := { s with now := s.now + n }
  ((s.event 9 (leBytes 8 n)).count .fabStat 7).realign

/-- A PTP message arrives on port p: a frame received there (R455). -/
def State.ptpSeen (s : State) (p : Nat) : State := if s.serving && s.linkUp p then s.count .swStat 0 else s

/-- A Sync disciplines the counter. -/
def State.ptpSync (s : State) (p : PtpSync) : State :=
  let s := s.ptpSeen p.port
  let v := s.fab.servo
  let mine : Bool := match v.source with
    | some x => x = p.source || 3 * sec ≤ s.now - v.lastSync
    | none => true
  if !s.serving || !s.ptpEn || p.port != s.ptpPort || p.domain.toNat != bits (s.hub .fabPtpCfg) 63 56
      || p.mapping.toNat != s.ptpMapping || !s.linkUp p.port || !mine then s
  else
    let o : Int := (p.arrival : Int) - p.origin - v.delay
    let thr : Nat := bits (s.hub .fabPtpCfg) 31 0
    let stepBy : Nat := if (thr : Int) ≤ -o then (-o).toNat else 0
    let s : State :=
      if (thr : Int) ≤ -o then
        (s.setServo fun v => { v with slewLeft := 0 }).timeStep stepBy
      else if (thr : Int) ≤ o then s.setServo fun v => { v with slewLeft := 2 * (o - thr).toNat + 1 }
      else
        let (s, d) := s.draw
        s.setServo fun v => { v with slewLeft := 0, ppm := max (-100) (min 100 (Config.ratePpm d)) }
    let recent := v.reqTimes.filter fun t => s.now - t < sec
    let ask : Bool := recent.length < 16
    let s := s.setServo fun v =>
      { v with
          tracking := true
          offset := o
          source := some p.source
          lastSync := s.now
          reqSeq := if ask then some p.seqId else v.reqSeq
          transit := if ask then (p.arrival : Int) + stepBy - p.origin else v.transit
          reqTimes := if ask then recent ++ [s.now] else recent }
    if ask then State.count { s with out := s.out ++ [.delayReq p.port p.seqId] } .swStat 1 else s

/-- The answer to the Delay_Req: the path delay is half the round trip. -/
def State.ptpDelayResp (s : State) (port : Nat) (source : BitVec 80) (seqId : BitVec 16) (sent received : Nat) : State :=
  let s := s.ptpSeen port
  let v := s.fab.servo
  if !s.serving || !s.ptpEn || port != s.ptpPort || v.source != some source || v.reqSeq != some seqId then s
  else
    let round : Int := v.transit + ((received : Int) - sent)
    s.setServo fun v => { v with delay := round / 2, reqSeq := none }

/-- No Sync for 3 s: FREE_RUN, at the last rate (R478, R479). -/
def State.ptpSilence (s : State) : State :=
  let v := s.fab.servo
  if v.tracking && 3 * sec ≤ s.now - v.lastSync then
    s.setServo fun v => { v with tracking := false, source := none, reqSeq := none }
  else s

/-- FAB_PTP_ST: the last offset, saturated to 32 bits. -/
def Servo.word (v : Servo) : Word :=
  let o : Int := max (-(2 ^ 31)) (min (2 ^ 31 - 1) v.offset)
  BitVec.ofNat 64 ((if v.tracking then 2 ^ 62 else 0) + unsigned 32 o)

end Sys2Proof.Machine
end

