-- ==== Sys2Proof/Machine/Errors.lean ====
section
/-! DEFINITION. Errors and their containment (15_errors.md): upsets that a request meets, scrubbing,
failed units, watchdogs, the error log and injection. -/

namespace Sys2Proof.Machine

/-! ### What the users of an extent or of a lost structure get (R359, R396, R403, R491) -/

/-- Every saved program of quadrant q gets `st`; save_en is cleared. -/
def State.saveLost (s : State) (q n : Nat) (st : Byte) : State :=
  let a : RegAt := { reg := .qdCtxCfg, inst := q }
  let s := s.putAt a (putBits (s.at a) 12 12 0)
  (s.programs q).foldl (fun s p => if p.2.saved then (s.heldIn n p.1).addCond p.1 st else s) s

/-- Every query of quadrant q gets `st`; scr_en is cleared. -/
def State.scratchLost (s : State) (q n : Nat) (st : Byte) : State :=
  let a : RegAt := { reg := .seCfg, inst := q }
  let s := s.putAt a (putBits (s.at a) 12 12 0)
  (s.unitCmds 3 q).foldl (fun s c => match c.body with
    | .eng e => if isCommon e.op then s else (s.heldIn n c.id).addCond c.id st
    | _ => s) s

/-- Every relay command and held part of quadrant q gets `st`; buf_en is cleared. -/
def State.bufferLost (s : State) (q n : Nat) (st : Byte) : State :=
  let a : RegAt := { reg := .guCfg, inst := q }
  let s := s.putAt a (putBits (s.at a) 12 12 0)
  let s := (s.unitCmds 4 q).foldl (fun s c => match c.body with
    | .eng e => if !isCommon e.op && e.relay then (s.heldIn n c.id).addCond c.id st else s
    | _ => s) s
  (s.heldOn q).foldl (fun s h => s.answerPart h.1 st 0 0 []) s

/-- What hangs on an extent meets its end with `st`: save area, scratch, gather buffer, and the Lanes
whose cache lies in it. -/
def State.extUsersLost (s : State) (n : Nat) (st : Byte) (lanes : Bool) : State :=
  let s := (List.range 4).foldl (fun s q =>
    let s := if s.servesAs .qdCtxCfg q n then s.saveLost q n st else s
    let s := if s.servesAs .seCfg q n then s.scratchLost q n st else s
    if s.servesAs .guCfg q n then s.bufferLost q n st else s) s
  if lanes then
    (List.range 256).foldl (fun s l =>
      let x := s.lane l
      if x.state != .free && s.inExt n x.base then s.laneLost l else s) s
  else s

/-- What a REVOKE takes from the extent's users (R229, R237, R308, R359, R396, R403). -/
def State.revokedUsers (s : State) (n : Nat) : State :=
  let s := s.extUsersLost n stExtentRevoked true
  if s.isFlashMap n then s.failFlash else s

/-! ### Failed units (R489 to R494) -/

/-- R59 gives a byte of [off, off+len) of extent n, of whatever tier, a stack of `stks`. -/
def State.meetsStack (s : State) (n off len : Nat) (stks : List Nat) : Bool :=
  let u := s.extUnit n
  let k := if len = 0 then 0 else (off + len - 1) / u - off / u + 1
  (List.range (min k 16)).any fun i => stks.contains (s.stackOf n (off / u * u + i * u)).1

/-- Bytes [off, off+len) of tier 0 extent n use a stack of `stks`. -/
def State.usesStack (s : State) (n off len : Nat) (stks : List Nat) : Bool :=
  s.extTier n = 0 && s.meetsStack n off len stks

/-- The extents that hold a backing: the registers of a DRAINED one may have been rewritten (R53). -/
def State.liveExts (s : State) : List Nat :=
  s.extList.filter fun n => s.extState n != .free && s.extState n != .drained

/-- Tier 0 extents in use that use a stack of `stks`. -/
def State.extsOn (s : State) (stks : List Nat) : List Nat :=
  s.liveExts.filter fun n => s.usesStack n 0 (s.extLen n) stks

/-- The domains of coherent extents among `es` enter FAILING. -/
def State.failDomains (s : State) (es : List Nat) : State :=
  ((es.filter s.extCoherent).map s.extDomain).dedup.foldl (fun s d => s.domFail d 0xFF) s

/-- R490, R491 for a set of stks that is lost. -/
def State.stacksLost (s : State) (stks : List Nat) (lanes : Bool) : State :=
  let es := s.extsOn stks
  let s := s.failDomains es
  let s := if lanes then
      (List.range 256).foldl (fun s l =>
        let x := s.lane l
        let hit := match s.extOver (x.base) with
          | some n => s.usesStack n (x.base - s.extOff n) x.cacheLen stks
          | none => false
        if x.state != .free && hit then s.laneLost l else s) s
    else s
  let s := es.foldl (fun s n => s.extUsersLost n stPoison false) s
  let s := if es.any s.isFlashMap then s.failFlash else s
  (List.range 32).foldl (fun s k =>
    let x := s.stream (k / 8) (k % 8)
    match x.state with
    | .running | .draining =>
      if es.any fun n => s.inExt n (gfaOff x.stage) then s.streamEnd (k / 8) (k % 8) stPoison stPoison else s
    | _ => s) s

/-- Parts that stand in stage 6 at the flash die complete with POISON, by a test of their home. -/
def State.flashParts (s : State) (p : Nat → Bool) : State :=
  (s.cmds.map (·.id)).foldl (fun s id =>
    match s.acc id with
    | none => s
    | some a =>
      let s := a.parts.zipIdx.foldl (fun s x =>
        match x.1.st with
        | .flash _ _ home =>
          if p home then
            s.endPart id x.2 { stage := 6, status := stPoison, data := if a.kind = .read then List.replicate x.1.len 0 else [] }
          else s
        | _ => s) s
      s.settleAccess id) s

/-- Home quadrant of a device offset. -/
def State.homeAt (s : State) (off : Nat) : Option Nat :=
  (s.extOver off).map fun n => s.homeOf n (off - s.extOff n)

/-- An engine command of another quadrant has work on quadrant q: an internal access, or a Lane that
its attention entry reads. -/
def State.worksOn (s : State) (q : Nat) (id : Nat) (e : Eng) : Bool :=
  (s.cmds.any fun c => c.src = .engine id && match c.acc? with
    | some a => a.parts.any fun p => !p.isDone && p.dev = s.ownId && s.homeAt p.off = some q
    | none => false)
  || match e.prog? with
    | some p => p.busy && p.lanes.any fun l => l < 256 && l / 64 = q
    | none => false

/-- A quadrant has FAILED (R490, R491). -/
def State.quadLost (s : State) (q : Nat) : State :=
  let away := s.cmds.filterMap fun c => match c.body with
    | .eng e => if e.quad != q && s.worksOn q c.id e then some c.id else none
    | _ => none
  let s := away.foldl (fun s id => (s.setEng id fun e => { e with killed := some stAborted }).owe (.eng id)) s
  let s := [1, 2, 3, 4, 5].foldl (fun s u =>
    match (s.unit u q).state with
    | .enabled | .quiescing =>
      if (s.unitCmds u q).isEmpty then (s.setUnit u q fun x => { x with state := .killing }).engDisabled u q
      else s.startKill u q
    | _ => s) s
  let stks := [4 * q, 4 * q + 1, 4 * q + 2, 4 * q + 3]
  let s := s.failDomains (s.liveExts.filter fun n => s.meetsStack n 0 (s.extLen n) stks)
  let s := s.stacksLost stks false
  let s := (List.range 64).foldl (fun s i => s.laneLost (64 * q + i)) s
  let s := s.flashParts (· = q)
  s.vr.regions.foldl (fun s x => if s.homeAt (s.regBase x.1) = some q then s.regionEnd x.1 else s) s

/-- The flash tier has FAILED (R490, R255). -/
def State.flashLost (s : State) : State :=
  let s := s.failDomains (s.liveExts.filter fun n => s.extTier n = 1)
  let s := s.flashParts fun _ => true
  s.flash.syncs.foldl (fun s x => s.owe (.eng x.1)) s

/-- A photonic engine has FAILED: its four ports go down (R490). -/
def State.photLost (s : State) (p : Nat) : State :=
  (List.range 4).foldl (fun s k => s.opticalDown (4 * p + k)) s

/-- A stack lost training; one retraining failed (R488). -/
def State.trainingLoss (s : State) (n : Nat) (retrained : Bool) : State :=
  if retrained || s.boot.phase != .running || s.err.stopped then s else s.setStack n .failed

/-- A quadrant's heartbeat has been missing for 20 µs (R488). -/
def State.heartbeatLoss (s : State) (q : Nat) : State :=
  if s.boot.phase != .running then s else s.setQuad q .failed

/-! ### Watchdogs (R496, R497) -/

/-- A change of the update's state, with its event (R522). -/
def State.setUpd (s : State) (x : UpdState) (st : Byte) : State :=
  let code : Nat := match x with | .idle => 0 | .verifying => 1 | .writing => 2 | .staged => 3 | .activated => 4
  let moved := s.boot.updState != x
  let s : State := { s with boot := { s.boot with updState := x, updStatus := st } }
  if moved then s.event 11 [BitVec.ofNat 8 code, st] else s

/-- An update ends without an image staged (R522, R528). -/
def State.updFails (s : State) (st : Byte) : State :=
  (({ s with boot := { s.boot with updImage := [], updLen := 0, updRun := s.boot.updRun + 1, progress := 0 } }).setUpd .idle st).count .secStat 2

/-- The Starter restarts (R496); an update in progress is aborted (R522). -/
def State.starterRestart (s : State) : State :=
  let s : State := { s with err := { s.err with restarting := true, restarts := s.err.restarts + 1 } }
  let s := (s.count .hubErrStat 6).errRecord { type := 10, severity := 1, die := 0 }
  if s.boot.updState = .verifying || s.boot.updState = .writing then s.updFails stAborted else s

/-- The Starter's watchdog expires. -/
def State.starterExpiry (s : State) (digestOk : Bool) : State :=
  if s.boot.phase != .running || s.err.stopped then s
  else
    let again : Bool := match s.err.starterLast with | some t => s.now - t < sec | none => false
    if again || !digestOk then s.deviceStop { type := 10, severity := 2, die := 0 }
    else ({ s with err := { s.err with starterLast := some s.now } }).starterRestart

def State.restartDone (s : State) : State := { s with err := { s.err with restarting := false } }

/-- The microcode watchdog of unit u of quadrant q expires: kill, reload, enable (R497); twice within 1 s
the quadrant fails (R488). -/
def State.microcodeExpiry (s : State) (q u : Nat) : State :=
  if s.boot.phase != .running || s.quadDead q || u < 1 || 5 < u || (s.unit u q).state = .disabled then s
  else
    let k := 8 * q + u
    let recent := s.err.ucodeTimes.filter fun x => s.now - x.2 < sec
    let s : State := { s with err := { s.err with ucodeTimes := recent ++ [(k, s.now)] } }
    if recent.any (·.1 = k) then s.setQuad q .failed
    else
      let s := s.setUnit u q fun x => { x with reload := true }
      if (s.unitCmds u q).isEmpty then (s.setUnit u q fun x => { x with state := .killing }).engDisabled u q
      else s.startKill u q

/-- The flash translation processor's watchdog expires (R497). -/
def State.flashExpiry (s : State) : State :=
  if s.flash.state != .ready && s.flash.state != .starting then s
  else
    let again : Bool := match s.flash.wdLast with | some t => s.now - t < sec | none => false
    let s : State := { s with flash := { s.flash with wdLast := some s.now } }
    -- a FLASH_SYNC that waits meets a tier that is not READY (R255)
    if again then s.failFlash
    else s.flash.syncs.foldl (fun s x => s.owe (.eng x.1)) { s with flash := { s.flash with state := .starting } }

/-- A photonic DSP restarts: its ports go down; one restart degrades the engine, three within an hour
fail it (R488, R497). -/
def State.dspExpiry (s : State) (p : Nat) : State :=
  if s.photHealth p = .failed || !s.pwr.dspLoaded.getLsbD p then s
  else
    let recent := (s.err.dspTimes.filter fun x => s.now - x.2 < 3600 * sec) ++ [(p, s.now)]
    let s : State := { s with err := { s.err with dspTimes := recent } }
    let s := s.photLost p
    if 3 ≤ recent.countP (·.1 = p) then s.setPhot p .failed else s.setPhot p .degraded

/-! ### Upsets that a request meets (R481 to R483) -/

/-- The lines and marks of a dirty engine-cache line that an upset takes: its dirty sectors go back
marked (R483). -/
def State.upsetLine (s : State) (q l : Nat) : State :=
  match s.ecFind q l with
  | none => s.ecDrop q l
  | some x =>
    let dirty (k : Nat) : Bool := (List.range 64).any fun i => x.dirty.getLsbD (64 * k + i)
    let pz : BitVec 2 := (if dirty 0 then 1 else 0) ||| (if dirty 1 then 2 else 0)
    (s.ecPut q l { x with poison := x.poison ||| pz }).ecEvict q l

/-- R483, by the structure that holds the word. -/
def State.applyUpset (s : State) : Upset → State
  | .none | .data _ | .header => s
  | .corrected => s.wordCorrected 0
  | .nand _ => s
  | .context c => { s.wordBad 0 stSegmentFault with
      ext := { s.ext with ctxFault := tset 0 s.ext.ctxFault c 3 } }
  | .segment c g => { s.wordBad 0 stSegmentFault with
      ext := { s.ext with segFault := tset 0 s.ext.segFault (16 * c + g) 15 } }
  | .extent n => (s.wordBad 0 stExtentRevoked).setExt n fun x => { x with fault := 15 }
  | .route d => { s.wordBad 0 stOk with ext := { s.ext with rtFault := sinsert d s.ext.rtFault } }
  | .dirEntry q l =>
    let s := s.wordBad (q + 1) stDomainDown
    match s.lineDomain l with
    | some d => s.domFail d 0xFF
    | none => s
  | .versionMap r => (s.wordBad 0 stVersionRetired).regionEnd r
  | .session n => (s.wordBad 0 stOk).failSession n
  | .cacheLine q l => (s.wordBad (q + 1) stOk).upsetLine q l
  | .engineState u q k =>
    (s.unitCmds u q).foldl (fun s c => match c.body with
      | .eng e => if e.queue = k && e.started && !isCommon e.op && (u = 1 || u = 3 || u = 4) then s.addCond c.id stPoison else s
      | _ => s) (s.wordBad (q + 1) stPoison)
  | .lane l => (s.wordBad (l / 64 % 4 + 1) stStateLost).laneLost (l % 256)
  | .hurdle h =>
    let s := (s.wordBad 0 stPoison).setHurdle h fun x => if x.alloc then { x with faulted := true } else x
    s.endWatches (fun w => w.hurdle = h) stPoison
  | .starterMem => (s.wordBad 0 stOk).starterRestart
  | .quadCore q => (s.wordBad (q % 4 + 1) stPoison).setQuad (q % 4) .failed
  | .hubCore => (s.count .hubErrStat 1).deviceStop { type := 4, severity := 2, die := 0 }

/-- The NAND codeword of byte `off` of [gfa, gfa+len) cannot be corrected: its page is marked (R239). -/
def State.upsetNand (s : State) (gfa : Nat) : Upset → State
  | .nand o =>
    if gfaDev (gfa + o) != s.ownId then s
    else match s.findExt (gfaOff (gfa + o)) with
      | some n =>
        match s.locOf n (gfaOff (gfa + o) - s.extOff n) with
        | .fls f =>
          let p := f / 4096
          if s.extTier n = 1 && s.flash.state = .ready && (tget {} s.flash.nand p).valid && !(tget {} s.flash.stage p).valid then s.flashBad p else s
        | .hbm _ => s
      | none => s
  | _ => s

/-- A read or write from stage 2, with the upset that its words meet. -/
def State.upsetAccess (s : State) (o : Origin) (f : Frame) (p : Perm) (u : Upset) (mk : Nat → Access) : State :=
  if u = .header then s.hurtHeader o (if p.r then f.hdr.opLen.toNat else 0)
  else
    let s := s.applyUpset u
    if s.err.stopped then s
    else match s.stage2 o f.hdr.addr.toNat f.hdr.opLen.toNat p with
      | (s, .inl st) => s.sendCpl o st []
      | (s, .inr g) => (s.upsetNand g u).internal (.msg o) o.context (mk g)

/-- `MEM_READ` (R150). -/
def State.memRead (s : State) (f : Frame) (u : Upset) : State :=
  s.withRequest 0x10 f { gfa := true, vol := true }
    (fun _ _ => { bad := parseLen f.hdr 0 })
    (fun s o => s.upsetAccess o f { r := true } u fun g =>
      { kind := .read, vol := f.hdr.vol, gfa := g, len := f.hdr.opLen.toNat, hurt := upsetHurt u })

/-- `MEM_WRITE` (R150). -/
def State.memWrite (s : State) (f : Frame) (u : Upset) : State :=
  s.withRequest 0x11 f { gfa := true }
    (fun _ _ => { bad := parseLen f.hdr f.hdr.opLen.toNat })
    (fun s o => s.upsetAccess o f { w := true } u fun g =>
      { kind := .write, gfa := g, len := f.hdr.opLen.toNat, data := f.payload, hurt := upsetHurt u })

/-! ### Scrubbing (R487) -/

/-- scrub_h; 0 stops scrubbing. -/
def State.scrubH (s : State) : Nat := min 168 (bits (s.hub .hubErrCfg) 39 32)

/-- The sector backs a REVOKING extent (R75). -/
def State.revokingSector (s : State) (sc : Nat) : Bool :=
  let st := secStack sc
  let a := sc % 2 ^ 30 * 64
  s.extList.any fun n => s.extState n = .revoking && s.extTier n = 0 &&
    (let x := s.extStacks n; x.1 ≤ st && st ≤ x.2.1 && s.extBack n ≤ a && a < s.extBack n + x.2.2)

/-- The tier 0 extent that a sector backs. -/
def State.sectorExt (s : State) (sc : Nat) : Option Nat :=
  let st := secStack sc
  let a := sc % 2 ^ 30 * 64
  s.liveExts.find? fun n => s.extTier n = 0 &&
    (let x := s.extStacks n; x.1 ≤ st && st ≤ x.2.1 && s.extBack n ≤ a && a < s.extBack n + x.2.2)

/-- The device offset that a sector backs; 0 when none (R499). -/
def State.sectorOff (s : State) (sc : Nat) : Nat :=
  let st := secStack sc
  let a := sc % 2 ^ 30 * 64
  match s.sectorExt sc with
  | some n =>
    let b := a - s.extBack n
    s.extOff n + (if s.extLocal n then b / 256 * 1024 + st % 4 * 256 + b % 256 else b / 4096 * 65536 + st * 4096 + b % 4096)
  | none => 0

/-- The corrective write of a sector would meet a busy line (R188). -/
def State.scrubBusy (s : State) (sc : Nat) : Bool := match s.sectorExt sc with
  | some n =>
    let o := s.sectorOff sc
    s.extState n = .active && s.extCoherent n && (s.regionAt o).isNone && s.taken (o / 128)
  | none => false

/-- The corrective write that a busy line has refused waits to be tried again: the sector keeps its flaw. -/
def State.scrubWaits (s : State) (sc : Nat) : State :=
  let o := s.sectorOff sc
  let p : Part := { pos := 0, len := 64, dev := s.ownId, off := o, ext := (s.sectorExt sc).getD 0, last := s.boInit, st := .backoff s.now }
  let s : State := { s with mem := { s.mem with flawed := sinsert sc s.mem.flawed } }
  (s.accept (.scrub sc) 0 (.access { kind := .write, gfa := mkGfa s.ownId o, len := 64, parts := [p] })).1

/-- The scrubbing read of a sector (R487); the sector of a REVOKING extent is passed over (R75). -/
def State.scrubMeet (s : State) (sc found : Nat) : State :=
  if s.revokingSector sc then s
  else
    let flawed := if found = 1 || found = 3 then sinsert sc s.mem.flawed else s.mem.flawed
    let broken := if found = 2 then sinsert sc s.mem.broken else s.mem.broken
    let s : State := { s with mem := { s.mem with flawed := flawed, broken := broken } }
    let met := s.meetSector sc (s.sectorOff sc)
    if found = 3 then met.count .hubErrStat 5
    else if s.mem.flawed.contains sc && !s.mem.broken.contains sc && s.scrubBusy sc then met.scrubWaits sc
    else met

/-- A sector of a stack has had its turn; with all of a quadrant's a pass of it ends (R487). -/
def State.scrubTurn (s : State) (stack : Nat) : State :=
  let n := tget 0 s.err.scrubbed stack + 1
  let s : State := { s with err := { s.err with scrubbed := tset 0 s.err.scrubbed stack n } }
  let q := stack / 4
  let mine := (List.range 4).map fun k => 4 * q + k
  if mine.all fun k => s.stackDead k || 2 ^ 30 ≤ tget 0 s.err.scrubbed k then
    let s : State := { s with err := { s.err with
      scrubbed := mine.foldl (fun t k => tset 0 t k 0) s.err.scrubbed
      ueMarks := mine.foldl (fun t k => tset 0 t k 0) s.err.ueMarks } }
    s.count .hubErrStat 4
  else s

/-- A sector is scrubbed. `found` is what its code shows: 0 nothing new, 1 one corrupted symbol, 2
uncorrectable, 3 one corrupted symbol in a sector that was written before the corrective write. -/
def State.scrubRead (s : State) (stack sector : Nat) (found : Nat) : State :=
  if s.boot.phase != .running || s.err.stopped || s.scrubH = 0 || s.stackDead stack then s
  else (s.scrubMeet (stack * 2 ^ 30 + sector % 2 ^ 30) found).scrubTurn stack

/-! ### The log and injection (R500) -/

/-- HUB_ERR_LOG_ACK: the n oldest records go. -/
def State.logAck (s : State) (v : Word) : State :=
  let n := min (bits v 10 0) s.err.log.length
  { s with err := { s.err with log := s.err.log.drop n, head := (s.err.head + n) % 1024 } }

/-- HUB_ERR_INJ. -/
def State.inject (s : State) (v : Word) : State :=
  let off := bits v 46 6 * 64
  let kind := bits v 63 62
  if !bit (s.hub .hubErrCfg) 40 then s
  else match s.findExt off with
    | none => s
    | some n =>
      match s.locOf n (off - s.extOff n) with
      | .fls _ => s
      | .hbm a =>
        let sc := a / 64
        if s.extTier n != 0 then s
        else if kind = 1 then { s with mem := { s.mem with flawed := sinsert sc s.mem.flawed } }
        else if kind = 2 then { s with mem := { s.mem with broken := sinsert sc s.mem.broken } }
        else s

end Sys2Proof.Machine
end

