-- ==== Sys2Proof/Machine/Power.lean ====
section
/-! DEFINITION. Voltage, throttling and thermal limits, reference clocks, optical ports, pins and test
access (18_package_power.md). -/

namespace Sys2Proof.Machine

def clampTo (lo hi v : Nat) : Nat := max lo (min hi v)

/-- Fields of HUB_PWR_CFG as they act. -/
def State.opMv (s : State) : Nat := clampTo 700 850 (bits (s.hub .hubPwrCfg) 9 0)
def State.thrMv (s : State) : Nat := clampTo 620 700 (bits (s.hub .hubPwrCfg) 25 16)
def State.hyst (s : State) : Nat := max 1 (bits (s.hub .hubPwrCfg) 31 28)
def State.throtTj (s : State) : Nat := clampTo 80 110 (bits (s.hub .hubPwrCfg) 39 32)
def State.hbmTmax (s : State) : Nat := clampTo 80 100 (bits (s.hub .hubPwrCfg) 47 40)
def State.pCoreMax (s : State) : Nat := clampTo 800 1840 (bits (s.hub .hubPwrCfg) 63 48)

/-! ### AVSBus (R561) -/

/-- A write of the target voltage; one that fails is counted and attempted again. -/
def State.avsWrite (s : State) (mv : Nat) (ok : Bool) : State :=
  if ok then
    { s with
        out := if s.err.stopped then s.out else s.out ++ [.avs mv]
        pwr := { s.pwr with reqMv := mv, avsPending := none } }
  else ({ s with pwr := { s.pwr with avsPending := some mv } }).count .hubPwrStat 2

def State.avsRetry (s : State) (ok : Bool) : State :=
  match s.pwr.avsPending with
  | some mv => s.avsWrite mv ok
  | none => s

/-- The reading of voltage and current every 100 µs; one that fails changes nothing but its counter. -/
def State.avsRead (s : State) (ok : Bool) (mv amps : Nat) : State :=
  if ok then { s with pwr := { s.pwr with measMv := mv, coreA := amps } } else s.count .hubPwrStat 2

/-- A write of HUB_PWR_CFG (R561, R566). -/
def State.pwrCfgWrite (s : State) (v : Word) (ok : Bool) : State :=
  let a : RegAt := { reg := .hubPwrCfg }
  let s := s.putAt a (storedWrite s a v)
  s.avsWrite (if s.pwr.throttled then s.thrMv else s.opMv) ok

/-! ### Throttling (R564 to R567) -/

/-- Die j, numbered as in R499, is FAILED. -/
def State.dieFailed (s : State) (j : Nat) : Bool :=
  if j = 0 then false
  else if j ≤ 4 then s.quadDead (j - 1)
  else if j ≤ 6 then s.photHealth (j - 5) = .failed
  else s.flash.state = .failed

/-- A temperature that a unit reports (R567). -/
def report (failed : Bool) (t : Nat) : Nat := if failed then 0xFF else min 0xFE t

/-- µs spent THROTTLED since they were last counted (R585). -/
def State.countThrottled (s : State) : State :=
  let k := (s.now - s.pwr.throtSince) / 1000
  if !s.pwr.throttled || k = 0 then s
  else ({ s with pwr := { s.pwr with throtSince := s.pwr.throtSince + k * 1000 } }).count .hubPwrStat 1 k

/-- The evaluation every 100 µs. -/
def State.throttleEval (s : State) (x : Sensors) : State :=
  if s.err.stopped || s.boot.phase = .reset then s
  else
    let die := x.die.zipIdx.map fun t => report (s.dieFailed t.2) t.1
    let stk := x.stk.zipIdx.map fun t => report (s.stackHealth t.2 = .failed) t.1
    let hot (lim : Nat) (ts : List Nat) : Bool := ts.any fun t => t != 0xFF && lim ≤ t
    let trig : BitVec 3 := (if hot s.throtTj die then 1 else 0) ||| (if hot s.hbmTmax stk then 2 else 0)
      ||| (if s.pCoreMax < x.coreW then 4 else 0)
    let cool := !hot (s.throtTj - s.hyst + 1) die && !hot (s.hbmTmax - s.hyst + 1) stk
      && x.coreW * 100 < 95 * s.pCoreMax
    let s : State := { s with pwr := { s.pwr with dieTemp := die, stkTemp := stk, coreW := x.coreW, trig := trig } }
    let s := s.countThrottled
    if !s.pwr.throttled then
      if trig = 0 then s
      else
        let s := s.avsWrite s.thrMv true
        let s : State := { s with pwr := { s.pwr with throttled := true, throtSince := s.now, clearSince := none } }
        (s.event 1 ([1, 0] ++ leBytes 2 s.thrMv)).count .hubPwrStat 0
    else if !cool then { s with pwr := { s.pwr with clearSince := none } }
    else match s.pwr.clearSince with
      | none => { s with pwr := { s.pwr with clearSince := some s.now } }
      | some t =>
        if s.now - t < 10000000 then s
        else
          let s := s.avsWrite s.opMv true
          let s : State := { s with pwr := { s.pwr with throttled := false, clearSince := none } }
          s.event 1 ([0, 0] ++ leBytes 2 s.opMv)

/-- The device stops for a reason outside the SRAM of the hub (R495, R568, R571). -/
def State.stopFor (s : State) (die : Nat) : State :=
  let (s, d) := s.draw
  s.deviceStop { type := Config.stopType d, severity := 2, die := BitVec.ofNat 8 die }

/-- A die reaches 125 °C or a stack 110 °C (R568); a device held in reset has no service to stop. -/
def State.thermalTrip (s : State) (stack : Bool) (i temp : Nat) : State :=
  if !s.pwr.pwrgd || temp < (if stack then 110 else 125) || (if stack then 16 ≤ i else 8 ≤ i) then s
  else if s.boot.phase = .reset then { s with pwr := { s.pwr with thermtrip := true } }
  else ({ s with pwr := { s.pwr with tripped := true, thermtrip := true } }).stopFor (if stack then i / 4 + 1 else i)

/-! ### Reference clocks (R571) -/

def State.clockLost (s : State) (i : Nat) : State :=
  if 7 ≤ i || s.pwr.clkAbsent.getLsbD i then s
  else
    let m : BitVec 7 := BitVec.ofNat 7 (2 ^ i)
    let s : State := { s with pwr := { s.pwr with clkAbsent := s.pwr.clkAbsent ||| m, clkSeen := s.pwr.clkSeen ||| m } }
    let s := s.count .hubPwrStat 3
    if i = 0 then s.stopFor 0
    else if i ≤ 2 then s.photLost (i - 1)
    else (List.range 4).foldl (fun s k => s.trainingLoss (4 * (i - 3) + k) false) s

def State.clockBack (s : State) (i : Nat) : State :=
  { s with pwr := { s.pwr with clkAbsent := s.pwr.clkAbsent &&& ~~~(BitVec.ofNat 7 (2 ^ i)) } }

/-! ### Optical ports (R572 to R574) -/

/-- A write of PH_PORT_CFG(k) of engine p: a change of mode or en takes every sub-port down. -/
def State.portCfgWrite (s : State) (p k : Nat) (v : Word) : State :=
  let a : RegAt := { reg := .phPortCfg, inst := p, i := k }
  let old := s.at a
  let s := s.putAt a (storedWrite s a v)
  if s.at a = old then s
  else
    let m := bits (s.at a) 2 1
    (s.opticalDown (4 * p + k)).setOptical (4 * p + k) fun x => { x with mode := BitVec.ofNat 2 (if m = 3 then 0 else m) }

def State.unseat (s : State) (e : Nat) : State := (s.opticalDown e).setOptical e fun x => { x with conn := false }
def State.seat (s : State) (e : Nat) : State := s.setOptical e fun x => { x with conn := true }

/-- LASER_ENp (R574). -/
def State.laserEn (s : State) (p : Nat) : Bool :=
  s.pwr.dspLoaded.getLsbD p && s.photHealth p != .failed && !s.err.stopped && !s.pwr.released

/-! ### Pins and test access (R554, R579, R580) -/

/-- A supply below its minimum: the outputs are released and no port emits light (R554); the loss of
VDD_1V8, the last of the supply table, releases THERMTRIP_n (R568). -/
def State.supplyLow (s : State) (i : Nat) : State :=
  let s := (List.range 8).foldl State.opticalDown s
  { s with pwr := { s.pwr with released := true, thermtrip := s.pwr.thermtrip && i != 7 } }

/-- A TAP instruction; with dev_lock set every other one acts as BYPASS. IDCODE shifts out the code of
B0. -/
def State.tap (s : State) (ir : TapIr) : State :=
  let ir : TapIr := match ir with
    | .other n => if s.devLock then .bypass else .other n
    | x => x
  let s : State := { s with pwr := { s.pwr with tapIr := ir } }
  if ir = .idcode then { s with out := s.out ++ [.jtag 0x11600C2F] } else s

/-- A write of HUB_RST_CTL: a register reset starts 10 µs later. -/
def State.rstWrite (s : State) (v : Word) : State :=
  if bit v 0 && bits v 31 16 = 0xD1E5 then { s with pwr := { s.pwr with resetAt := some (s.now + 10000) } } else s

end Sys2Proof.Machine
end

