-- ==== Sys2Proof/Machine/Image.lean ====
section
/-! DEFINITION. The configuration NOR, images and their checks, boot records, settings and their
migration (R502 to R512, R516, R517). -/

namespace Sys2Proof.Machine

/-! ### NOR (R503) -/

/-- An erased byte. -/
def norBlank : Byte := 0xFF

def State.norRead (s : State) (a n : Nat) : List Byte := (List.range n).map fun i => tget norBlank s.boot.nor (a + i)

def norPut : Table Byte → Nat → List Byte → Table Byte
  | t, _, [] => t
  | t, a, b :: bs => norPut (tset norBlank t a b) (a + 1) bs

def State.norWrite (s : State) (a : Nat) (bs : List Byte) : State :=
  { s with boot := { s.boot with nor := norPut s.boot.nor a bs } }

def State.norErase (s : State) (a n : Nat) : State :=
  { s with boot := { s.boot with nor := s.boot.nor.filter fun x => !(a ≤ x.1 && x.1 < a + n) } }

def slotBase (b : Bool) : Nat := if b then 0x02100000 else 0x00100000
def migBase (b : Bool) : Nat := if b then 0x04200000 else 0x04100000

/-! ### Images (R506 to R511) -/

/-- Bytes of an image: offset, length. -/
abbrev Source := Nat → Nat → List Byte

def Source.num (r : Source) (off n : Nat) : Nat := leNat (r off n)

/-- A manifest entry: kind, part_ver, pay_off, pay_len, digest. -/
structure ManEntry where
  kind : Nat
  ver : Nat
  off : Nat
  len : Nat
  digest : List Byte
deriving DecidableEq, Repr

def manEntries (r : Source) : List ManEntry :=
  (List.range 4).map fun i =>
    let o := r.num 36 4 + 32 + 96 * i
    { kind := r.num o 1, ver := r.num (o + 4) 4, off := r.num (o + 8) 4, len := r.num (o + 12) 4, digest := r (o + 16) 64 }

/-- man_len of four entries. -/
def manLen : Nat := 32 + 96 * 4 + 114

/-- 64 bytes of SHAKE256. -/
def digest64 (bs : List Byte) : List Byte := shake256 bs 64

/-- The image digest (R510). -/
def imageDigest (r : Source) : List Byte := digest64 (r 0 (r.num 44 4 + 184))

def rootBytes (b : Bool) : List Byte := leBytes 57 (Config.rootKey b).toNat

/-- An Ed448 check under the root key that a byte names. -/
def rootVerify (root : Nat) (ctx : String) (m sig : List Byte) : Bool :=
  root ≤ 1 && edVerify (rootBytes (root = 1)) (asciiBytes ctx) m sig

/-- Two parts of an image meet. -/
def partsMeet : List (Nat × Nat) → Bool
  | [] => false
  | p :: ps => (ps.any fun q => overlaps p.1 p.2 q.1 q.2) || partsMeet ps

/-- Check 1 of R511. -/
def imageShape (r : Source) : Bool :=
  let trl := r.num 44 4
  let len := r.num 24 4
  let pays := if r.num 40 4 = manLen then (manEntries r).map fun m => (m.off, m.len) else []
  let parts := [(0, 256), (r.num 28 4, r.num 32 4), (r.num 36 4, r.num 40 4), (trl, 304)] ++ pays
  r.num 0 4 = 0x4D5A4931 && r.num 6 2 = 256 && r.num 12 4 < 2 && (r 52 204).all (· = 0)
    && (r (trl + 58) 2).all (· = 0) && (r (trl + 178) 6).all (· = 0) && (r (trl + 298) 6).all (· = 0)
    && len ≤ 2 ^ 25 && len = trl + 304
    && (parts.all fun p => p.1 % 8 = 0 && p.1 + p.2 ≤ len) && !partsMeet parts

/-- Check 8. -/
def manifestOk (r : Source) : Bool :=
  let o := r.num 36 4
  let es := manEntries r
  r.num 40 4 = manLen && r.num o 2 = 0x4D46 && r.num (o + 2) 1 = 1 && r.num (o + 3) 1 = 4 && (r (o + 17) 15).all (· = 0)
    && ([1, 2, 3, 4].all fun k => es.countP (·.kind = k) = 1)
    && (es.zipIdx.all fun x => (r (o + 32 + 96 * x.2 + 1) 3).all (· = 0) && (r (o + 32 + 96 * x.2 + 80) 16).all (· = 0))
    && (es.all fun m => m.off % 64 = 0 && m.off + m.len ≤ r.num 24 4 && digest64 (r m.off m.len) = m.digest)
    && (es.map (·.len)).sum ≤ 24 * 2 ^ 20

/-- A settings block (R507). -/
structure SetBlock where
  typ : Nat
  ver : Nat
  flags : Nat
  value : List Byte
deriving DecidableEq, Repr

/-- The blocks of a run of bytes; `none` when they do not fill it. -/
def blocksOf : Nat → List Byte → Option (List SetBlock)
  | _, [] => some []
  | 0, _ => none
  | n + 1, b =>
    let len := field b 4 4
    let all := 8 + roundUp len 8
    if b.length < all || !zeroAt b (8 + len) (all - 8 - len) then none
    else (blocksOf n (b.drop all)).map fun bs =>
      { typ := field b 0 2, ver := field b 2 1, flags := field b 3 1, value := slice b 8 len } :: bs

def SetBlock.bytes (x : SetBlock) : List Byte :=
  leBytes 2 x.typ ++ [BitVec.ofNat 8 x.ver, BitVec.ofNat 8 x.flags] ++ leBytes 4 x.value.length ++ x.value
    ++ List.replicate (roundUp x.value.length 8 - x.value.length) 0

/-- REG entries: offset and value. -/
def regEntries (x : SetBlock) : List (Nat × Word) :=
  (List.range (x.value.length / 16)).map fun i => (field x.value (16 * i) 4, BitVec.ofNat 64 (field x.value (16 * i + 8) 8))

def SetBlock.known (x : SetBlock) : Bool :=
  (x.typ = 1 && (x.ver = 1 || x.ver = 2)) || (x.typ = 2 && x.ver = 1) || (x.typ = 3 && x.ver = 1)

/-- The status of one block (R508, check 9). -/
def SetBlock.check (x : SetBlock) : Byte :=
  if 2 ≤ x.flags then stMalformed
  else if !x.known then (if x.flags = 1 then stUnsupported else stOk)
  else
    let ok := match x.typ with
      | 1 => x.value.length % 16 = 0 && (List.range (x.value.length / 16)).all fun i =>
               field x.value (16 * i) 4 % 8 = 0 && zeroAt x.value (16 * i + 4) 4
      | 2 => 1 ≤ x.value.length && x.value.length ≤ 4096
      | _ => x.value.length = 8 && field x.value 0 8 < 2
    if ok then stOk else stMalformed

def imageBlocks (r : Source) : Option (List SetBlock) := blocksOf (r.num 32 4) (r (r.num 28 4) (r.num 32 4))

/-- R511, in order: the status of the first check that fails. -/
def imageCheck (r : Source) (idOk : Bool) (unit : Word) : Byte :=
  let trl := r.num 44 4
  let man := r.num 36 4
  let signer := r trl 57
  let settings : Byte := match imageBlocks r with
    | none => stMalformed
    | some bs => ((bs.map SetBlock.check).find? (· != stOk)).getD stOk
  if !imageShape r then stMalformed
  else if r.num 4 2 != 2 then stUnsupported
  else if r.num 8 4 != 0x1600 || r.num (trl + 60) 4 != 0x1600 then stUnsupported
  else if !rootVerify (r.num (trl + 57) 1) "MZ1600-KEY" (r trl 64) (r (trl + 64) 114) then stNotOwner
  else if !edVerify signer (asciiBytes "MZ1600-IMG") (imageDigest r) (r (trl + 184) 114) then stNotOwner
  else if r.num 12 4 = 1 && !(idOk && r.num 16 8 = unit.toNat) then stNotOwner
  else if !rootVerify (r.num (man + 16) 1) "MZ1600-FW" (digest64 (r man (32 + 96 * r.num (man + 3) 1)))
      (r (man + 32 + 96 * r.num (man + 3) 1) 114) || r.num (man + 12) 4 != 0x1600 then stNotOwner
  else if !manifestOk r then stMalformed
  else settings

/-- The image of a slot. -/
def State.slotImage (s : State) (b : Bool) : Source := fun off n => s.norRead (slotBase b + off) n

def State.slotCheck (s : State) (b : Bool) : Byte := imageCheck (s.slotImage b) s.boot.idOk s.unitId

/-! ### Boot records (R512) -/

structure BootRec where
  seq : Word32 := 0
  active : Bool := false
  trial : Bool := false
  tries : Nat := 0
deriving DecidableEq, Repr

/-- A copy of the boot record, when valid. -/
def State.bootCopy (s : State) (k : Nat) : Option BootRec :=
  let b := s.norRead (k * 0x10000) 64
  if field b 0 4 = 0x42524331 && field b 60 4 = (crc32c (b.take 60)).toNat then
    some { seq := BitVec.ofNat 32 (field b 4 4), active := field b 8 1 = 1, trial := field b 9 1 % 2 = 1, tries := field b 10 1 }
  else none

/-- The boot record and the copy that holds it; with neither valid, the default, and copy 1. -/
def State.bootRec (s : State) : BootRec × Nat :=
  match s.bootCopy 0, s.bootCopy 1 with
  | some a, some b => if newer a.seq b.seq then (b, 1) else (a, 0)
  | some a, none => (a, 0)
  | none, some b => (b, 1)
  | none, none => ({}, 1)

/-- Write the boot record: the other copy, the next seq. -/
def State.writeRec (s : State) (active trial : Bool) (tries : Nat) : State :=
  let (r, k) := s.bootRec
  let seq := r.seq + 1
  let b := leBytes 4 0x42524331 ++ leBytes 4 seq.toNat ++ [if active then 1 else 0, if trial then 1 else 0, BitVec.ofNat 8 tries]
    ++ List.replicate 49 0
  let s := s.norErase ((1 - k) * 0x10000) 0x10000
  let s := s.norWrite ((1 - k) * 0x10000) (b ++ leBytes 4 (crc32c b).toNat)
  { s with boot := { s.boot with seq := seq } }

/-! ### Migration (R517) -/

/-- A REG block of version 1 in the format of version 2, and how many entries were dropped. -/
def migrateBlock (x : SetBlock) : SetBlock × Nat :=
  if x.typ = 1 && x.ver = 1 then
    let es := (regEntries x).map fun e => (Config.mz800Offset e.1).map fun o => (o, e.2)
    let kept := es.filterMap id
    ({ x with ver := 2, value := kept.flatMap fun e => leBytes 4 e.1 ++ [0, 0, 0, 0] ++ leBytes 8 e.2.toNat },
      es.countP (·.isNone))
  else (x, 0)

/-- The blocks of the valid migration record of a slot, for the image of this digest. -/
def State.migRecord (s : State) (b : Bool) (img : List Byte) : Option (List SetBlock) :=
  let h := s.norRead (migBase b) 72
  let n := field h 4 4
  if field h 0 4 = 0x4D494731 && 72 + n + 64 ≤ 2 ^ 20 && h.drop 8 = img then
    let body := s.norRead (migBase b) (72 + n)
    if s.norRead (migBase b + 72 + n) 64 = kmac256 sealKey body (asciiBytes "MZ1600-MIG") 64 then
      blocksOf n (body.drop 72)
    else none
  else none

/-- The effective settings of the slot that starts: the blocks, their bytes, whether they were
migrated. -/
def State.settings (s : State) (b : Bool) : State × List SetBlock × List Byte × Bool :=
  let r := s.slotImage b
  let bs := (imageBlocks r).getD []
  if !(bs.any fun x => x.typ = 1 && x.ver = 1) then (s, bs, r (r.num 28 4) (r.num 32 4), false)
  else
    let img := imageDigest r
    match (if s.boot.idOk then s.migRecord b img else none) with
    | some ms => (s, ms, ms.flatMap SetBlock.bytes, true)
    | none =>
      let ms := bs.map migrateBlock
      let dropped := (ms.map (·.2)).sum
      let ms := ms.map (·.1)
      let bytes := ms.flatMap SetBlock.bytes
      let s := if dropped = 0 then s else s.count .secStat 4 dropped
      let body := leBytes 4 0x4D494731 ++ leBytes 4 bytes.length ++ img ++ bytes
      let s :=
        if !s.boot.idOk then s
        else if 2 ^ 20 < body.length + 64 then s.count .secStat 4
        else (s.norErase (migBase b) (2 ^ 20)).norWrite (migBase b) (body ++ kmac256 sealKey body (asciiBytes "MZ1600-MIG") 64)
      (s, ms, bytes, true)

end Sys2Proof.Machine
end

