-- ==== Sys2Proof/Machine/Boot.lean ====
section
/-! DEFINITION. Attestation, update and the Starting block's recovery (R518 to R524, R527). -/

namespace Sys2Proof.Machine

/-! ### Attestation (R519 to R521) -/

/-- A management message's context check: context 0, from a manager endpoint (R97); in the Starting block
any endpoint may send (R526). -/
def State.mgrCheck (s : State) (o : Origin) : Byte :=
  if o.ctxField != 0 then stSegmentFault
  else if s.boot.phase != .startingBlock && !s.isMgr o.peer then stSegmentFault
  else stOk

/-- Requests queued to the key engine. -/
def State.attests (s : State) : List Nat :=
  s.cmds.filterMap fun c => match c.body with | .attest _ _ => some c.id | _ => none

def State.secAttest (s : State) (f : Frame) : State :=
  let h := f.hdr
  let p := f.payload
  let what := field p 0 2
  s.withRequest 0x5C f {}
    (fun s n =>
      { bad := h.addr != 0 || h.opLen != 0 || h.payLen != 64 || 1 < what || !zeroAt p 2 6
        odd := s.v1 n || h.cls != 7 })
    (fun s o =>
      let st := s.mgrCheck o
      if st != stOk then s.sendCpl o st []
      else if !s.boot.idOk || (what = 1 && s.boot.image.devcert.isNone) then s.sendCpl o stUnsupported []
      else if 16 ≤ s.attests.length then s.sendCpl o stRetry []
      else match (if what = 1 then s.boot.image.devcert else none) with
        | some cert => s.sendCpl o stOk cert
        | none => (s.accept (.msg o) 0 (.attest what (slice p 8 56))).1)

/-- Bytes of one log entry in a report. -/
def logEntry (x : (Word32 × List Byte) × Nat) : List Byte :=
  leBytes 4 x.2 ++ leBytes 4 x.1.1.toNat ++ slice x.1.2 0 64

/-- Report bytes 0 to 847. -/
def State.report (s : State) (nonce : List Byte) : List Byte :=
  let b := s.boot
  let f (v : Bool) (k : Nat) : Nat := if v then k else 0
  let flags := f b.trial 1 + f (b.cause = 2 || b.cause = 3) 2 + f b.migrated 4 + f s.devLock 8
  leBytes 2 0xA77E ++ [1, 9] ++ leBytes 4 flags ++ leBytes 8 s.unitId.toNat ++ slice idPublic 0 57 ++ [0, 0, 0]
    ++ leBytes 4 s.err.restarts ++ slice nonce 0 56 ++ slice b.logVal 0 64 ++ b.logEnt.zipIdx.flatMap logEntry

/-- The key engine finishes the oldest report. -/
def State.attestSigned (s : State) : State :=
  match s.attests with
  | [] => s
  | id :: _ =>
    match s.findCmd id with
    | some c =>
      match c.src, c.body with
      | .msg o, .attest _ nonce =>
        let r := s.report nonce
        let sig := edSign idSecret (asciiBytes "MZ1600-ATT") (digest64 r)
        ((s.dropCmd id).sendCpl o stOk (r ++ sig)).count .secStat 0
      | _, _ => s
    | none => s

/-! ### Update (R522, R523) -/

/-- The slot that an update writes. -/
def State.target (s : State) : Bool := !s.boot.slot

/-- The Starter reads on: the header, then the image a piece of at most 4 KiB at a time, from off_base of
the extent of SEC_UPD_SRC, which must be ACTIVE and of tier 0. -/
def State.updNext (s : State) : State :=
  let b := s.boot
  let n := bits (s.hub .secUpdSrc) 11 0
  let pos := b.updImage.length
  let k := if pos = 0 then 256 else min (4096 - pos % 4096) (b.updLen - pos)
  if (b.updState != .verifying && b.updState != .writing) || k = 0 then s
  else if s.extState n != .active then s.updFails stExtentRevoked
  else if s.extTier n != 0 then s.updFails stUnsupported
  else if s.extLen n < pos + k then s.updFails stExtentRevoked
  else s.internal (.update b.updRun pos) 0 { kind := .read, gfa := mkGfa s.ownId (s.extOff n + pos), len := k }

/-- A new run of reads begins. -/
def State.updReads (s : State) : State :=
  ({ s with boot := { s.boot with updImage := [], updLen := 0, updRun := s.boot.updRun + 1 } }).updNext

/-- A read has ended: its bytes follow those before. The header gives the image's length. -/
def State.updRead (s : State) (run pos : Nat) (st : Byte) (data : List Byte) : State :=
  let b := s.boot
  if run != b.updRun || pos != b.updImage.length || (b.updState != .verifying && b.updState != .writing) then s
  else if st != stOk then s.updFails st
  else
    let img := b.updImage ++ data
    let len := if pos != 0 then b.updLen
      else if field img 0 4 = 0x4D5A4931 && field img 24 4 ≤ 2 ^ 25 then max 256 (field img 24 4) else 256
    ({ s with boot := { b with updImage := img, updLen := len } }).updNext

/-- The whole image has been read. -/
def State.updComplete (s : State) : Bool := s.boot.updLen != 0 && s.boot.updImage.length = s.boot.updLen

/-- The target slot and its migration area are erased. -/
def State.eraseTarget (s : State) : State :=
  (s.norErase (slotBase s.target) (2 ^ 25)).norErase (migBase s.target) (2 ^ 20)

/-- Verification or writing ends. -/
def State.updDone (s : State) (deviceOk : Bool) : State :=
  let b := s.boot
  match b.updState with
  | .verifying =>
    if !s.updComplete then s
    else
      let st := imageCheck (slice b.updImage) b.idOk s.unitId
      if st != stOk then s.updFails st
      else
        let s : State := { s with boot := { b with updDigest := digest64 b.updImage } }
        ((s.setUpd .writing stOk).eraseTarget).updReads
  | .writing =>
    if deviceOk && !s.updComplete then s
    else if deviceOk && digest64 b.updImage = b.updDigest then
      let s := s.norWrite (slotBase s.target) b.updImage
      let s : State := { s with boot := { s.boot with progress := 100, updImage := [], updLen := 0, updDigest := [] } }
      (s.setUpd .staged stOk).count .secStat 1
    else
      let (s, d) := s.draw
      s.eraseTarget.updFails (BitVec.ofNat 8 ((Config.norStatus d).val + 1))
  | _ => s

/-- trial_tries of SEC_UPD_CTL; 0 acts as 1. -/
def State.trialTries (s : State) : Nat := max 1 (bits (s.hub .secUpdCtl) 31 29)

def State.updRefused (s : State) : State := { s with boot := { s.boot with updStatus := stUnsupported } }

def State.updStage (s : State) : State :=
  if (s.boot.updState = .idle || s.boot.updState = .staged) && !s.boot.trial then
    (({ s with boot := { s.boot with progress := 0 } }).setUpd .verifying stOk).updReads
  else s.updRefused

def State.updActivate (s : State) : State :=
  if s.boot.updState = .staged then (s.writeRec s.target true s.trialTries).setUpd .activated stOk else s.updRefused

def State.updConfirm (s : State) : State :=
  if s.boot.trial then
    let s := s.writeRec s.boot.slot false 0
    { s with boot := { s.boot with trial := false, updStatus := stOk } }
  else s.updRefused

def State.updCancel (s : State) : State :=
  if s.boot.updState = .activated then (s.writeRec s.boot.slot false 0).setUpd .staged stOk else s.updRefused

/-- A write of SEC_UPD_CTL: trial_tries, then the op. -/
def State.updCtlWrite (s : State) (v : Word) : State :=
  let a : RegAt := { reg := .secUpdCtl }
  let s := s.putAt a (storedWrite s a v)
  match bits v 36 34 with
  | 0 => s
  | 1 => s.updStage
  | 2 => s.updActivate
  | 3 => s.updConfirm
  | 4 => s.updCancel
  | _ => s.updRefused

/-! ### The Starting block (R527) -/

def State.setRec (s : State) (st : Byte) : State := { s with boot := { s.boot with recStatus := st } }

/-- The 4 KiB of SEC_REC_BUF. -/
def State.recChunk (s : State) : List Byte := (List.range 512).flatMap fun i => leBytes 8 (s.hub .secRecBuf i).toNat

/-- A write of SEC_REC_CTL: slot and chunk, then the op; an op written while busy has no other effect. A
reserved op is refused at any time, with slot and chunk applied (R586). RESET starts as a register reset does (R580). -/
def State.recCtlWrite (s : State) (v : Word) : State :=
  let a : RegAt := { reg := .secRecCtl }
  let op := bits v 36 34
  let slot := bit v 32
  let chunk := bits v 12 0
  if 1 ≤ op && op ≤ 3 && s.boot.recBusy.isSome then s.setRec stRetry
  else
    let s := s.putAt a (storedWrite s a v)
    match op with
    | 0 => s
    | 1 =>
      let next := if slot = s.boot.recSlot then s.boot.recNext else 0
      if chunk != next then s.setRec stMalformed
      else { s with boot := { s.boot with recBusy := some (1, slot, chunk, s.recChunk) } }
    | 2 => { s with boot := { s.boot with recBusy := some (2, slot, 0, []) } }
    | 3 => { s with pwr := { s.pwr with resetAt := some (s.now + 10000) } }
    | _ => s.setRec stUnsupported

/-- A WRITE or COMMIT ends. -/
def State.recDone (s : State) (ok : Bool) : State :=
  match s.boot.recBusy with
  | none => s
  | some (op, slot, chunk, data) =>
    let s : State := { s with boot := { s.boot with recBusy := none } }
    if !ok then
      let (s, d) := s.draw
      s.setRec (BitVec.ofNat 8 ((Config.norStatus d).val + 1))
    else if op = 1 then
      let s := s.norWrite (slotBase slot + chunk * 4096) data
      { s with boot := { s.boot with recNext := chunk + 1, recSlot := slot, recStatus := stOk } }
    else
      let st := s.slotCheck slot
      let s := if st = stOk then s.writeRec slot false 0 else s
      { s with boot := { s.boot with recNext := 0, recStatus := st } }

end Sys2Proof.Machine
end

