-- ==== Sys2Proof/Machine/Registers.lean ====
section
/-! DEFINITION. What a register reads and what a write to it does (R14, R15, R529 to R534, R586), and the
SMBus subset (R536, R584). -/

namespace Sys2Proof.Machine

/-! ### Reads -/

/-- A word from fields, each at its lowest bit. -/
def pack (fs : List (Nat × Nat)) : Word := BitVec.ofNat 64 (fs.foldl (fun n f => n + f.2 * 2 ^ f.1) 0)

def flagOf (b : Bool) : Nat := if b then 1 else 0

/-- Word j of a byte list. -/
def wordOf (bs : List Byte) (j : Nat) : Word := BitVec.ofNat 64 (field bs (8 * j) 8)

def SessState.code : SessState → Nat
  | .closed => 0 | .opening => 1 | .open => 2 | .closing => 3 | .failed => 4
def ExtState.code : ExtState → Nat
  | .free => 0 | .filling => 1 | .active => 2 | .revoking => 3 | .drained => 4
def DomState.code : DomState → Nat
  | .idle => 0 | .up => 1 | .failing => 2 | .down => 3
def RegionState.code : RegionState → Nat
  | .free => 0 | .declaring => 1 | .ready => 2 | .folding => 3 | .ended => 4
def BindMode.code : BindMode → Nat
  | .none => 0 | .read => 1 | .write => 2 | .retired => 3
def StreamState.code : StreamState → Nat
  | .idle => 0 | .running => 1 | .draining => 2 | .ending => 3
def FlashState.code : FlashState → Nat
  | .off => 0 | .starting => 1 | .ready => 2 | .failed => 3
def UnitState.code : UnitState → Nat
  | .enabled => 0 | .quiescing => 1 | .killing => 2 | .disabled => 3
def UpdState.code : UpdState → Nat
  | .idle => 0 | .verifying => 1 | .writing => 2 | .staged => 3 | .activated => 4
def MemberKind.code : MemberKind → Nat
  | .unknown => 0 | .member => 1 | .excluded => 2

/-- HUB_ENG_CTL and QD_ENG_CTL. -/
def State.engCtlView (s : State) (u q : Nat) : Word :=
  let x := s.unit u q
  s.at (engCtl u q) ||| pack [(56, x.lastStatus.toNat), (37, x.state.code), (0, (s.unitCmds u q).length)]

/-- SQ_LANE registers of Lane l; a FREE Lane reads zero. -/
def State.laneView (s : State) (l : Nat) (r : Reg) : Word :=
  let x := s.lane l
  if x.state = .free then 0
  else match r with
    | .sqLaneSt => pack [(61, x.state.code), (49, x.ctx), (41, x.cursor), (21, x.peer.toNat), (0, x.len)]
    | .sqLaneReq => x.reqId
    | .sqLaneGen => pack [(0, x.gen.toNat)]
    | .sqLaneShape => pack [(32, x.scale), (24, x.fmt), (16, x.layers - 1), (8, x.nq), (0, x.nkv)]
    | .sqLaneSize => pack [(53, x.dim / 32), (32, x.window), (0, x.cap)]
    | _ => pack [(0, x.base)]

/-- SEC_BOOT. -/
def State.bootWord (s : State) : Word :=
  let b := s.boot
  pack [(56, b.failStatus.toNat), (48, b.cause), (40, b.tries), (39, flagOf b.trial), (38, flagOf b.migrated),
    (37, flagOf b.idOk), (32, flagOf b.slot), (0, b.seq.toNat)]

/-- HUB_ERR_UNIT. -/
def State.unitWord (s : State) : Word :=
  let sum (n : Nat) (f : Nat → Health) : Nat := (List.range n).foldl (fun a i => a + (f i).code * 4 ^ i) 0
  pack [(56, min 255 s.err.restarts), (40, sum 2 s.photHealth), (32, sum 4 s.quadHealth), (0, sum 16 s.stackHealth)]

/-- Word j of slot i of the error log; a slot that holds no record reads zero. -/
def State.logWord (s : State) (i j : Nat) : Word :=
  match s.err.log[(i + 1024 - s.err.head) % 1024]? with
  | some r => wordOf r.bytes j
  | none => 0

/-- Eight temperatures from the i-th on. -/
def tempWord (ts : List Nat) (i : Nat) : Word := pack ((List.range 8).map fun j => (8 * j, ts.getD (i + j) 0))

/-- Places of a pool extent in use. -/
def State.poolUsed (s : State) (e : Nat) : Nat := s.vr.pages.countP (·.ext = e)

/-- What a register reads. -/
def State.regRead (s : State) (a : RegAt) : Word :=
  let i := a.i
  let j := a.j
  let q := a.inst
  let own := s.at a
  let stat := tget 0 s.stat a.off
  match a.reg with
  | .hubCtxCfg => if i = 0 then 1 else own
  | .hubExtCtl =>
    let x := tget {} s.ext.ext i
    own ||| pack [(56, x.lastStatus.toNat), (20, s.extInFlight i), (13, x.state.code)]
  | .hubRvtUse =>
    pack [(49, s.xp.reqs.length), (32, s.xp.sessions.countP fun x => x.2.state != .closed), (0, s.tagsUsed)]
  | .hubSessInfo =>
    let x := s.sess i
    pack [(40, x.ver.toNat), (37, x.state.code), (0, x.peerEp.toNat)]
  | .dirDomCfg =>
    let x := tget {} s.dir.domains i
    own ||| pack [(40, x.lastStatus.toNat), (37, x.state.code)]
  | .dirUse => pack [(32, s.waiters q), (0, s.dir.entries.countP fun x => s.lineHome x.1 = q)]
  | .dirPeekHi => (tget (0, 0) s.dir.peek q).1
  | .dirPeekLo => (tget (0, 0) s.dir.peek q).2
  | .vrRegCtl =>
    let x := s.region i
    pack [(56, x.lastStatus.toNat), (28, s.vr.pages.countP (·.region = i)), (21, x.slots.countP (s.live i)), (13, x.state.code)]
  | .vrRegInfo =>
    pack [(32, (s.region i).curLap.toNat), (0, if s.liveLaps i = [] then 0 else (s.oldestLap i).toNat)]
  | .vrBind =>
    let b := tget {} s.vr.binds (16 * i + j)
    if b.mode = .none then 0 else pack [(48, b.region), (42, b.slot), (40, b.mode.code), (0, b.lap.toNat)]
  | .vrPool =>
    let p := s.pool q i
    own ||| pack [(56, p.lastStatus.toNat), (16, if p.attached then s.poolUsed (s.poolExt q i) else 0), (12, flagOf p.attached)]
  | .vrPoolFree =>
    let free (k : Nat) : Nat :=
      if (s.pool q k).attached then poolCount (s.extLen (s.poolExt q k)) - s.poolUsed (s.poolExt q k) else 0
    pack [(0, free 0 + free 1 + free 2 + free 3)]
  | .qdPaceSt =>
    let x := s.stream q i
    pack [(56, x.lastStatus.toNat), (53, x.state.code), (40, x.staged.countP fun t => !x.released.contains t), (16, x.lead), (0, x.slots)]
  | .qdPaceHead => BitVec.ofNat 64 (s.stream q i).head
  | .flsInfo =>
    pack [(32, s.popOr NandPop.rawCap), (24, s.popOr NandPop.targets), (16, s.popOr NandPop.pageKib), (0, s.popOr NandPop.ratedPe)]
  | .flsStatus =>
    let pm := (List.range 32).foldl (fun m c => min m (s.freePm c)) 255
    pack [(56, s.flash.lastStatus.toNat), (53, s.flash.state.code),
      (40, if s.flash.state = .ready then pm else 0), (0, s.popOr fun p => p.chOk.toNat)]
  | .flsWear => pack [(32, min 0xFFFF s.wear.1), (16, min 0xFFFF s.wear.2.1), (0, s.wear.2.2)]
  | .teUse =>
    let ps := s.programs q
    pack [(32, ps.countP fun p => p.2.slot.isSome), (0, ps.countP fun p => p.2.slot.isNone)]
  | .sqLaneSt | .sqLaneReq | .sqLaneGen | .sqLaneShape | .sqLaneSize | .sqLaneBase => s.laneView (64 * q + i) a.reg
  | .seCfg => own ||| pack [(56, (tget 0 s.seStatus q).toNat)]
  | .seUse => pack [(47, (s.threadless q).length), (16, s.threads q), (0, s.threadsBusy q)]
  | .guGrpCfg => own ||| pack [(1, flagOf (s.group i).active.isSome)]
  | .guCfg => own ||| pack [(56, (tget 0 s.gu.bufStatus q).toNat)]
  | .guUse =>
    let held := (s.heldOn q).length
    let rounds := s.gu.groups.countP fun g => (match g.2.active.bind s.eng with | some e => e.quad = q | none => false)
    pack [(32, 4 * held), (16, held), (0, rounds)]
  | .hubEngCtl => s.engCtlView (6 + i) 0
  | .qdEngCtl => s.engCtlView (1 + i) q
  | .hubHdlInfo =>
    let h := s.hurdle i
    pack [(63, flagOf h.alloc), (62, flagOf h.peerOk), (54, h.tenant), (37, s.hdl.watches.countP (·.hurdle = i))]
  | .hubHdlVal => if (s.hurdle i).alloc then (s.hurdle i).value else 0
  | .hubTenUse => pack [(32, s.watchesHeld i), (0, s.hurdlesHeld i)]
  | .qdCtxCfg => own ||| pack [(56, (tget 0 s.saveStatus q).toNat)]
  | .swBufUse => pack [(32, s.sharedUsed), (0, s.hdrmUsed)]
  | .swQUse => pack [(0, s.outTotal i j)]
  | .swInUse =>
    let held := (s.sw.paused.any (·.1 = 8 * i + j)) || s.heldAt i j != []
    pack [(32, flagOf held), (0, s.inTotal i j)]
  | .swFlowEp => (s.flowStaged i).1
  | .swFlowAct => (s.flowStaged i).2
  | .swGateCtl =>
    let g := s.gates i
    own ||| pack [(56, flagOf g.pending), (48, g.lastStatus.toNat), (8, flagOf g.oper)]
  | .fabCtl => own ||| pack [(56, s.fab.ctlStatus.toNat), (37, s.fab.state.code), (32, s.fab.cause)]
  | .fabEpoch => pack [(56, s.fab.epochStatus.toNat), (32, s.fab.staged.length), (0, s.fab.curEpoch.toNat)]
  | .fabMember => pack [(32, (s.member i).kind.code), (0, (s.member i).epoch.toNat)]
  | .fabNbr => (s.nbr i).word
  | .fabNbrUnit => (s.nbr i).unit
  | .fabNbrMac => pack [(0, (s.nbr i).mac.toNat)]
  | .fabPtpSt => s.fab.servo.word
  | .hubErrUnit => s.unitWord
  | .hubErrLogCtl => pack [(32, flagOf s.err.ovf), (16, s.err.log.length), (0, s.err.head)]
  | .hubErrFatal => match s.err.fatal with | some r => wordOf r.bytes i | none => 0
  | .hubErrLog => s.logWord i j
  | .secBoot => s.bootWord
  | .secUpdCtl => own ||| pack [(56, s.boot.updStatus.toNat), (40, s.boot.progress), (37, s.boot.updState.code)]
  | .secImgInfo => pack [(32, s.boot.image.svn.toNat), (0, s.boot.image.imageVer.toNat)]
  | .secLogVal => wordOf s.boot.logVal i
  | .secRecCtl => own ||| pack [(56, s.boot.recStatus.toNat), (40, flagOf s.boot.recBusy.isSome)]
  | .hubId => 0x00001600_000000B0
  | .hubUnitId => s.unitId
  | .hubIdPub => wordOf s.idPubBytes i
  | .hubCap0 => 0x0302010101010101
  | .hubCap1 => 0x1000100040000100
  | .hubCap2 => 0x0002000000014000
  | .hubFwVer =>
    if s.boot.phase = .startingBlock then 0
    else pack [(0, if i = 0 then s.boot.image.fwVer.toNat else (s.boot.image.parts.getD (i - 1) 0).toNat)]
  | .hubEvtQ => pack [(32, s.mgt.queue.length), (0, s.mgt.nextSeq.toNat)]
  | .hubEvtHead => match s.mgt.queue with | r :: _ => wordOf r.bytes i | [] => 0
  | .hubAlertStat => pack [(13, flagOf s.mgt.stop), (0, s.mgt.alert.toNat)]
  | .hubPwrSt =>
    let p := s.pwr
    pack [(62, if p.tripped then 2 else flagOf p.throttled), (59, p.trig.toNat), (42, p.reqMv % 1024), (32, p.measMv % 1024),
      (16, min 0xFFFF p.coreW), (0, min 0xFFFF p.coreA)]
  | .hubTempDie => tempWord s.pwr.dieTemp 0
  | .hubTempStk => tempWord s.pwr.stkTemp (8 * i)
  | .hubClkSt => pack [(8, s.pwr.clkSeen.toNat), (0, s.pwr.clkAbsent.toNat)]
  | .phPortSt =>
    let x := s.optical (4 * q + i)
    let en := bit (s.at { reg := .phPortCfg, inst := q, i := i }) 0
    pack [(32, x.link.toNat), (24, x.lanesOk.toNat), (2, flagOf (x.conn && en)), (0, x.mode.toNat)]
  | .hubRvtStat | .hubRvtWrap | .hubMmStat | .hubMmWrap | .qdEcStat | .qdEcWrap | .dirStat | .dirWrap | .vrStat | .vrWrap
  | .hubBorrowStat | .hubBorrowWrap | .qdPaceStat | .qdPaceWrap | .flsStat | .flsWrap | .teStat | .teWrap | .sqStat
  | .sqWrap | .seStat | .seWrap | .guStat | .guWrap | .hubHdlStat | .hubHdlWrap | .swStat | .swWrap | .fabStat | .fabWrap
  | .hubErrStat | .hubErrWrap | .qdErrStat | .qdErrWrap | .secStat | .secWrap | .hubEvtStat | .hubEvtWrap | .hubPwrStat
  | .hubPwrWrap | .phStat | .phWrap => stat
  | _ => own

/-! ### Writes -/

/-- A plain write: the fields by their access types (R14). -/
def State.plainWrite (s : State) (a : RegAt) (v : Word) : State := s.putAt a (storedWrite s a v)

/-- A write to a register of wrap flags clears those written 1 (R19). -/
def State.wrapWrite (s : State) (a : RegAt) (v : Word) : State :=
  { s with stat := tset 0 s.stat a.off (tget 0 s.stat a.off &&& ~~~(v &&& a.reg.desc.w1c)) }

/-- A register of a context's entry is rewritten: with both, its fault is cleared (R483). -/
def State.ctxUnfault (s : State) (c k : Nat) : State :=
  { s with ext := { s.ext with ctxFault := tmod 0 s.ext.ctxFault c fun f => f &&& ~~~(BitVec.ofNat 2 (2 ^ k)) } }

/-- A switch port's register: a port that does not exist takes no write (R432). -/
def State.portWrite (s : State) (p : Nat) (a : RegAt) (v : Word) : State :=
  if s.portExists p then s.plainWrite a v else s

/-- HUB_EVT_POP (R544). -/
def State.evtPop (s : State) (v : Word) : State :=
  if !bit v 0 || s.evtEn || s.mgt.queue = [] then s
  else ({ s with mgt := { s.mgt with queue := s.mgt.queue.drop 1 } }).count .hubEvtStat 1

/-- HUB_RVT_EVT: with evt_en 0 the records sent and not acknowledged stand unsent again (R543). -/
def State.evtCfgWrite (s : State) (v : Word) : State :=
  let s := s.plainWrite { reg := .hubRvtEvt } v
  if s.evtEn then s
  else { s with mgt := { s.mgt with queue := s.mgt.queue.map fun r => { r with sent := none } } }

/-- HUB_LOCK: its fields, smb_ro with dev_lock (R539). -/
def State.lockWrite (s : State) (v : Word) : State := s.plainWrite { reg := .hubLock } v

/-- HUB_ALERT_STAT: types and ovf are cleared by a 1 (R545). -/
def State.alertWrite (s : State) (v : Word) : State :=
  { s with mgt := { s.mgt with alert := s.mgt.alert &&& ~~~(v.setWidth 13) } }

/-- A register write (R14, R53, R61, R165, R168, R200, R238, R382, R432). -/
def State.regWrite (s : State) (a : RegAt) (v : Word) : State :=
  let i := a.i
  let j := a.j
  let q := a.inst
  match a.reg with
  | .hubCtxCfg => if i = 0 then s else (s.plainWrite a v).ctxUnfault i 0
  | .hubCtxPtb => (s.plainWrite a v).ctxUnfault i 1
  | .hubSegHbase => s.segStageWrite i j 0 v
  | .hubSegLen => s.segStageWrite i j 1 v
  | .hubSegGfa => s.segStageWrite i j 2 v
  | .hubSegAttr => s.segCommit i j v
  | .hubExtOff => if s.extFree i then (s.plainWrite a v).extUnfault i 0 else s
  | .hubExtLen => if s.extFree i then (s.plainWrite a v).extUnfault i 1 else s
  | .hubExtBack => if s.extFree i then (s.plainWrite a v).extUnfault i 2 else s
  | .hubExtCtl => (if s.extFree i then s.extUnfault i 3 else s).extCtlWrite i v
  | .hubCtxOwner => if s.ownerFixed i then s else s.plainWrite a v
  | .hubRvtEvt => s.evtCfgWrite v
  | .hubSessCtl => if bit v 0 then s.sessAbort i else s
  | .hubRcInval => s.rcInval v
  | .dirDomCfg => s.domCfgWrite i v
  | .dirDomMember => if s.domState i = .idle then s.plainWrite a v else s
  | .dirExtDom => if s.extFree i then s.plainWrite a v else s
  | .dirPeekAddr => s.peekWrite q v
  | .vrRegBase | .vrRegLen => if (s.region i).state = .free then s.plainWrite a v else s
  | .vrRegInfo =>
    if (s.region i).state = .free then s.setRegion i fun x => { x with curLap := BitVec.ofNat 32 (bits v 63 32) } else s
  | .vrRegCtl => s.regOp i (bits v 18 16)
  | .vrPool => s.poolWrite q i v
  | .flsCfg => s.flsCfgWrite v
  | .flsMap => if s.flash.state = .off then s.plainWrite a v else s
  | .sqLaneCtl => s.laneDrop (64 * q + i) v
  | .seCfg => s.scratchWrite q v
  | .guGrpCfg | .guGrpMember => if (s.group i).active.isSome then s else s.plainWrite a v
  | .guCfg => s.bufferWrite q v
  | .hubEngCtl => s.engCtlWrite (6 + i) 0 v
  | .qdEngCtl => s.engCtlWrite (1 + i) q v
  | .qdCtxCfg => s.saveWrite q v
  | .swQCfg => s.portWrite i a v
  | .swBufCfg | .swPfcThr => (s.plainWrite a v).afterDequeue.sweep
  | .fabNh => s.portWrite i a v
  | .swFlowMatch => s.flowCommit i v
  | .swFlowEp => s.flowStageWrite i true v
  | .swFlowAct => s.flowStageWrite i false v
  | .swPolRate => s.polWrite .swPolRate i v
  | .swPolBurst => s.polWrite .swPolBurst i v
  | .swGateCtl => s.gateCtlWrite i v
  | .swGateEnt => s.gateEntWrite i j a.k v
  | .fabId => s.fabIdWrite v
  | .fabCtl => s.fabCtlWrite v
  | .fabCommit => s.fabCommitWrite v
  | .fabChg => s.fabStage v
  | .fabHostFloor => s.hostFloorWrite v
  | .fabLease => if bit v 0 then s.renewLease else s
  | .fabRt => let s := s.plainWrite a v; { s with ext := { s.ext with rtFault := serase i s.ext.rtFault } }
  | .hubErrLogCtl => if bit v 32 then { s with err := { s.err with ovf := false } } else s
  | .hubErrLogAck => s.logAck v
  | .hubErrInj => s.inject v
  | .secUpdCtl => s.updCtlWrite v
  | .secRecCtl => s.recCtlWrite v
  | .hubLock => s.lockWrite v
  | .hubEvtPop => s.evtPop v
  | .hubAlertStat => s.alertWrite v
  | .hubPwrCfg => s.pwrCfgWrite v true
  | .hubClkSt => { s with pwr := { s.pwr with clkSeen := s.pwr.clkSeen &&& ~~~(BitVec.ofNat 7 (bits v 14 8)) } }
  | .hubRstCtl => s.rstWrite v
  | .phPortCfg => s.portCfgWrite q i v
  | .hubRvtWrap | .hubMmWrap | .qdEcWrap | .dirWrap | .vrWrap | .hubBorrowWrap | .qdPaceWrap | .flsWrap | .teWrap | .sqWrap
  | .seWrap | .guWrap | .hubHdlWrap | .swWrap | .fabWrap | .hubErrWrap | .qdErrWrap | .secWrap | .hubEvtWrap | .hubPwrWrap
  | .phWrap => s.wrapWrite a v
  | _ => s.plainWrite a v

/-! ### Management messages (R97, R123, R496, R498, R526, R530, R534) -/

/-- Registers that the Starting block shows over RVT (R526). -/
def inStart : Reg → Bool
  | .secBoot | .secRecCtl | .secRecBuf => true
  | _ => false

/-- SEC_REC registers exist only in the Starting block (R529). -/
def recReg : Reg → Bool
  | .secRecCtl | .secRecBuf => true
  | _ => false

/-- The register that an offset reaches over RVT. -/
def State.regHere (s : State) (off : Nat) : Option RegAt :=
  match regAt? off with
  | none => none
  | some a =>
    if s.boot.phase = .startingBlock then (if inStart a.reg then some a else none)
    else if recReg a.reg then none else some a

/-- The block of a FAILED quadrant or photonic engine (R534). -/
def State.blockFailed (s : State) (a : RegAt) : Bool := match a.reg.desc.blk with
  | .quad => s.quadDead a.inst
  | .phot => s.photHealth a.inst = .failed
  | _ => false

/-- An end-to-end code failure writes a record (R498); HUB_ERR_STAT(1) counts words of R482 and R483 only (R501). -/
def State.codeFailed (s : State) : State := s.errRecord { type := 4, severity := 1, die := 0, status := stRetry }

/-- Reads of n registers from an offset on; `bad` is the access whose code fails. -/
def State.readRegs (bad : Option Nat) : Nat → Nat → Nat → State → List Byte → State × Byte × List Byte
  | 0, _, _, s, bs => (s, stOk, bs)
  | n + 1, k, off, s, bs =>
    match s.regHere off with
    | none => (s, stUnsupported, [])
    | some a =>
      if s.blockFailed a then (s, stPoison, [])
      else if bad = some k then (s.codeFailed, stRetry, [])
      else State.readRegs bad n (k + 1) (off + 8) s (bs ++ leBytes 8 (s.regRead a).toNat)

/-- Writes of n registers from an offset on. -/
def State.writeRegs (bad : Option Nat) : Nat → Nat → Nat → List Byte → State → State × Byte
  | 0, _, _, _, s => (s, stOk)
  | n + 1, k, off, bs, s =>
    match s.regHere off with
    | none => (s, stUnsupported)
    | some a =>
      if s.blockFailed a then (s, stPoison)
      else if bad = some k then (s.codeFailed, stRetry)
      else State.writeRegs bad n (k + 1) (off + 8) (bs.drop 8) (s.regWrite a (wordOf bs 0))

/-- Stage 1 of a management access: the offset, and 1 to 64 registers. -/
def mgParse (h : Hdr) (pay : Nat) : Parse :=
  { bad := h.addr.toNat % 8 != 0 || 2 ^ 32 ≤ h.addr.toNat || h.opLen.toNat < 1 || 64 < h.opLen.toNat || h.payLen.toNat != pay }

/-- Stage 2: the sender, and the Starter. -/
def State.mgStage2 (s : State) (o : Origin) : Byte :=
  let st := s.mgrCheck o
  if st != stOk then st else if s.err.restarting then stRetry else stOk

def State.mgRead (s : State) (f : Frame) (bad : Option Nat) : State :=
  s.withRequest 0x20 f {} (fun _ _ => mgParse f.hdr 0) fun s o =>
    let st := s.mgStage2 o
    if st != stOk then s.sendCpl o st []
    else
      let (s, st, bs) := State.readRegs bad f.hdr.opLen.toNat 0 f.hdr.addr.toNat s []
      s.sendCpl o st bs

def State.mgWrite (s : State) (f : Frame) (bad : Option Nat) : State :=
  s.withRequest 0x21 f {} (fun _ _ => mgParse f.hdr (8 * f.hdr.opLen.toNat)) fun s o =>
    let st := s.mgStage2 o
    if st != stOk then s.sendCpl o st []
    else
      let (s, st) := State.writeRegs bad f.hdr.opLen.toNat 0 f.hdr.addr.toNat f.payload s
      s.sendCpl o st []

/-! ### SMBus (R535 to R537, R545, R584) -/

/-- The subset: whether a register may be written; `none` outside it. -/
def smbAccess : Reg → Option Bool
  | .hubId | .hubUnitId | .hubIdPub | .hubCap0 | .hubCap1 | .hubCap2 | .hubFwVer | .hubLock | .hubEvtQ | .hubEvtHead
  | .fabCtl | .fabEpoch | .hubErrUnit | .hubErrLogCtl | .hubErrLog | .hubErrFatal | .flsStatus | .flsWear
  | .secBoot | .secImgInfo | .secLogVal | .hubPwrSt | .hubTempDie | .hubTempStk | .hubPwrStat | .hubPwrWrap => some false
  | .hubEvtPop | .hubAlertStat | .hubAlertMask | .fabId | .hubErrLogAck | .secRecCtl | .secRecBuf | .hubPwrCfg | .hubClkSt
  | .hubRstCtl => some true
  | _ => none

/-- The register of the subset at an offset, and whether it may be written. -/
def State.smbReg (s : State) (off : Nat) : Option (RegAt × Bool) :=
  match regAt? off with
  | none => none
  | some a =>
    if recReg a.reg && s.boot.phase != .startingBlock then none else (smbAccess a.reg).map fun w => (a, w)

/-- The status byte of a transaction, and the register when it is OK. -/
def State.smbCheck (s : State) (wr : Bool) (count want off : Nat) (pecOk codeOk : Bool) : Byte × Option RegAt :=
  if !pecOk || count != want then (stMalformed, none)
  else if off % 8 != 0 then (stMalformed, none)
  else match s.smbReg off with
    | none => (stUnsupported, none)
    | some (a, w) =>
      if wr && (!w || s.err.stopped || bit (s.hub .hubLock) 1) then (stUnsupported, none)
      else if !codeOk then (stRetry, none)
      else if s.blockFailed a then (stPoison, none)
      else (stOk, some a)

/-- Counts a transaction that was not OK, and records a failed code. -/
def State.smbDone (s : State) (st : Byte) : State :=
  let s := if st = stOk then s else s.count .hubEvtStat 3
  if st = stRetry then s.codeFailed else s

def State.smbRead (s : State) (count off : Nat) (pecOk codeOk : Bool) : State :=
  if !s.pwr.pwrgd then s
  else
    let (st, a) := s.smbCheck false count 4 off pecOk codeOk
    let v : Word := match a with | some a => s.regRead a | none => 0
    ({ s with out := s.out ++ [Out.smb ([9, st] ++ leBytes 8 v.toNat)] }).smbDone st

def State.smbWrite (s : State) (count off : Nat) (v : Word) (pecOk codeOk : Bool) : State :=
  if !s.pwr.pwrgd then s
  else
    let (st, a) := s.smbCheck true count 12 off pecOk codeOk
    let s := match a with | some a => s.regWrite a v | none => s
    ({ s with mgt := { s.mgt with smbStatus := st } }).smbDone st

def State.smbStatusRead (s : State) : State :=
  if s.pwr.pwrgd then { s with out := s.out ++ [Out.smb [s.mgt.smbStatus]] } else s

/-- The alert output is driven (R545). -/
def State.alerting (s : State) : Bool :=
  s.mgt.stop || s.mgt.alert.toNat &&& bits (s.hub .hubAlertMask) 12 0 != 0

/-- The 7-bit address set by the straps. -/
def State.smbAddress (s : State) : Nat := 0x48 + s.pwr.smbAddr.toNat

def State.smbAlertResponse (s : State) : State :=
  if s.pwr.pwrgd && s.alerting then { s with out := s.out ++ [Out.smb [BitVec.ofNat 8 (2 * s.smbAddress)]] } else s

end Sys2Proof.Machine
end

