-- ==== Sys2Proof/Machine/EngCmd.lean ====
section
/-! DEFINITION. ENG_CMD: parse, selector, body and acceptance (R107, R122, R142). -/

namespace Sys2Proof.Machine

/-- The form of each engine unit. -/
def State.unitForm (s : State) (u : Nat) : Option UnitForm := match u with
  | 1 => some tensorForm
  | 2 => some (seqForm s.ownId)
  | 3 => some searchForm
  | 4 => some gatherForm
  | 5 => some pacerForm
  | 6 => some versionForm
  | 7 => some (hurdleForm s.ownId)
  | _ => none

/-- The checks of the selector, the opcode and the body, in the order of R107. -/
def State.engBody (s : State) (h : Hdr) (b : List Byte) : Byte :=
  let a := h.addr.toNat
  let u := a % 256
  let q := a / 256 % 256
  let op := field b 0 1
  match s.unitForm u with
  | none => stUnsupported
  | some y =>
    let common := isCommon (BitVec.ofNat 8 op) && u ≤ 5
    if !y.sel q (a / 65536 % 65536) op then stUnsupported
    else if !common && !y.op op then stUnsupported
    else if common then commonBody b q
    else y.body b

/-- A `FLASH_SYNC` covers the tier 1 writes performed before it left stage 2 (R255). -/
def State.noteSync (s : State) (id : Nat) : State :=
  match s.eng id with
  | some e =>
    if e.unit = 5 && e.op = 4 then { s with flash := { s.flash with syncs := s.flash.syncs ++ [(id, s.flashDirty.dedup)] } }
    else s
  | none => s

/-- An engine command. -/
def State.engCmd (s : State) (f : Frame) : State :=
  let h := f.hdr
  let u := h.addr.toNat % 256
  s.withRequest 0x30 f {}
    (fun s n => { bad := h.opLen != 0 || 2 ^ 32 ≤ h.addr.toNat, odd := s.v1 n, body := s.engBody h f.payload })
    (fun s o => match s.unitForm u with
      | some y => (s.engAccept o f u y).noteSync s.nextId
      | none => s)

end Sys2Proof.Machine
end

