-- ==== Sys2Proof/Machine/Start.lean ====
section
/-! DEFINITION. Starts and resets (R512 to R518, R525, R580, R581). -/

namespace Sys2Proof.Machine

/-! ### The choice of a slot (R513) -/

/-- The slot and the cause, before the images are checked; the boot record is rewritten. -/
def State.chooseSlot (s : State) : State × Bool × Nat :=
  let r := s.bootRec.1
  if !r.trial then (s, r.active, 0)
  else if r.tries = 0 then (s.writeRec (!r.active) false 0, !r.active, 2)
  else (s.writeRec r.active true (r.tries - 1), r.active, 1)

/-- What SEC_BOOT shows of the choice. -/
def State.setBoot (s : State) (slot : Bool) (cause : Nat) : State :=
  let r := s.bootRec.1
  { s with boot := { s.boot with slot := slot, cause := cause, seq := r.seq, tries := r.tries
                                 trial := r.trial && decide (r.active = slot) } }

/-! ### The measurement log (R518) -/

/-- Extend the log by its next entry. -/
def State.extend (s : State) (version : Word32) (d : List Byte) : State :=
  let b := s.boot
  let i := BitVec.ofNat 8 b.logEnt.length
  { s with boot := { b with logVal := digest64 (slice b.logVal 0 64 ++ [i] ++ d), logEnt := b.logEnt ++ [(version, d)] } }

/-- The manifest entry of a kind. -/
def manKind (r : Source) (k : Nat) : ManEntry :=
  ((manEntries r).find? (·.kind = k)).getD { kind := 0, ver := 0, off := 0, len := 0, digest := [] }

/-- Entries 0 to 7, by ROM. -/
def State.measure (s : State) : State :=
  let r := s.slotImage s.boot.slot
  let trl := r.num 44 4
  let w (n : Nat) : Word32 := BitVec.ofNat 32 n
  let s := s.extend 0xB0 (leBytes 64 Config.romDigest.toNat)
  let s := s.extend (if s.boot.slot then 1 else 0) (digest64 (leBytes 8 s.bootWord.toNat))
  let s := s.extend (w (r.num (trl + 57) 1)) (digest64 (r trl 64))
  let s := s.extend (w (r.num 48 4)) (imageDigest r)
  let s := [1, 2, 3].foldl (fun s k => s.extend (w (manKind r k).ver) (manKind r k).digest) s
  s.extend (w (r.num (r.num 36 4 + 4) 4)) (manKind r 4).digest

/-- What the running image brought. -/
def State.imageInfo (s : State) : ImageInfo :=
  let r := s.slotImage s.boot.slot
  let man := r.num 36 4
  { imageVer := BitVec.ofNat 32 (r.num 48 4), svn := BitVec.ofNat 32 (r.num (man + 4) 4)
    fwVer := BitVec.ofNat 32 (r.num (man + 8) 4)
    parts := [1, 2, 3, 4].map fun k => BitVec.ofNat 32 (manKind r k).ver }

/-! ### Settings (R508, R516) -/

/-- One REG entry, as an MG_WRITE of one register would apply it. -/
def State.applyEntry (s : State) (e : Nat × Word) : State :=
  match s.regHere e.1 with
  | some a => s.regWrite a e.2
  | none => s.count .secStat 4

/-- One block; LOCK acts after every other. -/
def State.applyBlock (s : State) (x : SetBlock) : State :=
  if !x.known then s.count .secStat 3
  else match x.typ with
    | 1 => (regEntries x).foldl State.applyEntry s
    | 2 => { s with boot := { s.boot with image := { s.boot.image with devcert := some x.value } } }
    | _ => s

/-- A LOCK block asks for the device lock. -/
def SetBlock.locks (x : SetBlock) : Bool := x.typ = 3 && x.ver = 1 && field x.value 0 8 % 2 = 1

def State.applySettings (s : State) (bs : List SetBlock) : State :=
  let s := bs.foldl State.applyBlock s
  if bs.any SetBlock.locks then s.lockWrite (s.hub .hubLock ||| 1) else s

/-! ### The start (R514, R525) -/

/-- The Starting block: E0 in 4 × 400G mode, P0's recovery program. -/
def State.enterStarting (s : State) (cause : Nat) : State :=
  let s : State := { s with boot := { s.boot with phase := .startingBlock, cause := cause }
                            pwr := { s.pwr with dspLoaded := 1 } }
  s.setOptical 0 fun x => { x with mode := 2 }

/-- Phases 1 to 5 from a slot that passes its checks. -/
def State.startFrom (s : State) (slot : Bool) (cause : Nat) : State :=
  let s := s.setBoot slot cause
  let s := if cause = 2 || cause = 3 then s.count .secStat 5 else s
  let s := s.measure
  let s : State := { s with boot := { s.boot with phase := .starting, image := s.imageInfo } }
  let (s, bs, bytes, mig) := s.settings slot
  let s : State := { s with boot := { s.boot with migrated := mig } }
  let s := s.extend (if mig then 1 else 0) (digest64 bytes)
  let s := s.applySettings bs
  let s := s.avsWrite s.opMv true
  { s with pwr := { s.pwr with dspLoaded := 3 } }

/-- ROM from the release of reset, with the straps as sampled. -/
def State.startDevice (s : State) : State :=
  let s : State := { s with pwr := { s.pwr with released := false } }
  if s.pwr.recovery then s.enterStarting 4
  else if !s.boot.norOk then s.enterStarting 5
  else
    let (s, slot, cause) := s.chooseSlot
    let st := s.slotCheck slot
    if st = stOk then s.startFrom slot cause
    else
      let s : State := { s with boot := { s.boot with failStatus := st } }
      let st := s.slotCheck (!slot)
      if st = stOk then s.startFrom (!slot) 3
      else
        let s : State := { s with boot := { s.boot with failStatus := st } }
        (s.setBoot slot 5).enterStarting 5

/-- HBM and port training end (R514, R127). -/
def State.startComplete (s : State) (links : BitVec 32) : State :=
  if s.boot.phase != .starting || s.err.stopped then s
  else
    let s : State := { s with boot := { s.boot with phase := .running } }
    (List.range 32).foldl (fun s p =>
      if links.getLsbD p then (s.setOptical (p / 4) fun x => { x with conn := true }).portUp p else s) s

/-! ### Resets (R580, R581) -/

/-- What the staging buffer held at the loss reaches NAND or not, page by page (R243). -/
def State.loseStage (s : State) : State :=
  s.flash.stage.foldl (fun s e =>
    let (s, d) := s.draw
    if Config.stagedKept d then (s.program e.1 e.2).getD s else s) s

/-- Every register takes its reset value, except HUB_ERR_FATAL and THERMTRIP_n; HBM is lost. The tray's
NOR and NAND, the pins and what the outside holds stay. -/
def State.deviceReset (s : State) : State :=
  let s := s.loseStage
  { pending := s.pending
    out := s.out
    free := s.free
    nextId := s.nextId
    err := { fatal := s.err.fatal }
    boot := { nor := s.boot.nor, norOk := s.boot.norOk, idOk := s.boot.idOk }
    flash := { pop := s.flash.pop, recorded := s.flash.recorded, nand := s.flash.nand, blocks := s.flash.blocks
               open_ := s.flash.open_, wearRaised := s.flash.wearRaised }
    pwr := { ports := s.pwr.ports.filterMap fun e => if e.2.conn then some (e.1, { conn := true }) else none
             pwrgd := s.pwr.pwrgd
             perst := s.pwr.perst
             thermtrip := s.pwr.thermtrip
             smbAddr := s.pwr.smbAddr
             recovery := s.pwr.recovery
             clkAbsent := s.pwr.clkAbsent } }

/-- PERST_n low for lowNs; between 20 ns and 50 ns `resets` says which of the two it was. -/
def State.perstFall (s : State) (lowNs : Nat) (resets : Bool) : State :=
  if lowNs < 20 || (lowNs < 50 && !resets) then s
  else { s.deviceReset with pwr := { s.deviceReset.pwr with perst := false } }

/-- PERST_n rises: the straps are sampled, and the start runs. -/
def State.perstRise (s : State) (smb : BitVec 3) (recovery norOk idOk : Bool) (nand : NandPop) : State :=
  if s.boot.phase != .reset || !s.pwr.pwrgd then s
  else
    let s : State := { s with
      pwr := { s.pwr with perst := true, smbAddr := smb, recovery := recovery }
      boot := { s.boot with norOk := norOk, idOk := idOk }
      flash := { s.flash with pop := some nand } }
    s.startDevice

/-- PWRGD falls: with PERST_n high, as if PERST_n had fallen (R560). -/
def State.pwrgdFall (s : State) : State :=
  if !s.pwr.pwrgd then s
  else
    let s := if s.pwr.perst then s.deviceReset else s
    { s with pwr := { s.pwr with pwrgd := false, perst := false } }

/-- PWRGD rises after the supplies: a power-on, which clears HUB_ERR_FATAL too. -/
def State.pwrgdRise (s : State) : State :=
  if s.pwr.pwrgd then s
  else { s with err := { s.err with fatal := none }, pwr := { s.pwr with pwrgd := true } }

/-- VDD_CORE at VSENSE, in mV (R560): below 570 the device acts as if PWRGD had fallen. -/
def State.coreUndervolt (s : State) (mv : Nat) : State :=
  if mv < 570 && s.pwr.pwrgd && s.pwr.perst then
    let s := s.deviceReset
    { s with pwr := { s.pwr with perst := false } }
  else s

/-- A register reset begins 10 µs after its write; the full start follows. -/
def State.registerReset (s : State) : State :=
  match s.pwr.resetAt with
  | some t => if t ≤ s.now then s.deviceReset.startDevice else s
  | none => s

end Sys2Proof.Machine
end

