-- ==== Sys2Proof/Machine/Settle.lean ====
section
/-! DEFINITION. What a step leaves due is worked off before it ends (log 18). -/

namespace Sys2Proof.Machine

/-! ### Engine commands -/

/-- An engine command that is killed, or has met a condition, stops: its unit gives it its status (R39,
R40). -/
def State.engStop (s : State) (id : Nat) (e : Eng) : State :=
  let by_ (order : List Byte) : Byte := e.killed.getD (firstByOrder order e.conds)
  match e.unit with
  | 1 => s.teEnd id (by_ tensorOrder)
  | 2 => s.seqEnd id (by_ seqOrder)
  | 3 => s.searchEnd id (by_ searchOrder)
  | 4 => s.gatherEnd id (by_ gatherOrder)
  | 5 => s.pacerStop id e (by_ [])
  | 6 => (s.endEng id (by_ versionOrder) []).wakeVersions
  | _ =>
    if s.hdl.watches.any fun w => w.to_ = .cmd id then s.endWatches (fun w => w.to_ = .cmd id) (by_ hurdleOrder)
    else s.hurdleBad id (field e.body 4 2) (by_ hurdleOrder)

/-- A started command goes on by its unit. -/
def State.engRun (s : State) (id : Nat) (e : Eng) : State :=
  match e.unit with
  | 1 => s.tensorRun id e
  | 2 => s.seqRun id e
  | 3 => s.searchRun id e
  | 4 => s.gatherRun id e
  | 5 => s.pacerRun id e
  | 6 => s.versionRun id e
  | _ => s.hurdleRun id e

/-- A command that stops issues no further internal access: one that was refused is not tried again (R188, R407), nor
one for the Heat parts that a relay command serves. -/
def State.dropBackoff (s : State) (id : Nat) (e : Eng) : State :=
  let off (p : Part) : Bool := match p.st with | .backoff _ => true | _ => false
  let heats := if e.unit = 4 && e.relay then (s.heldOf e.grp e.round).map (·.1) else []
  let mine : Src → Bool
    | .engine k => k = id
    | .heat k => heats.contains k
    | _ => false
  s.cmds.foldl (fun s c => match c.body with
    | .access a =>
      if !mine c.src || !a.parts.any off then s
      else if a.parts.all fun p => off p || p.isDone then
        let s := (s.dropCmd c.id).forget c.id
        match c.src with
        | .heat k => s.setHeat k fun h => { h with waits := h.waits - 1 }
        | _ => s.setEng id fun e => { e with waits := e.waits - 1 }
      else a.parts.zipIdx.foldl (fun s x =>
        if off x.1 then s.endPart c.id x.2 { stage := 4, status := stAborted, data := [] } else s) s
    | _ => s) s

/-- Work of a command is on its way and ends before it stops: internal accesses, write-backs that it awaits, accesses for
the Heat parts it serves, a Hurdle update at its owner (R40, R407). -/
def State.outstanding (s : State) (id : Nat) (e : Eng) : Bool :=
  e.waits != 0 || s.flushWaits e || s.partsOut id e || s.hurdleOut id e

/-- An engine command may go on. What it has on its way is waited for before it stops. -/
def State.engTurn (s : State) (id : Nat) : State :=
  match s.eng id with
  | none => s
  | some e =>
    if isCommon e.op && e.unit ≤ 5 then
      match e.killed with
      | some st => if s.outstanding id e then s else s.endEng id st []
      | none => if e.started then s.commonRun id e else s
    else if e.killed.isSome || e.conds != [] then
      let s := s.dropBackoff id e
      match s.eng id with
      | some e => if s.outstanding id e then s else s.engStop id e
      | none => s
    else if e.started then s.engRun id e
    else s

/-- The next commands of a queue start; a tensor program may take a freed slot (R302). -/
def State.queueTurn (s : State) (u q k : Nat) : State :=
  let s := s.queueStart u q k
  if u = 1 then s.teAdmitAll q else s

/-! ### Answers -/

/-- The answer to a forwarded part: its bytes out of the widened lines, which the hub read cache keeps
(R41, R49, R135). The device tries its own requests again that the owner refused (R188, R301). -/
def State.fwdAnswer (s : State) (id i : Nat) (st : Byte) (nc : Bool) (data : List Byte) : State :=
  match s.findCmd id with
  | none => s
  | some c =>
    match c.acc? with
    | none => s
    | some a =>
      match a.parts[i]? with
      | none => s
      | some p =>
        if st = stRetry && c.tries then s.backOff id i
        else
        let wide := p.wide
        let at_ := a.gfa + p.pos
        let lo := if wide then at_ / 128 * 128 else at_
        let s := if wide && st = stOk then s.rcFill (lo / 128) data else s
        let s := s.setAcc id fun a => { a with nc := nc }
        let bytes := if a.kind = .read || a.kind = .atomic then slice data (at_ - lo) p.len else []
        match if st = stOk then a.hurtHere p else none with
        | some o =>
          -- the word was hurt on its way (R482)
          let bytes := if a.kind = .read then zeroSector at_ o bytes else []
          ((s.wordBad 0 stPoison).endPart id i { stage := 6, status := stPoison, data := bytes }).settleAccess id
        | none => (s.endPart id i { stage := 6, status := st, data := bytes }).settleAccess id

/-- A request that the device sent has ended (R109). -/
def State.answered (s : State) (k : ReqKind) (st : Byte) (nc : Bool) (data : List Byte) : State :=
  match k with
  | .fwd c i _ => s.fwdAnswer c i st nc data
  | .recall l i => s.recallAnswered l i st data
  | .baton l typ => s.batonAnswer l typ.toNat st.toNat data
  | .heat c i => s.heatAnswer c i st data
  | .hdlPeer c => s.hurdleAnswer c st data
  | .hdlSignal gfa _ ctx _ => s.signalAnswer gfa ctx st data
  | .report => if st = stOk then s.renewLease else s

/-! ### The list -/

/-- One consequence. -/
def State.handle (s : State) : Due → State
  | .stackFail n => s.stacksLost [n] true
  | .quadFail q => s.quadLost q
  | .flashFail => s.flashLost
  | .photFail p => s.photLost p
  | .sessFail n i => s.sessFailed n i
  | .sessOpen n => s.peerOpened n
  | .txnReady l => s.txnReady l
  | .eng id => s.engTurn id
  | .part id => s.partRun id
  | .queue u q k => s.queueTurn u q k
  | .laneWake l => s.laneWake l
  | .streamWake q k => s.streamWake q k
  | .answer k st nc data => s.answered k st nc data
  | .isolate c => s.isolateNow c
  | .kill u q => s.killUnit u q
  | .suspect d r => s.suspectPeer d r
  | .retireDue => s.retireDue
  | .tilePage q k t p wr st data marks => s.tilePage q k t p wr st data marks
  | .tagFree => s.retryWaiting
  | .input q => State.drainInput q s.dir.input.length s
  | .hdlSent c => s.hurdleSent c
  | .updRead run pos st data => s.updRead run pos st data
  | .ecEvict q l => s.ecEvict q l
  | .revoked n => s.revokedUsers n

/-- Work off the list, oldest first. -/
def State.settleGo : Nat → State → State
  | 0, s => s
  | n + 1, s =>
    match s.due with
    | [] => s
    | d :: ds => State.settleGo n (State.handle { s with due := ds } d)

/-- What is due is worked off; what 2^20 consequences leave stays due (log 18). -/
def State.settled (s : State) : State := State.settleGo 1048576 s

/-- A command acts: what an earlier one has left due, its effect, all that the effect leaves due, and the queue of
commands as it was. -/
def State.act (s : State) (f : State → State) : Host.Outcome State Fault Refusal :=
  .next { (f s.settled).settled with pending := s.pending }

/-- A command to a device that has not stopped: a stopped device accepts nothing (R495). -/
def State.perform (s : State) (f : State → State) : Host.Outcome State Fault Refusal :=
  if s.err.stopped then .next s else s.act f

/-- A register write reaches its register: its block serves (R534), and in the Starting block only that
block's registers exist (R526, R529). -/
def State.reaches (s : State) (a : RegAt) : Bool :=
  !s.blockFailed a && (if s.boot.phase = .startingBlock then inStart a.reg else !recReg a.reg)

/-- A command that is a write of register a. -/
def State.regRow (s : State) (a : RegAt) (v : Word) : State := if s.reaches a then s.regWrite a v else s

/-- A command that writes an op to the control register of unit u of quadrant q (R404). -/
def State.unitOp (s : State) (u q : Nat) (v : Word) (op : Nat) : State :=
  if u = 0 then s else s.regRow (engCtl u q) (putBits v 36 35 op)

/-- One nanosecond passes on the time-of-day counter, at the rate of the servo while it slews (R479,
log 1): `frac` counts femtoseconds. -/
def State.tick (s : State) : State :=
  let v := s.fab.servo
  let step : Nat := if v.slewLeft = 0 then (1000000 + v.ppm).toNat else 500000
  let t := s.frac + step
  let s : State := { s with fab := { s.fab with servo := { v with slewLeft := v.slewLeft - 1 } } }
  { s with now := s.now + t / 1000000, frac := t % 1000000 }

end Sys2Proof.Machine
end

