-- ==== Sys2Proof/Machine/BootCmds.lean ====
section
/-! DEFINITION. Commands of 16_boot_firmware.md: one meaning for each row. -/

namespace Sys2Proof.Machine

/-- R519, R521. -/
def execSecAttest (f : Frame) (s : State) : Host.Outcome State Fault Refusal :=
  s.perform fun s => s.secAttest f

/-- R520. -/
def execAttestSigned (s : State) : Host.Outcome State Fault Refusal :=
  s.perform fun s => s.attestSigned

/-- R522: a write of SEC_UPD_CTL with op STAGE. -/
def execSecUpdStage (v : Word) (s : State) : Host.Outcome State Fault Refusal :=
  s.perform fun s => s.regRow { reg := .secUpdCtl } (putBits v 36 34 1)

/-- R522. -/
def execSecUpdWriteDone (deviceOk : Bool) (s : State) : Host.Outcome State Fault Refusal :=
  s.perform fun s => s.updDone deviceOk

/-- R523: a write of SEC_UPD_CTL with op ACTIVATE. -/
def execSecUpdActivate (v : Word) (s : State) : Host.Outcome State Fault Refusal :=
  s.perform fun s => s.regRow { reg := .secUpdCtl } (putBits v 36 34 2)

/-- R523: a write of SEC_UPD_CTL with op CONFIRM. -/
def execSecUpdConfirm (v : Word) (s : State) : Host.Outcome State Fault Refusal :=
  s.perform fun s => s.regRow { reg := .secUpdCtl } (putBits v 36 34 3)

/-- R523: a write of SEC_UPD_CTL with op CANCEL. -/
def execSecUpdCancel (v : Word) (s : State) : Host.Outcome State Fault Refusal :=
  s.perform fun s => s.regRow { reg := .secUpdCtl } (putBits v 36 34 4)

/-- R527: a write of SEC_REC_CTL with op WRITE. -/
def execSecRecWrite (v : Word) (s : State) : Host.Outcome State Fault Refusal :=
  s.perform fun s => s.regRow { reg := .secRecCtl } (putBits v 36 34 1)

/-- R527: a write of SEC_REC_CTL with op COMMIT. -/
def execSecRecCommit (v : Word) (s : State) : Host.Outcome State Fault Refusal :=
  s.perform fun s => s.regRow { reg := .secRecCtl } (putBits v 36 34 2)

/-- R527: a write of SEC_REC_CTL with op RESET. -/
def execSecRecReset (v : Word) (s : State) : Host.Outcome State Fault Refusal :=
  s.perform fun s => s.regRow { reg := .secRecCtl } (putBits v 36 34 3)

/-- R527. -/
def execSecRecOpDone (ok : Bool) (s : State) : Host.Outcome State Fault Refusal :=
  s.perform fun s => s.recDone ok

end Sys2Proof.Machine
end

