-- ==== Sys2Proof/Machine/CacheCmds.lean ====
section
/-! DEFINITION. Commands of 04_memory_model.md: one meaning for each row. -/

namespace Sys2Proof.Machine

/-- R145. -/
def execCacheFlush (f : Frame) (s : State) : Host.Outcome State Fault Refusal :=
  s.perform fun s => s.engCmd f

/-- R146. -/
def execCacheInval (f : Frame) (s : State) : Host.Outcome State Fault Refusal :=
  s.perform fun s => s.engCmd f

/-- R133. -/
def execEcEvict (q : BitVec 2) (line : Nat) (s : State) : Host.Outcome State Fault Refusal :=
  s.perform fun s => s.ecEvict q.toNat line

/-- R135: a write of HUB_RC_INVAL with inv_all set. -/
def execHubRcInval (v : Word) (s : State) : Host.Outcome State Fault Refusal :=
  s.perform fun s => s.regRow { reg := .hubRcInval } (putBits v 0 0 1)

end Sys2Proof.Machine
end

