-- ==== Sys2Proof/Machine/DirectoryCmds.lean ====
section
/-! DEFINITION. Commands of 05_directory.md: one meaning for each row. -/

namespace Sys2Proof.Machine

/-- R174, R182. -/
def execCohReadS (f : Frame) (s : State) : Host.Outcome State Fault Refusal :=
  s.perform fun s => s.cohRequest f 0x41 .readS { r := true }

/-- R174, R182. -/
def execCohReadE (f : Frame) (s : State) : Host.Outcome State Fault Refusal :=
  s.perform fun s => s.cohRequest f 0x42 .readE { r := true, w := true }

/-- R174, R182. -/
def execCohUpgrade (f : Frame) (s : State) : Host.Outcome State Fault Refusal :=
  s.perform fun s => s.cohRequest f 0x43 .upgrade { r := true, w := true }

/-- R174, R182, R190. -/
def execCohWb (f : Frame) (s : State) : Host.Outcome State Fault Refusal :=
  s.perform fun s => s.cohRequest f 0x44 .wb { w := true }

/-- R174, R182. -/
def execCohEvict (f : Frame) (s : State) : Host.Outcome State Fault Refusal :=
  s.perform fun s => s.cohRequest f 0x45 .evict { r := true }

/-- R180: the RVT_CPL that answers a COH_RECALL. -/
def execCohRecallAnswer (f : Frame) (s : State) : Host.Outcome State Fault Refusal :=
  s.perform fun s => s.rvtCpl f

/-- R587. -/
def execCohRecallReceived (f : Frame) (s : State) : Host.Outcome State Fault Refusal :=
  s.perform fun s => s.cohRecallReceived f

/-- R194. -/
def execRecallTimeout (tag : Nat) (s : State) : Host.Outcome State Fault Refusal :=
  s.perform fun s => s.recallTimeout tag

/-- R196. -/
def execDomainEnterDown (d : BitVec 8) (s : State) : Host.Outcome State Fault Refusal :=
  s.perform fun s => s.domainEnterDown d.toNat

/-- R187. -/
def execParkedRequestStart (line : Nat) (s : State) : Host.Outcome State Fault Refusal :=
  s.perform fun s => s.parkedStart line

/-- R188. -/
def execDeviceRetryBackoff (cmd : Nat) (s : State) : Host.Outcome State Fault Refusal :=
  s.perform fun s => s.retryBackoff cmd

/-- R165: a write of DIR_DOM_CFG with op UP. -/
def execDirDomUp (d : BitVec 8) (v : Word) (s : State) : Host.Outcome State Fault Refusal :=
  s.perform fun s => s.regRow { reg := .dirDomCfg, i := d.toNat } (putBits v 35 34 1)

/-- R165: a write of DIR_DOM_CFG with op DOWN. -/
def execDirDomDown (d : BitVec 8) (v : Word) (s : State) : Host.Outcome State Fault Refusal :=
  s.perform fun s => s.regRow { reg := .dirDomCfg, i := d.toNat } (putBits v 35 34 2)

/-- R165: a write of DIR_DOM_CFG with op CLEAR. -/
def execDirDomClear (d : BitVec 8) (v : Word) (s : State) : Host.Outcome State Fault Refusal :=
  s.perform fun s => s.regRow { reg := .dirDomCfg, i := d.toNat } (putBits v 35 34 3)

/-- R171: a write of DIR_PEEK_ADDR. -/
def execDirPeekAddr (q : BitVec 2) (v : Word) (s : State) : Host.Outcome State Fault Refusal :=
  s.perform fun s => s.regRow { reg := .dirPeekAddr, inst := q.toNat } v

end Sys2Proof.Machine
end

