-- ==== Sys2Proof/Machine/ErrorCmds.lean ====
section
/-! DEFINITION. Commands of 15_errors.md: one meaning for each row. -/

namespace Sys2Proof.Machine

/-- R487. -/
def execScrubRead (stack : BitVec 4) (sector : Nat) (state : BitVec 2) (s : State) :
    Host.Outcome State Fault Refusal :=
  s.perform fun s => s.scrubRead stack.toNat sector state.toNat

/-- R500: a write of HUB_ERR_LOG_ACK. -/
def execHubErrLogAck (v : Word) (s : State) : Host.Outcome State Fault Refusal :=
  s.perform fun s => s.regRow { reg := .hubErrLogAck } v

/-- R485: a write of HUB_ERR_INJ. -/
def execHubErrInj (v : Word) (s : State) : Host.Outcome State Fault Refusal :=
  s.perform fun s => s.regRow { reg := .hubErrInj } v

/-- R488. -/
def execStackTrainingLoss (stack : BitVec 4) (retrained : Bool) (s : State) :
    Host.Outcome State Fault Refusal :=
  s.perform fun s => s.trainingLoss stack.toNat retrained

/-- R488. -/
def execQuadrantHeartbeatLoss (q : BitVec 2) (s : State) : Host.Outcome State Fault Refusal :=
  s.perform fun s => s.heartbeatLoss q.toNat

/-- R496. -/
def execStarterWatchdogExpiry (digestOk : Bool) (s : State) : Host.Outcome State Fault Refusal :=
  s.perform fun s => s.starterExpiry digestOk

/-- R497. -/
def execMicrocodeWatchdogExpiry (q : BitVec 2) (unit : BitVec 3) (s : State) :
    Host.Outcome State Fault Refusal :=
  s.perform fun s => s.microcodeExpiry q.toNat unit.toNat

/-- R497. -/
def execFlashWatchdogExpiry (s : State) : Host.Outcome State Fault Refusal :=
  s.perform fun s => s.flashExpiry

/-- R497. -/
def execDspWatchdogExpiry (p : BitVec 1) (s : State) : Host.Outcome State Fault Refusal :=
  s.perform fun s => s.dspExpiry p.toNat

/-- R496. -/
def execStarterRestartDone (s : State) : Host.Outcome State Fault Refusal :=
  s.perform fun s => s.restartDone

end Sys2Proof.Machine
end

