-- ==== Sys2Proof/Machine/ExtentCmds.lean ====
section
/-! DEFINITION. Commands of 02_addressing.md: one meaning for each row. -/

namespace Sys2Proof.Machine

/-- R54: a write of HUB_EXT_CTL with op ACTIVATE. -/
def execExtActivate (n : BitVec 12) (v : Word) (s : State) : Host.Outcome State Fault Refusal :=
  s.perform fun s => s.regRow { reg := .hubExtCtl, i := n.toNat } (putBits v 19 16 1)

/-- R57, R72: a write of HUB_EXT_CTL with op REVOKE. -/
def execExtRevoke (n : BitVec 12) (v : Word) (s : State) : Host.Outcome State Fault Refusal :=
  s.perform fun s => s.regRow { reg := .hubExtCtl, i := n.toNat } (putBits v 19 16 2)

/-- R57: a write of HUB_EXT_CTL with op RELEASE. -/
def execExtRelease (n : BitVec 12) (v : Word) (s : State) : Host.Outcome State Fault Refusal :=
  s.perform fun s => s.regRow { reg := .hubExtCtl, i := n.toNat } (putBits v 19 16 3)

/-- R55. -/
def execExtFillDone (n : BitVec 12) (s : State) : Host.Outcome State Fault Refusal :=
  s.perform fun s => s.fillDone n.toNat

/-- R76. -/
def execExtentDrained (n : BitVec 12) (s : State) : Host.Outcome State Fault Refusal :=
  s.perform fun s => s.extentDrained n.toNat

/-- R63: a write of HUB_SEG_ATTR. -/
def execSegAttrCommit (c : BitVec 12) (sg : BitVec 4) (v : Word) (s : State) :
    Host.Outcome State Fault Refusal :=
  s.perform fun s => s.regRow { reg := .hubSegAttr, i := c.toNat, j := sg.toNat } v

end Sys2Proof.Machine
end

