-- ==== Sys2Proof/Machine/FabricCmds.lean ====
section
/-! DEFINITION. Commands of 14_fabric.md: one meaning for each row. -/

namespace Sys2Proof.Machine

/-- R463. -/
def execLinkDown (port : BitVec 5) (s : State) : Host.Outcome State Fault Refusal :=
  s.perform fun s => s.portDown port.toNat

/-- R463. -/
def execLinkUp (port : BitVec 5) (s : State) : Host.Outcome State Fault Refusal :=
  s.perform fun s => s.portUp port.toNat

/-- R456. -/
def execLldpSend (s : State) : Host.Outcome State Fault Refusal :=
  s.perform fun s => s.lldpSend

/-- R457. -/
def execLldpReceive (port : BitVec 5) (l : LldpFrame) (s : State) : Host.Outcome State Fault Refusal :=
  s.perform fun s => s.lldpReceive port.toNat l

/-- R457, R474. -/
def execNeighbourExpiry (port : BitVec 5) (s : State) : Host.Outcome State Fault Refusal :=
  s.perform fun s => s.neighbourExpiry port.toNat

/-- R458: a write of FAB_CTL with op JOIN. -/
def execFabJoin (v : Word) (s : State) : Host.Outcome State Fault Refusal :=
  s.perform fun s => s.regRow { reg := .fabCtl } (putBits v 36 35 1)

/-- R458, R471: a write of FAB_CTL with op ISOLATE. -/
def execFabIsolate (v : Word) (s : State) : Host.Outcome State Fault Refusal :=
  s.perform fun s => s.regRow { reg := .fabCtl } (putBits v 36 35 2)

/-- R458: a write of FAB_CTL with op RELEASE. -/
def execFabRelease (v : Word) (s : State) : Host.Outcome State Fault Refusal :=
  s.perform fun s => s.regRow { reg := .fabCtl } (putBits v 36 35 3)

/-- R464: a write of FAB_CHG. -/
def execFabChg (v : Word) (s : State) : Host.Outcome State Fault Refusal :=
  s.perform fun s => s.regRow { reg := .fabChg } v

/-- R464, R467: a write of FAB_COMMIT with commit set. -/
def execFabCommit (v : Word) (s : State) : Host.Outcome State Fault Refusal :=
  s.perform fun s => s.regRow { reg := .fabCommit } (putBits v 32 32 1)

/-- R464: a write of FAB_COMMIT with discard set. -/
def execFabDiscard (v : Word) (s : State) : Host.Outcome State Fault Refusal :=
  s.perform fun s => s.regRow { reg := .fabCommit } (putBits v 33 33 1)

/-- R472: a write of FAB_LEASE with renew set. -/
def execFabLeaseRenew (v : Word) (s : State) : Host.Outcome State Fault Refusal :=
  s.perform fun s => s.regRow { reg := .fabLease } (putBits v 0 0 1)

/-- R472. -/
def execLeaseExpiry (s : State) : Host.Outcome State Fault Refusal :=
  s.perform fun s => s.leaseExpiry

/-- R473. -/
def execHeartbeat (s : State) : Host.Outcome State Fault Refusal :=
  s.perform fun s => s.heartbeat

/-- R474. -/
def execSuspicionExpiry (d : BitVec 16) (s : State) : Host.Outcome State Fault Refusal :=
  s.perform fun s => s.suspicionExpiry d.toNat

/-- R478, R479. -/
def execPtpSync (p : PtpSync) (s : State) : Host.Outcome State Fault Refusal :=
  s.perform fun s => s.ptpSync p

/-- R479. -/
def execPtpSyncSilence (s : State) : Host.Outcome State Fault Refusal :=
  s.perform fun s => s.ptpSilence

/-- R478. -/
def execPtpDelayResp (port : Nat) (source : BitVec 80) (seqId : BitVec 16) (sent received : Nat) (s : State) :
    Host.Outcome State Fault Refusal :=
  s.perform fun s => s.ptpDelayResp port source seqId sent received

end Sys2Proof.Machine
end

