-- ==== Sys2Proof/Machine/GatherCmds.lean ====
section
/-! DEFINITION. Commands of 11_embedding.md: one meaning for each row. -/

namespace Sys2Proof.Machine

/-- R376. -/
def execGuGather (f : Frame) (s : State) : Host.Outcome State Fault Refusal :=
  s.perform fun s => s.engCmd f

/-- R377. -/
def execGuScatter (f : Frame) (s : State) : Host.Outcome State Fault Refusal :=
  s.perform fun s => s.engCmd f

/-- R386. -/
def execGuHeat (f : Frame) (s : State) : Host.Outcome State Fault Refusal :=
  s.perform fun s => s.guHeat f

/-- R386. -/
def execHeatPartRetry (cmd part : Nat) (s : State) : Host.Outcome State Fault Refusal :=
  s.perform fun s => s.heatRetry cmd part

/-- R387. -/
def execHeldPartTimeout (cmd : Nat) (s : State) : Host.Outcome State Fault Refusal :=
  s.perform fun s => s.heldTimeout cmd

/-- R389. -/
def execRelayDetApply (g : BitVec 6) (s : State) : Host.Outcome State Fault Refusal :=
  s.perform fun s => s.detApply g.toNat

/-- R391. -/
def execRelayTimeout (cmd : Nat) (s : State) : Host.Outcome State Fault Refusal :=
  s.perform fun s => s.relayTimeout cmd

/-- R395: a write of GU_CFG with buf_en set. -/
def execGuCfgBuffer (q : BitVec 2) (v : Word) (s : State) : Host.Outcome State Fault Refusal :=
  s.perform fun s => s.regRow { reg := .guCfg, inst := q.toNat } (putBits v 12 12 1)

end Sys2Proof.Machine
end

