-- ==== Sys2Proof/Machine/ManageCmds.lean ====
section
/-! DEFINITION. Commands of 17_register_map.md: one meaning for each row. -/

namespace Sys2Proof.Machine

/-- R14: a write that reaches the register at a package offset. -/
def execRegWrite (off : BitVec 32) (v : Word) (s : State) : Host.Outcome State Fault Refusal :=
  s.perform fun s =>
    match s.regHere off.toNat with
    | some a => s.regRow a v
    | none => s

/-- R539: a write of HUB_LOCK with dev_lock set. -/
def execHubLock (v : Word) (s : State) : Host.Outcome State Fault Refusal :=
  s.perform fun s => s.regRow { reg := .hubLock } (putBits v 0 0 1)

/-- R544: a write of HUB_EVT_POP with pop set. -/
def execHubEvtPop (v : Word) (s : State) : Host.Outcome State Fault Refusal :=
  s.perform fun s => s.regRow { reg := .hubEvtPop } (putBits v 0 0 1)

/-- R535, R537. -/
def execSmbRead (count : Nat) (off : BitVec 32) (pecOk codeOk : Bool) (s : State) :
    Host.Outcome State Fault Refusal :=
  s.act fun s => s.smbRead count off.toNat pecOk codeOk

/-- R535, R537. -/
def execSmbWrite (count : Nat) (off : BitVec 32) (v : Word) (pecOk codeOk : Bool) (s : State) :
    Host.Outcome State Fault Refusal :=
  s.act fun s => s.smbWrite count off.toNat v pecOk codeOk

/-- R535. -/
def execSmbStatusRead (s : State) : Host.Outcome State Fault Refusal :=
  s.act fun s => s.smbStatusRead

/-- R545. -/
def execSmbAlertResponse (s : State) : Host.Outcome State Fault Refusal :=
  s.act fun s => s.smbAlertResponse

end Sys2Proof.Machine
end

