-- ==== Sys2Proof/Machine/PackageCmds.lean ====
section
/-! DEFINITION. Commands of 18_package_power.md: one meaning for each row. -/

namespace Sys2Proof.Machine

/-- R564, R565. -/
def execThrottleEval (x : Sensors) (s : State) : Host.Outcome State Fault Refusal :=
  s.perform fun s => s.throttleEval x

/-- R561. -/
def execAvsRead (ok : Bool) (mv amps : Nat) (s : State) : Host.Outcome State Fault Refusal :=
  s.act fun s => s.avsRead ok mv amps

/-- R561. -/
def execAvsWriteRetry (ok : Bool) (s : State) : Host.Outcome State Fault Refusal :=
  s.act fun s => s.avsRetry ok

/-- R566: a write of HUB_PWR_CFG, and whether the regulator takes it. -/
def execPwrCfgWrite (v : Word) (avsOk : Bool) (s : State) : Host.Outcome State Fault Refusal :=
  s.perform fun s =>
    if s.reaches { reg := .hubPwrCfg } then s.pwrCfgWrite v avsOk else s

/-- R568. -/
def execThermalTrip (stack : Bool) (i : Nat) (temp : Nat) (s : State) : Host.Outcome State Fault Refusal :=
  s.act fun s => s.thermalTrip stack i temp

/-- R571. -/
def execRefclkLoss (i : BitVec 3) (s : State) : Host.Outcome State Fault Refusal :=
  s.act fun s => s.clockLost i.toNat

/-- R571. -/
def execRefclkReturn (i : BitVec 3) (s : State) : Host.Outcome State Fault Refusal :=
  s.act fun s => s.clockBack i.toNat

/-- R573: a write of PH_PORT_CFG. -/
def execPhPortCfg (p : BitVec 1) (k : BitVec 2) (v : Word) (s : State) : Host.Outcome State Fault Refusal :=
  s.perform fun s => s.regRow { reg := .phPortCfg, inst := p.toNat, i := k.toNat } v

/-- R574. -/
def execConnectorUnseated (e : BitVec 3) (s : State) : Host.Outcome State Fault Refusal :=
  s.act fun s => s.unseat e.toNat

/-- R574. -/
def execConnectorSeated (e : BitVec 3) (s : State) : Host.Outcome State Fault Refusal :=
  s.act fun s => s.seat e.toNat

/-- R580: a write of HUB_RST_CTL with reset and the key. -/
def execHubRstCtl (v : Word) (s : State) : Host.Outcome State Fault Refusal :=
  s.perform fun s => s.regRow { reg := .hubRstCtl } (putBits (putBits v 0 0 1) 31 16 0xD1E5)

/-- R580. -/
def execPerstFall (lowNs : Nat) (resets : Bool) (s : State) : Host.Outcome State Fault Refusal :=
  s.act fun s => s.perstFall lowNs resets

/-- R514. -/
def execPerstRise (smbAddr : BitVec 3) (recovery : Bool) (norOk idOk : Bool) (nand : NandPop) (s : State) :
    Host.Outcome State Fault Refusal :=
  s.act fun s => s.perstRise smbAddr recovery norOk idOk nand

/-- R514, R127. -/
def execStartComplete (linksUp : BitVec 32) (s : State) : Host.Outcome State Fault Refusal :=
  s.act fun s => s.startComplete linksUp

/-- R559. -/
def execPwrgdFall (s : State) : Host.Outcome State Fault Refusal :=
  s.act fun s => s.pwrgdFall

/-- R537, R581. -/
def execPwrgdRise (s : State) : Host.Outcome State Fault Refusal :=
  s.act fun s => s.pwrgdRise

/-- R560. -/
def execCoreUndervolt (mv : Nat) (s : State) : Host.Outcome State Fault Refusal :=
  s.act fun s => s.coreUndervolt mv

/-- R554. -/
def execSupplyBelowMin (supply : BitVec 3) (s : State) : Host.Outcome State Fault Refusal :=
  s.act fun s => s.supplyLow supply.toNat

/-- R579. -/
def execJtagInstruction (ir : TapIr) (s : State) : Host.Outcome State Fault Refusal :=
  s.act fun s => s.tap ir

/-- R580. -/
def execDeviceResetRegister (s : State) : Host.Outcome State Fault Refusal :=
  s.act fun s => s.registerReset

end Sys2Proof.Machine
end

