-- ==== Sys2Proof/Machine/RegionCmds.lean ====
section
/-! DEFINITION. Commands of 06_versioned_regions.md: one meaning for each row. -/

namespace Sys2Proof.Machine

/-- R201: a write of VR_REG_CTL with op DECLARE. -/
def execVrDeclare (r : BitVec 16) (v : Word) (s : State) : Host.Outcome State Fault Refusal :=
  s.perform fun s => s.regRow { reg := .vrRegCtl, i := r.toNat } (putBits v 18 16 1)

/-- R227: a write of VR_REG_CTL with op UNDECLARE. -/
def execVrUndeclare (r : BitVec 16) (v : Word) (s : State) : Host.Outcome State Fault Refusal :=
  s.perform fun s => s.regRow { reg := .vrRegCtl, i := r.toNat } (putBits v 18 16 2)

/-- R200. -/
def execVrDeclareRecallsDone (r : BitVec 16) (s : State) : Host.Outcome State Fault Refusal :=
  s.perform fun s => s.declareDone r.toNat

/-- R223. -/
def execVrFold (r : BitVec 16) (page : Nat) (s : State) : Host.Outcome State Fault Refusal :=
  s.perform fun s => s.foldPage r.toNat page

/-- R227. -/
def execVrFoldingDone (r : BitVec 16) (s : State) : Host.Outcome State Fault Refusal :=
  s.perform fun s => s.foldingDone r.toNat

/-- R220: a write of VR_POOL. -/
def execVrPoolAttach (q : BitVec 2) (k : BitVec 2) (v : Word) (s : State) : Host.Outcome State Fault Refusal :=
  s.perform fun s => s.regRow { reg := .vrPool, inst := q.toNat, i := k.toNat } v

/-- R213. -/
def execVrOpen (f : Frame) (s : State) : Host.Outcome State Fault Refusal :=
  s.perform fun s => s.engCmd f

/-- R216. -/
def execVrPublish (f : Frame) (s : State) : Host.Outcome State Fault Refusal :=
  s.perform fun s => s.engCmd f

/-- R213. -/
def execVrRelease (f : Frame) (s : State) : Host.Outcome State Fault Refusal :=
  s.perform fun s => s.engCmd f

end Sys2Proof.Machine
end

