-- ==== Sys2Proof/Machine/SearchCmds.lean ====
section
/-! DEFINITION. Commands of 10_vector_search.md: one meaning for each row. -/

namespace Sys2Proof.Machine

/-- R353. -/
def execSeQuery (f : Frame) (s : State) : Host.Outcome State Fault Refusal :=
  s.perform fun s => s.engCmd f

/-- R359: a write of SE_CFG with scr_en set. -/
def execSeCfgScratch (q : BitVec 2) (v : Word) (s : State) : Host.Outcome State Fault Refusal :=
  s.perform fun s => s.regRow { reg := .seCfg, inst := q.toNat } (putBits v 12 12 1)

/-- R360. -/
def execSeThreadFree (q : BitVec 2) (s : State) : Host.Outcome State Fault Refusal :=
  s.perform fun s => s.threadFree q.toNat

end Sys2Proof.Machine
end

