-- ==== Sys2Proof/Machine/SequenceCmds.lean ====
section
/-! DEFINITION. Commands of 09_sequence_decode.md: one meaning for each row. -/

namespace Sys2Proof.Machine

/-- R312. -/
def execSqOpen (f : Frame) (s : State) : Host.Outcome State Fault Refusal :=
  s.perform fun s => s.engCmd f

/-- R312. -/
def execSqArm (f : Frame) (s : State) : Host.Outcome State Fault Refusal :=
  s.perform fun s => s.engCmd f

/-- R312. -/
def execSqSetlen (f : Frame) (s : State) : Host.Outcome State Fault Refusal :=
  s.perform fun s => s.engCmd f

/-- R327. -/
def execSqOffer (f : Frame) (s : State) : Host.Outcome State Fault Refusal :=
  s.perform fun s => s.engCmd f

/-- R312. -/
def execSqQuery (f : Frame) (s : State) : Host.Outcome State Fault Refusal :=
  s.perform fun s => s.engCmd f

/-- R312. -/
def execSqClose (f : Frame) (s : State) : Host.Outcome State Fault Refusal :=
  s.perform fun s => s.engCmd f

/-- R334: a write of SQ_LANE_CTL with drop set. -/
def execSqLaneDrop (l : BitVec 8) (s : State) : Host.Outcome State Fault Refusal :=
  s.perform fun s => s.regRow { reg := .sqLaneCtl, inst := l.toNat / 64, i := l.toNat % 64 } 1

/-- R328. -/
def execBatonOffer (f : Frame) (s : State) : Host.Outcome State Fault Refusal :=
  s.perform fun s => s.batonOffer f

/-- R328. -/
def execBatonData (f : Frame) (s : State) : Host.Outcome State Fault Refusal :=
  s.perform fun s => s.batonData f

/-- R327. -/
def execBatonDataSend (l : BitVec 8) (s : State) : Host.Outcome State Fault Refusal :=
  s.perform fun s => s.batonDataSend l.toNat

/-- R328. -/
def execBatonCommit (f : Frame) (s : State) : Host.Outcome State Fault Refusal :=
  s.perform fun s => s.batonCommit f

/-- R328. -/
def execBatonRelease (f : Frame) (s : State) : Host.Outcome State Fault Refusal :=
  s.perform fun s => s.batonRelease f

/-- R331. -/
def execBatonQuery (f : Frame) (s : State) : Host.Outcome State Fault Refusal :=
  s.perform fun s => s.batonQuery f

/-- R330. -/
def execBatonToExpiry (l : BitVec 8) (s : State) : Host.Outcome State Fault Refusal :=
  s.perform fun s => s.batonToExpiry l.toNat

/-- R318. -/
def execBatonWaitTimeout (q : BitVec 2) (queue : BitVec 4) (s : State) : Host.Outcome State Fault Refusal :=
  s.perform fun s => s.batonWaitTimeout q.toNat queue.toNat

end Sys2Proof.Machine
end

