-- ==== Sys2Proof/Machine/Deliver.lean ====
section
/-! DEFINITION. The hub endpoint takes a message by its type (R95), and the frames that the switch brings it
(R81 to R84). -/

namespace Sys2Proof.Machine

/-- The message that a frame brings the hub endpoint (R81 to R84, R113); a frame that carries none brings
nothing. -/
def EthFrame.message (e : EthFrame) : Option (Byte × Frame) :=
  match e.body with
  | .rvt r => some (r.typ, { hdr := r.hdr, payload := r.payload, crc := r.crc, udpPort := e.dstPort, lensOk := r.lensOk
                             srcIp := e.src, ce := e.ecn = 3 })
  | _ => none

/-- A message of type `typ`, by its meaning; a type that the device does not take ends with UNSUPPORTED
(R95, log 119). -/
def State.message (s : State) (typ : Byte) (f : Frame) : State :=
  match typ.toNat with
  | 0x01 => s.rvtOpen f
  | 0x02 => s.rvtAccept f
  | 0x03 => s.rvtClose f
  | 0x04 => s.rvtAck f
  | 0x05 => s.rvtNak f
  | 0x10 => s.memRead f .none
  | 0x11 => s.memWrite f .none
  | 0x12 => s.memAtomic f
  | 0x13 => s.memSignal f
  | 0x14 => s.memFence f
  | 0x15 => s.rvtCpl f
  | 0x20 => s.mgRead f none
  | 0x21 => s.mgWrite f none
  | 0x22 => s.ptInval f
  | 0x30 => s.engCmd f
  | 0x40 => s.memDrain f
  | 0x41 => s.cohRequest f 0x41 .readS { r := true }
  | 0x42 => s.cohRequest f 0x42 .readE { r := true, w := true }
  | 0x43 => s.cohRequest f 0x43 .upgrade { r := true, w := true }
  | 0x44 => s.cohRequest f 0x44 .wb { w := true }
  | 0x45 => s.cohRequest f 0x45 .evict { r := true }
  | 0x46 => s.cohRecallReceived f
  | 0x48 => s.batonOffer f
  | 0x49 => s.batonData f
  | 0x4A => s.batonCommit f
  | 0x4B => s.batonRelease f
  | 0x4C => s.batonQuery f
  | 0x50 => s.guHeat f
  | 0x54 => s.hdlPeer f
  | 0x5C => s.secAttest f
  | _ => s.withRequest typ f {} (fun _ _ => { bad := false, odd := true }) fun s _ => s

/-- A free output sends its next frame (R447); the hub endpoint takes the message of the one that it gets. -/
def State.outputService (s : State) (o : Nat) : State :=
  match s.serveOutput o with
  | (s, none) => s
  | (s, some e) =>
    match if o = 32 then EthFrame.message e else none with
    | some (typ, f) => s.message typ f
    | none => s

end Sys2Proof.Machine
end

