-- ==== Sys2Proof/Machine/SwitchCmds.lean ====
section
/-! DEFINITION. Commands of 13_switch_core.md: one meaning for each row. -/

namespace Sys2Proof.Machine

/-- R433 to R446. -/
def execFrameReceive (port : Nat) (e : EthFrame) (cellUpset : Bool) (s : State) :
    Host.Outcome State Fault Refusal :=
  s.perform fun s => s.frameReceive port e cellUpset

/-- R438. -/
def execPfcPauseRepeat (port : Nat) (cls : BitVec 3) (s : State) : Host.Outcome State Fault Refusal :=
  s.perform fun s => s.pauseRepeat port cls.toNat

/-- R447. -/
def execOutputService (port : Nat) (s : State) : Host.Outcome State Fault Refusal :=
  s.perform fun s => s.outputService port

/-- R114. -/
def execPauseFrameReceive (port : Nat) (cls : BitVec 3) (quanta : BitVec 16) (s : State) :
    Host.Outcome State Fault Refusal :=
  s.perform fun s => s.pauseReceive port cls.toNat quanta

/-- R114. -/
def execPauseQuantaExpiry (port : Nat) (cls : BitVec 3) (s : State) : Host.Outcome State Fault Refusal :=
  s.perform fun s => s.pauseExpiry port cls.toNat

/-- R443: a write of SW_FLOW_MATCH. -/
def execSwFlowCommit (r : BitVec 8) (v : Word) (s : State) : Host.Outcome State Fault Refusal :=
  s.perform fun s => s.regRow { reg := .swFlowMatch, i := r.toNat } v

/-- R444: a write of SW_POL_RATE. -/
def execSwPolRate (p : Nat) (v : Word) (s : State) : Host.Outcome State Fault Refusal :=
  s.perform fun s =>
    if p < 1023 then s.regRow { reg := .swPolRate, i := p } v else s

/-- R452: a write of SW_GATE_CTL with commit set. -/
def execGateCommit (e : BitVec 3) (v : Word) (s : State) : Host.Outcome State Fault Refusal :=
  s.perform fun s => s.regRow { reg := .swGateCtl, i := e.toNat } (putBits v 1 1 1)

/-- R452: a write of SW_GATE_CTL with gate_en 0. -/
def execGateDisable (e : BitVec 3) (v : Word) (s : State) : Host.Outcome State Fault Refusal :=
  s.perform fun s => s.regRow { reg := .swGateCtl, i := e.toNat } (putBits v 0 0 0)

/-- R452. -/
def execGateListStart (e : BitVec 3) (s : State) : Host.Outcome State Fault Refusal :=
  s.perform fun s => s.gateListStart e.toNat

/-- R450. -/
def execGateEntryChange (e : BitVec 3) (s : State) : Host.Outcome State Fault Refusal :=
  s.perform fun s => s.gateEntry e.toNat

end Sys2Proof.Machine
end

