-- ==== Sys2Proof/Machine/TensorCmds.lean ====
section
/-! DEFINITION. Commands of 08_tensor_engine.md: one meaning for each row. -/

namespace Sys2Proof.Machine

/-- R276. -/
def execTeRun (f : Frame) (s : State) : Host.Outcome State Fault Refusal :=
  s.perform fun s => s.engCmd f

/-- R286. -/
def execTeLoad (q : BitVec 2) (queue : BitVec 4) (s : State) : Host.Outcome State Fault Refusal :=
  s.perform fun s => s.entryBegin q.toNat queue.toNat 1

/-- R291. -/
def execTeMatmul (q : BitVec 2) (queue : BitVec 4) (s : State) : Host.Outcome State Fault Refusal :=
  s.perform fun s => s.entryBegin q.toNat queue.toNat 2

/-- R319. -/
def execTeAttend (q : BitVec 2) (queue : BitVec 4) (s : State) : Host.Outcome State Fault Refusal :=
  s.perform fun s => s.entryBegin q.toNat queue.toNat 3

/-- R287. -/
def execTeNorm (q : BitVec 2) (queue : BitVec 4) (s : State) : Host.Outcome State Fault Refusal :=
  s.perform fun s => s.entryBegin q.toNat queue.toNat 4

/-- R286. -/
def execTeAcc (q : BitVec 2) (queue : BitVec 4) (s : State) : Host.Outcome State Fault Refusal :=
  s.perform fun s => s.entryBegin q.toNat queue.toNat 5

/-- R286. -/
def execTeStore (q : BitVec 2) (queue : BitVec 4) (s : State) : Host.Outcome State Fault Refusal :=
  s.perform fun s => s.entryBegin q.toNat queue.toNat 6

/-- R302. -/
def execTeQuantumSwitch (q : BitVec 2) (s : State) : Host.Outcome State Fault Refusal :=
  s.perform fun s => s.teSwitch q.toNat

end Sys2Proof.Machine
end

