-- ==== Sys2Proof/Machine/TierCmds.lean ====
section
/-! DEFINITION. Commands of 07_tiers.md: one meaning for each row. -/

namespace Sys2Proof.Machine

/-- R238: a write of FLS_CFG with op START. -/
def execFlsStart (v : Word) (s : State) : Host.Outcome State Fault Refusal :=
  s.perform fun s => s.regRow { reg := .flsCfg } (putBits v 33 32 1)

/-- R238. -/
def execFlsStartingDone (metaOk : Bool) (s : State) : Host.Outcome State Fault Refusal :=
  s.perform fun s => s.flashStarted metaOk

/-- R242. -/
def execTier1Timeout (cmd : Nat) (s : State) : Host.Outcome State Fault Refusal :=
  s.perform fun s => s.tier1Timeout cmd

/-- R240. -/
def execFlashStageSpace (cmd : Nat) (s : State) : Host.Outcome State Fault Refusal :=
  s.perform fun s => s.flashRetry cmd

/-- R244. -/
def execFlashWearLevel (ch : BitVec 5) (s : State) : Host.Outcome State Fault Refusal :=
  s.perform fun s => s.wearLevel ch.toNat

/-- R245. -/
def execFlashRefresh (page : Nat) (patrol correctable : Bool) (s : State) : Host.Outcome State Fault Refusal :=
  s.perform fun s => s.flashRefresh page patrol correctable

/-- R246, R247. -/
def execFlashGc (ch : BitVec 5) (failed : Bool) (s : State) : Host.Outcome State Fault Refusal :=
  s.perform fun s => s.flashGc ch.toNat failed

/-- R234, R474. -/
def execBorrowTimeout (tag : Nat) (s : State) : Host.Outcome State Fault Refusal :=
  s.perform fun s => s.borrowTimeout tag

/-- R257. -/
def execPaceStart (f : Frame) (s : State) : Host.Outcome State Fault Refusal :=
  s.perform fun s => s.engCmd f

/-- R262. -/
def execPaceStop (f : Frame) (s : State) : Host.Outcome State Fault Refusal :=
  s.perform fun s => s.engCmd f

/-- R258. -/
def execPaceFetch (q : BitVec 2) (k : BitVec 3) (s : State) : Host.Outcome State Fault Refusal :=
  s.perform fun s => s.paceFetch q.toNat k.toNat

/-- R258. -/
def execTileStaged (q : BitVec 2) (k : BitVec 3) (tile : Nat) (s : State) : Host.Outcome State Fault Refusal :=
  s.perform fun s => s.tileStaged q.toNat k.toNat tile

/-- R262. -/
def execPaceStreamIdle (q : BitVec 2) (k : BitVec 3) (s : State) : Host.Outcome State Fault Refusal :=
  s.perform fun s => s.streamIdle q.toNat k.toNat

/-- R260. -/
def execPaceLateTimeout (cmd : Nat) (s : State) : Host.Outcome State Fault Refusal :=
  s.perform fun s => s.lateTimeout cmd

/-- R254. -/
def execTileMove (f : Frame) (s : State) : Host.Outcome State Fault Refusal :=
  s.perform fun s => s.engCmd f

/-- R255. -/
def execFlashSync (f : Frame) (s : State) : Host.Outcome State Fault Refusal :=
  s.perform fun s => s.engCmd f

/-- R240. -/
def execFlashProgramDone (s : State) : Host.Outcome State Fault Refusal :=
  s.perform fun s => s.programDone

end Sys2Proof.Machine
end

