-- ==== Sys2Proof/Machine/TransportCmds.lean ====
section
/-! DEFINITION. Commands of 03_transport.md: one meaning for each row. -/

namespace Sys2Proof.Machine

/-- R588, R89, R90. -/
def execRvtOpen (f : Frame) (s : State) : Host.Outcome State Fault Refusal :=
  s.perform fun s => s.rvtOpen f

/-- R91, R468. -/
def execRvtAccept (f : Frame) (s : State) : Host.Outcome State Fault Refusal :=
  s.perform fun s => s.rvtAccept f

/-- R91, R93. -/
def execRvtClose (f : Frame) (s : State) : Host.Outcome State Fault Refusal :=
  s.perform fun s => s.rvtClose f

/-- R103, R112, R113. -/
def execRvtAck (f : Frame) (s : State) : Host.Outcome State Fault Refusal :=
  s.perform fun s => s.rvtAck f

/-- R104, R105. -/
def execRvtNak (f : Frame) (s : State) : Host.Outcome State Fault Refusal :=
  s.perform fun s => s.rvtNak f

/-- R103. -/
def execAckDelayExpiry (sess cls : Nat) (s : State) : Host.Outcome State Fault Refusal :=
  s.perform fun s => s.ackDelayExpiry sess cls

/-- R104, R106. -/
def execRetxTimerExpiry (sess cls : Nat) (s : State) : Host.Outcome State Fault Refusal :=
  s.perform fun s => s.retxTimerExpiry sess cls

/-- R91. -/
def execOpeningTimeout (sess : Nat) (s : State) : Host.Outcome State Fault Refusal :=
  s.perform fun s => s.openingTimeout sess

/-- R91. -/
def execSessionDrained (sess : Nat) (s : State) : Host.Outcome State Fault Refusal :=
  s.perform fun s => s.sessionDrained sess

/-- R120, R150. -/
def execMemRead (f : Frame) (u : Upset) (s : State) : Host.Outcome State Fault Refusal :=
  s.perform fun s => s.memRead f u

/-- R120, R150. -/
def execMemWrite (f : Frame) (u : Upset) (s : State) : Host.Outcome State Fault Refusal :=
  s.perform fun s => s.memWrite f u

/-- R150 to R154. -/
def execMemAtomic (f : Frame) (s : State) : Host.Outcome State Fault Refusal :=
  s.perform fun s => s.memAtomic f

/-- R155, R156. -/
def execMemSignal (f : Frame) (s : State) : Host.Outcome State Fault Refusal :=
  s.perform fun s => s.memSignal f

/-- R156. -/
def execOrderedSignalRelease (cmd : Nat) (s : State) : Host.Outcome State Fault Refusal :=
  s.perform fun s => s.orderedSignalRelease cmd

/-- R115 to R117. -/
def execMemFence (f : Frame) (s : State) : Host.Outcome State Fault Refusal :=
  s.perform fun s => s.memFence f

/-- R118. -/
def execFenceComplete (cmd : Nat) (s : State) : Host.Outcome State Fault Refusal :=
  s.perform fun s => s.fenceComplete cmd

/-- R159. -/
def execMemDrain (f : Frame) (s : State) : Host.Outcome State Fault Refusal :=
  s.perform fun s => s.memDrain f

/-- R159. -/
def execDrainComplete (cmd : Nat) (s : State) : Host.Outcome State Fault Refusal :=
  s.perform fun s => s.drainComplete cmd

/-- R123, R498. -/
def execMgRead (f : Frame) (codeBad : Option Nat) (s : State) : Host.Outcome State Fault Refusal :=
  s.perform fun s => s.mgRead f codeBad

/-- R123, R498. -/
def execMgWrite (f : Frame) (codeBad : Option Nat) (s : State) : Host.Outcome State Fault Refusal :=
  s.perform fun s => s.mgWrite f codeBad

/-- R124. -/
def execPtInval (f : Frame) (s : State) : Host.Outcome State Fault Refusal :=
  s.perform fun s => s.ptInval f

/-- R543. -/
def execEventSend (s : State) : Host.Outcome State Fault Refusal :=
  s.perform fun s => s.eventSend

/-- R109. -/
def execRvtCpl (f : Frame) (s : State) : Host.Outcome State Fault Refusal :=
  s.perform fun s => s.rvtCpl f

/-- R91: a write of HUB_SESS_CTL with abort set. -/
def execSessAbort (sess : Nat) (v : Word) (s : State) : Host.Outcome State Fault Refusal :=
  s.perform fun s =>
    if sess < 81920 then s.regRow { reg := .hubSessCtl, i := sess } (putBits v 0 0 1) else s

end Sys2Proof.Machine
end

