-- ==== Sys2Proof/Machine/UnitCmds.lean ====
section
/-! DEFINITION. Commands of 12_contexts_hurdles.md: one meaning for each row. -/

namespace Sys2Proof.Machine

/-- R400: a write of QD_CTX_CFG with save_en set. -/
def execQdCtxSaveArea (q : BitVec 2) (v : Word) (s : State) : Host.Outcome State Fault Refusal :=
  s.perform fun s => s.regRow { reg := .qdCtxCfg, inst := q.toNat } (putBits v 12 12 1)

/-- R404: a write of the unit's control register with op QUIESCE. -/
def execEngQuiesce (unit : BitVec 3) (q : BitVec 2) (v : Word) (s : State) : Host.Outcome State Fault Refusal :=
  s.perform fun s => s.unitOp unit.toNat q.toNat v 1

/-- R404, R406: a write of the unit's control register with op KILL. -/
def execEngKill (unit : BitVec 3) (q : BitVec 2) (v : Word) (s : State) : Host.Outcome State Fault Refusal :=
  s.perform fun s => s.unitOp unit.toNat q.toNat v 2

/-- R404: a write of the unit's control register with op ENABLE. -/
def execEngEnable (unit : BitVec 3) (q : BitVec 2) (v : Word) (s : State) : Host.Outcome State Fault Refusal :=
  s.perform fun s => s.unitOp unit.toNat q.toNat v 3

/-- R404. -/
def execQuiesceToExpiry (unit : BitVec 3) (q : BitVec 2) (s : State) : Host.Outcome State Fault Refusal :=
  s.perform fun s => s.quiesceExpiry unit.toNat q.toNat

/-- R404. -/
def execEngDisabled (unit : BitVec 3) (q : BitVec 2) (s : State) : Host.Outcome State Fault Refusal :=
  s.perform fun s => s.engDisabled unit.toNat q.toNat

/-- R415. -/
def execHdlAlloc (f : Frame) (s : State) : Host.Outcome State Fault Refusal :=
  s.perform fun s => s.engCmd f

/-- R415. -/
def execHdlFree (f : Frame) (s : State) : Host.Outcome State Fault Refusal :=
  s.perform fun s => s.engCmd f

/-- R415. -/
def execHdlUpdate (f : Frame) (s : State) : Host.Outcome State Fault Refusal :=
  s.perform fun s => s.engCmd f

/-- R415. -/
def execHdlRead (f : Frame) (s : State) : Host.Outcome State Fault Refusal :=
  s.perform fun s => s.engCmd f

/-- R419. -/
def execHdlWatch (f : Frame) (s : State) : Host.Outcome State Fault Refusal :=
  s.perform fun s => s.engCmd f

/-- R426. -/
def execHdlSave (f : Frame) (s : State) : Host.Outcome State Fault Refusal :=
  s.perform fun s => s.engCmd f

/-- R428. -/
def execHdlRestore (f : Frame) (s : State) : Host.Outcome State Fault Refusal :=
  s.perform fun s => s.engCmd f

/-- R421. -/
def execHdlPeer (f : Frame) (s : State) : Host.Outcome State Fault Refusal :=
  s.perform fun s => s.hdlPeer f

/-- R416. -/
def execWatchTimeout (cmd : Nat) (s : State) : Host.Outcome State Fault Refusal :=
  s.perform fun s => s.watchTimeout cmd

/-- R421. -/
def execHdlPeerTimeout (tag : Nat) (s : State) : Host.Outcome State Fault Refusal :=
  s.perform fun s => s.hdlPeerTimeout tag

end Sys2Proof.Machine
end

