-- ==== Sys2Proof/Machine/Dispatch.lean ====
section
/-! DEFINITION. One arm per command: the call of its meaning. -/

namespace Sys2Proof.Machine

def exec (i : Instr) (s : State) : Host.Outcome State Fault Refusal :=
  match i with
  | .rvtOpen f => Sys2Proof.Machine.execRvtOpen f s
  | .rvtAccept f => Sys2Proof.Machine.execRvtAccept f s
  | .rvtClose f => Sys2Proof.Machine.execRvtClose f s
  | .rvtAck f => Sys2Proof.Machine.execRvtAck f s
  | .rvtNak f => Sys2Proof.Machine.execRvtNak f s
  | .ackDelayExpiry sess cls => Sys2Proof.Machine.execAckDelayExpiry sess cls s
  | .retxTimerExpiry sess cls => Sys2Proof.Machine.execRetxTimerExpiry sess cls s
  | .openingTimeout sess => Sys2Proof.Machine.execOpeningTimeout sess s
  | .sessionDrained sess => Sys2Proof.Machine.execSessionDrained sess s
  | .memRead f u => Sys2Proof.Machine.execMemRead f u s
  | .memWrite f u => Sys2Proof.Machine.execMemWrite f u s
  | .memAtomic f => Sys2Proof.Machine.execMemAtomic f s
  | .memSignal f => Sys2Proof.Machine.execMemSignal f s
  | .orderedSignalRelease cmd => Sys2Proof.Machine.execOrderedSignalRelease cmd s
  | .memFence f => Sys2Proof.Machine.execMemFence f s
  | .fenceComplete cmd => Sys2Proof.Machine.execFenceComplete cmd s
  | .memDrain f => Sys2Proof.Machine.execMemDrain f s
  | .drainComplete cmd => Sys2Proof.Machine.execDrainComplete cmd s
  | .mgRead f codeBad => Sys2Proof.Machine.execMgRead f codeBad s
  | .mgWrite f codeBad => Sys2Proof.Machine.execMgWrite f codeBad s
  | .regWrite off v => Sys2Proof.Machine.execRegWrite off v s
  | .ptInval f => Sys2Proof.Machine.execPtInval f s
  | .eventSend => Sys2Proof.Machine.execEventSend s
  | .rvtCpl f => Sys2Proof.Machine.execRvtCpl f s
  | .cacheFlush f => Sys2Proof.Machine.execCacheFlush f s
  | .cacheInval f => Sys2Proof.Machine.execCacheInval f s
  | .ecEvict q line => Sys2Proof.Machine.execEcEvict q line s
  | .cohReadS f => Sys2Proof.Machine.execCohReadS f s
  | .cohReadE f => Sys2Proof.Machine.execCohReadE f s
  | .cohUpgrade f => Sys2Proof.Machine.execCohUpgrade f s
  | .cohWb f => Sys2Proof.Machine.execCohWb f s
  | .cohEvict f => Sys2Proof.Machine.execCohEvict f s
  | .cohRecallAnswer f => Sys2Proof.Machine.execCohRecallAnswer f s
  | .cohRecallReceived f => Sys2Proof.Machine.execCohRecallReceived f s
  | .recallTimeout tag => Sys2Proof.Machine.execRecallTimeout tag s
  | .domainEnterDown d => Sys2Proof.Machine.execDomainEnterDown d s
  | .parkedRequestStart line => Sys2Proof.Machine.execParkedRequestStart line s
  | .deviceRetryBackoff cmd => Sys2Proof.Machine.execDeviceRetryBackoff cmd s
  | .dirDomUp d v => Sys2Proof.Machine.execDirDomUp d v s
  | .dirDomDown d v => Sys2Proof.Machine.execDirDomDown d v s
  | .dirDomClear d v => Sys2Proof.Machine.execDirDomClear d v s
  | .dirPeekAddr q v => Sys2Proof.Machine.execDirPeekAddr q v s
  | .extActivate n v => Sys2Proof.Machine.execExtActivate n v s
  | .extRevoke n v => Sys2Proof.Machine.execExtRevoke n v s
  | .extRelease n v => Sys2Proof.Machine.execExtRelease n v s
  | .extFillDone n => Sys2Proof.Machine.execExtFillDone n s
  | .extentDrained n => Sys2Proof.Machine.execExtentDrained n s
  | .segAttrCommit c sg v => Sys2Proof.Machine.execSegAttrCommit c sg v s
  | .hubRcInval v => Sys2Proof.Machine.execHubRcInval v s
  | .sessAbort sess v => Sys2Proof.Machine.execSessAbort sess v s
  | .vrDeclare r v => Sys2Proof.Machine.execVrDeclare r v s
  | .vrUndeclare r v => Sys2Proof.Machine.execVrUndeclare r v s
  | .vrDeclareRecallsDone r => Sys2Proof.Machine.execVrDeclareRecallsDone r s
  | .vrFold r page => Sys2Proof.Machine.execVrFold r page s
  | .vrFoldingDone r => Sys2Proof.Machine.execVrFoldingDone r s
  | .vrPoolAttach q k v => Sys2Proof.Machine.execVrPoolAttach q k v s
  | .vrOpen f => Sys2Proof.Machine.execVrOpen f s
  | .vrPublish f => Sys2Proof.Machine.execVrPublish f s
  | .vrRelease f => Sys2Proof.Machine.execVrRelease f s
  | .flsStart v => Sys2Proof.Machine.execFlsStart v s
  | .flsStartingDone metaOk => Sys2Proof.Machine.execFlsStartingDone metaOk s
  | .tier1Timeout cmd => Sys2Proof.Machine.execTier1Timeout cmd s
  | .flashStageSpace cmd => Sys2Proof.Machine.execFlashStageSpace cmd s
  | .flashWearLevel ch => Sys2Proof.Machine.execFlashWearLevel ch s
  | .flashRefresh page patrol correctable => Sys2Proof.Machine.execFlashRefresh page patrol correctable s
  | .flashGc ch failed => Sys2Proof.Machine.execFlashGc ch failed s
  | .borrowTimeout tag => Sys2Proof.Machine.execBorrowTimeout tag s
  | .paceStart f => Sys2Proof.Machine.execPaceStart f s
  | .paceStop f => Sys2Proof.Machine.execPaceStop f s
  | .paceFetch q k => Sys2Proof.Machine.execPaceFetch q k s
  | .tileStaged q k tile => Sys2Proof.Machine.execTileStaged q k tile s
  | .paceStreamIdle q k => Sys2Proof.Machine.execPaceStreamIdle q k s
  | .paceLateTimeout cmd => Sys2Proof.Machine.execPaceLateTimeout cmd s
  | .tileMove f => Sys2Proof.Machine.execTileMove f s
  | .flashSync f => Sys2Proof.Machine.execFlashSync f s
  | .teRun f => Sys2Proof.Machine.execTeRun f s
  | .teLoad q queue => Sys2Proof.Machine.execTeLoad q queue s
  | .teMatmul q queue => Sys2Proof.Machine.execTeMatmul q queue s
  | .teAttend q queue => Sys2Proof.Machine.execTeAttend q queue s
  | .teNorm q queue => Sys2Proof.Machine.execTeNorm q queue s
  | .teAcc q queue => Sys2Proof.Machine.execTeAcc q queue s
  | .teStore q queue => Sys2Proof.Machine.execTeStore q queue s
  | .teQuantumSwitch q => Sys2Proof.Machine.execTeQuantumSwitch q s
  | .sqOpen f => Sys2Proof.Machine.execSqOpen f s
  | .sqArm f => Sys2Proof.Machine.execSqArm f s
  | .sqSetlen f => Sys2Proof.Machine.execSqSetlen f s
  | .sqOffer f => Sys2Proof.Machine.execSqOffer f s
  | .sqQuery f => Sys2Proof.Machine.execSqQuery f s
  | .sqClose f => Sys2Proof.Machine.execSqClose f s
  | .sqLaneDrop l => Sys2Proof.Machine.execSqLaneDrop l s
  | .batonOffer f => Sys2Proof.Machine.execBatonOffer f s
  | .batonData f => Sys2Proof.Machine.execBatonData f s
  | .batonDataSend l => Sys2Proof.Machine.execBatonDataSend l s
  | .batonCommit f => Sys2Proof.Machine.execBatonCommit f s
  | .batonRelease f => Sys2Proof.Machine.execBatonRelease f s
  | .batonQuery f => Sys2Proof.Machine.execBatonQuery f s
  | .batonToExpiry l => Sys2Proof.Machine.execBatonToExpiry l s
  | .batonWaitTimeout q queue => Sys2Proof.Machine.execBatonWaitTimeout q queue s
  | .seQuery f => Sys2Proof.Machine.execSeQuery f s
  | .seCfgScratch q v => Sys2Proof.Machine.execSeCfgScratch q v s
  | .seThreadFree q => Sys2Proof.Machine.execSeThreadFree q s
  | .guGather f => Sys2Proof.Machine.execGuGather f s
  | .guScatter f => Sys2Proof.Machine.execGuScatter f s
  | .guHeat f => Sys2Proof.Machine.execGuHeat f s
  | .heatPartRetry cmd part => Sys2Proof.Machine.execHeatPartRetry cmd part s
  | .heldPartTimeout cmd => Sys2Proof.Machine.execHeldPartTimeout cmd s
  | .relayDetApply g => Sys2Proof.Machine.execRelayDetApply g s
  | .relayTimeout cmd => Sys2Proof.Machine.execRelayTimeout cmd s
  | .guCfgBuffer q v => Sys2Proof.Machine.execGuCfgBuffer q v s
  | .qdCtxSaveArea q v => Sys2Proof.Machine.execQdCtxSaveArea q v s
  | .engQuiesce unit q v => Sys2Proof.Machine.execEngQuiesce unit q v s
  | .engKill unit q v => Sys2Proof.Machine.execEngKill unit q v s
  | .engEnable unit q v => Sys2Proof.Machine.execEngEnable unit q v s
  | .quiesceToExpiry unit q => Sys2Proof.Machine.execQuiesceToExpiry unit q s
  | .engDisabled unit q => Sys2Proof.Machine.execEngDisabled unit q s
  | .hdlAlloc f => Sys2Proof.Machine.execHdlAlloc f s
  | .hdlFree f => Sys2Proof.Machine.execHdlFree f s
  | .hdlUpdate f => Sys2Proof.Machine.execHdlUpdate f s
  | .hdlRead f => Sys2Proof.Machine.execHdlRead f s
  | .hdlWatch f => Sys2Proof.Machine.execHdlWatch f s
  | .hdlSave f => Sys2Proof.Machine.execHdlSave f s
  | .hdlRestore f => Sys2Proof.Machine.execHdlRestore f s
  | .hdlPeer f => Sys2Proof.Machine.execHdlPeer f s
  | .watchTimeout cmd => Sys2Proof.Machine.execWatchTimeout cmd s
  | .frameReceive port e cellUpset => Sys2Proof.Machine.execFrameReceive port e cellUpset s
  | .pfcPauseRepeat port cls => Sys2Proof.Machine.execPfcPauseRepeat port cls s
  | .outputService port => Sys2Proof.Machine.execOutputService port s
  | .pauseFrameReceive port cls quanta => Sys2Proof.Machine.execPauseFrameReceive port cls quanta s
  | .swFlowCommit r v => Sys2Proof.Machine.execSwFlowCommit r v s
  | .swPolRate p v => Sys2Proof.Machine.execSwPolRate p v s
  | .gateCommit e v => Sys2Proof.Machine.execGateCommit e v s
  | .gateDisable e v => Sys2Proof.Machine.execGateDisable e v s
  | .gateListStart e => Sys2Proof.Machine.execGateListStart e s
  | .gateEntryChange e => Sys2Proof.Machine.execGateEntryChange e s
  | .linkDown port => Sys2Proof.Machine.execLinkDown port s
  | .linkUp port => Sys2Proof.Machine.execLinkUp port s
  | .lldpSend => Sys2Proof.Machine.execLldpSend s
  | .lldpReceive port l => Sys2Proof.Machine.execLldpReceive port l s
  | .neighbourExpiry port => Sys2Proof.Machine.execNeighbourExpiry port s
  | .fabJoin v => Sys2Proof.Machine.execFabJoin v s
  | .fabIsolate v => Sys2Proof.Machine.execFabIsolate v s
  | .fabRelease v => Sys2Proof.Machine.execFabRelease v s
  | .fabChg v => Sys2Proof.Machine.execFabChg v s
  | .fabCommit v => Sys2Proof.Machine.execFabCommit v s
  | .fabDiscard v => Sys2Proof.Machine.execFabDiscard v s
  | .fabLeaseRenew v => Sys2Proof.Machine.execFabLeaseRenew v s
  | .leaseExpiry => Sys2Proof.Machine.execLeaseExpiry s
  | .heartbeat => Sys2Proof.Machine.execHeartbeat s
  | .suspicionExpiry d => Sys2Proof.Machine.execSuspicionExpiry d s
  | .ptpSync p => Sys2Proof.Machine.execPtpSync p s
  | .ptpSyncSilence => Sys2Proof.Machine.execPtpSyncSilence s
  | .secAttest f => Sys2Proof.Machine.execSecAttest f s
  | .attestSigned => Sys2Proof.Machine.execAttestSigned s
  | .scrubRead stack sector state => Sys2Proof.Machine.execScrubRead stack sector state s
  | .hubErrLogAck v => Sys2Proof.Machine.execHubErrLogAck v s
  | .hubErrInj v => Sys2Proof.Machine.execHubErrInj v s
  | .stackTrainingLoss stack retrained => Sys2Proof.Machine.execStackTrainingLoss stack retrained s
  | .quadrantHeartbeatLoss q => Sys2Proof.Machine.execQuadrantHeartbeatLoss q s
  | .starterWatchdogExpiry digestOk => Sys2Proof.Machine.execStarterWatchdogExpiry digestOk s
  | .microcodeWatchdogExpiry q unit => Sys2Proof.Machine.execMicrocodeWatchdogExpiry q unit s
  | .flashWatchdogExpiry => Sys2Proof.Machine.execFlashWatchdogExpiry s
  | .dspWatchdogExpiry p => Sys2Proof.Machine.execDspWatchdogExpiry p s
  | .starterRestartDone => Sys2Proof.Machine.execStarterRestartDone s
  | .secUpdStage v => Sys2Proof.Machine.execSecUpdStage v s
  | .secUpdWriteDone deviceOk => Sys2Proof.Machine.execSecUpdWriteDone deviceOk s
  | .secUpdActivate v => Sys2Proof.Machine.execSecUpdActivate v s
  | .secUpdConfirm v => Sys2Proof.Machine.execSecUpdConfirm v s
  | .secUpdCancel v => Sys2Proof.Machine.execSecUpdCancel v s
  | .secRecWrite v => Sys2Proof.Machine.execSecRecWrite v s
  | .secRecCommit v => Sys2Proof.Machine.execSecRecCommit v s
  | .secRecReset v => Sys2Proof.Machine.execSecRecReset v s
  | .hubLock v => Sys2Proof.Machine.execHubLock v s
  | .hubEvtPop v => Sys2Proof.Machine.execHubEvtPop v s
  | .smbRead count off pecOk codeOk => Sys2Proof.Machine.execSmbRead count off pecOk codeOk s
  | .smbWrite count off v pecOk codeOk => Sys2Proof.Machine.execSmbWrite count off v pecOk codeOk s
  | .smbStatusRead => Sys2Proof.Machine.execSmbStatusRead s
  | .smbAlertResponse => Sys2Proof.Machine.execSmbAlertResponse s
  | .throttleEval x => Sys2Proof.Machine.execThrottleEval x s
  | .avsRead ok mv amps => Sys2Proof.Machine.execAvsRead ok mv amps s
  | .avsWriteRetry ok => Sys2Proof.Machine.execAvsWriteRetry ok s
  | .pwrCfgWrite v avsOk => Sys2Proof.Machine.execPwrCfgWrite v avsOk s
  | .thermalTrip stack n temp => Sys2Proof.Machine.execThermalTrip stack n temp s
  | .refclkLoss n => Sys2Proof.Machine.execRefclkLoss n s
  | .refclkReturn n => Sys2Proof.Machine.execRefclkReturn n s
  | .phPortCfg p k v => Sys2Proof.Machine.execPhPortCfg p k v s
  | .connectorUnseated e => Sys2Proof.Machine.execConnectorUnseated e s
  | .hubRstCtl v => Sys2Proof.Machine.execHubRstCtl v s
  | .perstFall lowNs resets => Sys2Proof.Machine.execPerstFall lowNs resets s
  | .perstRise smbAddr recovery norOk idOk nand => Sys2Proof.Machine.execPerstRise smbAddr recovery norOk idOk nand s
  | .startComplete linksUp => Sys2Proof.Machine.execStartComplete linksUp s
  | .pwrgdFall => Sys2Proof.Machine.execPwrgdFall s
  | .pwrgdRise => Sys2Proof.Machine.execPwrgdRise s
  | .coreUndervolt mv => Sys2Proof.Machine.execCoreUndervolt mv s
  | .supplyBelowMin supply => Sys2Proof.Machine.execSupplyBelowMin supply s
  | .jtagInstruction ir => Sys2Proof.Machine.execJtagInstruction ir s
  | .pauseQuantaExpiry port cls => Sys2Proof.Machine.execPauseQuantaExpiry port cls s
  | .flashProgramDone => Sys2Proof.Machine.execFlashProgramDone s
  | .ptpDelayResp port source seqId sent received => Sys2Proof.Machine.execPtpDelayResp port source seqId sent received s
  | .connectorSeated e => Sys2Proof.Machine.execConnectorSeated e s
  | .hdlPeerTimeout tag => Sys2Proof.Machine.execHdlPeerTimeout tag s
  | .deviceResetRegister => Sys2Proof.Machine.execDeviceResetRegister s
  | .secRecOpDone ok => Sys2Proof.Machine.execSecRecOpDone ok s

end Sys2Proof.Machine
end

