-- ==== Sys2Proof/Safety.lean ====
section
/-! DEFINITION. The words that statements use: states between steps, what a step makes of an effect, when a
message is taken, and which parts of the state an effect of the transport alone may change. -/

namespace Sys2Proof.Machine

/-! ### States between steps -/

/-- A device that works, between two steps: nothing of an earlier step is due, and it has not stopped
(R495). -/
structure State.Ready (s : State) : Prop where
  due : s.due = []
  runs : s.err.stopped = false

/-- A device that has stopped (R495), between two steps. -/
structure State.Halted (s : State) : Prop where
  due : s.due = []
  stop : s.err.stopped = true

/-- The state after a command whose effect on s is t: what t leaves due is worked off, and the queue of
commands is s's. -/
def State.after (s t : State) : State := { t.settled with pending := s.pending }

/-- The rows that still act on a device that has stopped: SMBus, power, resets, supplies, clocks,
connectors, the regulator, temperatures and JTAG stand outside what stops (R495). -/
def actsStopped : Instr → Bool
  | .smbRead .. | .smbWrite .. | .smbStatusRead | .smbAlertResponse | .avsRead .. | .avsWriteRetry _
  | .thermalTrip .. | .refclkLoss _ | .refclkReturn _ | .connectorUnseated _ | .connectorSeated _
  | .perstFall .. | .perstRise .. | .startComplete _ | .pwrgdFall | .pwrgdRise | .coreUndervolt _
  | .supplyBelowMin _ | .jtagInstruction _ | .deviceResetRegister => true
  | _ => false

/-! ### Messages (R107) -/

/-- Message f of type byte typ arrives on session n: whole, on a usable session and in order (rows 1 to 3,
which leave r). -/
structure State.Arrives (s : State) (typ : Byte) (f : Frame) (n : Nat) (r : State) : Prop where
  ready : s.Ready
  listens : s.listens = true
  whole : s.row1Bad typ f = false
  sess : s.row2 f = .sess n
  order : s.row3 n f = .inOrder r

/-- Message f is taken on session n: it arrives, and passes rows 4 to 8 with what its type finds (`p`). -/
structure State.Takes (s : State) (typ : Byte) (f : Frame) (fo : FlagsOk) (p : Parse) (n : Nat) (r : State) : Prop
    extends State.Arrives s typ f n r where
  passes : r.stage1 n f.hdr fo { p with odd := p.odd || r.notHere typ } = stOk

/-- An unsequenced message of type byte typ with `pay` payload bytes arrives whole on session n, which can receive,
and nothing is wrong in it (rows 1, 2 and 4 to 7). -/
structure Control (s : State) (typ : Byte) (f : Frame) (pay n : Nat) : Prop where
  listens : s.listens = true
  whole : s.row1Bad typ f = false
  sess : s.row2 f = .sess n
  ver : s.verOn f.hdr = true ∧ f.hdr.ver = (s.sess n).ver
  body : ctlBad f pay = false ∧ ctlOdd f.hdr = false ∧ (f.hdr.status = 0 ∨ typ = 0x05)
  epoch : ((s.sess n).ver = 1 → f.hdr.epoch = 0) ∧ s.row7 n f.hdr = false

/-- What an unsequenced message that is taken on session n leaves, before its own effect: its CE mark is counted, its
ack and ece are taken, and it is answered if it asks for it (R103, R112, R113). -/
def State.unsequenced (s : State) (n : Nat) (f : Frame) : State :=
  State.answerAckreq ((if f.ce then s.count .hubRvtStat 6 else s).gotAck n f.hdr.cls f.hdr.ack f.hdr.ece) n (s.sess n).inc f

/-- Only what the transport keeps differs: its sessions, streams and requests, the switch that carries its frames,
counters, what leaves the device, the grants and event records that an acknowledgement ends, the count of free
values drawn; and it is due that requests which waited for a tag or a session try again, or that forwarded Hurdle
requests have left. -/
def State.OnlyTransport (s t : State) : Prop :=
  ∃ xp sw st o fr tx q l, (∀ d ∈ l, d = Due.tagFree ∨ ∃ c, d = Due.hdlSent c) ∧ t = { s with
    xp := xp, sw := sw, stat := st, out := o, free := fr, due := s.due ++ l
    dir := { s.dir with txns := tx }, mgt := { s.mgt with queue := q } }

/-! ### A device that has stopped, and the switch buffer -/

/-- The rows that reset a device, which alone bring it back from a stop (R495, R580, R581). -/
def resetsDevice : Instr → Bool
  | .perstFall .. | .perstRise .. | .pwrgdFall | .coreUndervolt _ | .deviceResetRegister => true
  | _ => false

/-- What leaves the device over SMBus or its test port, not over an external port (R495). -/
def besidePorts : Out → Bool
  | .smb _ | .jtag _ => true
  | _ => false

/-- The switch's buffer as R437 lays it out: the frames of the shared part and those of the headroom pool together
fill no more than its 196,608 cells, every frame has its own number of cells, each queue stands once. -/
structure State.BufferFits (s : State) : Prop where
  fits : s.sharedUsed + s.hdrmUsed ≤ 196608
  cells : ∀ x ∈ s.sw.items, x.cells = cellsOf x.frame.len
  once : tsorted 0 s.sw.queues = true

/-- Only what the switch keeps differs: its queues and timers, counters, frames and pauses sent, and the records
and events that an uncorrectable word of its buffer raises. -/
def State.OnlySwitch (s t : State) : Prop :=
  ∃ sw st o mg er, t = { s with sw := sw, stat := st, out := o, mgt := mg, err := er }

/-- The rows by which frames enter, wait in and leave the switch (R433 to R451), but for a frame that the hub
endpoint gets, whose message has its own effect. -/
def switchEvent : Instr → Bool
  | .outputService p => p != 32
  | .frameReceive .. | .pfcPauseRepeat .. | .pauseFrameReceive .. | .pauseQuantaExpiry ..
  | .gateListStart _ | .gateEntryChange _ => true
  | _ => false

/-- The rows whose own effect touches nothing but the transport: acknowledgements, their timer, and the end of a
session that has drained. -/
def transportEvent : Instr → Bool
  | .rvtAck _ | .rvtNak _ | .ackDelayExpiry .. | .sessionDrained _ => true
  | _ => false

/-- The type byte and the frame of a row that is a message (R95, R148). -/
def messageOf : Instr → Option (Byte × Frame)
  | .rvtOpen f => some (0x01, f)
  | .rvtAccept f => some (0x02, f)
  | .rvtClose f => some (0x03, f)
  | .rvtAck f => some (0x04, f)
  | .rvtNak f => some (0x05, f)
  | .memRead f _ => some (0x10, f)
  | .memWrite f _ => some (0x11, f)
  | .memAtomic f => some (0x12, f)
  | .memSignal f => some (0x13, f)
  | .memFence f => some (0x14, f)
  | .rvtCpl f | .cohRecallAnswer f => some (0x15, f)
  | .mgRead f _ => some (0x20, f)
  | .mgWrite f _ => some (0x21, f)
  | .ptInval f => some (0x22, f)
  | .cacheFlush f | .cacheInval f | .vrOpen f | .vrPublish f | .vrRelease f | .paceStart f | .paceStop f
  | .tileMove f | .flashSync f | .teRun f | .sqOpen f | .sqArm f | .sqSetlen f | .sqOffer f | .sqQuery f
  | .sqClose f | .seQuery f | .guGather f | .guScatter f | .hdlAlloc f | .hdlFree f | .hdlUpdate f | .hdlRead f
  | .hdlWatch f | .hdlSave f | .hdlRestore f => some (0x30, f)
  | .memDrain f => some (0x40, f)
  | .cohReadS f => some (0x41, f)
  | .cohReadE f => some (0x42, f)
  | .cohUpgrade f => some (0x43, f)
  | .cohWb f => some (0x44, f)
  | .cohEvict f => some (0x45, f)
  | .cohRecallReceived f => some (0x46, f)
  | .guHeat f => some (0x50, f)
  | .hdlPeer f => some (0x54, f)
  | .batonOffer f => some (0x48, f)
  | .batonData f => some (0x49, f)
  | .batonCommit f => some (0x4A, f)
  | .batonRelease f => some (0x4B, f)
  | .batonQuery f => some (0x4C, f)
  | .secAttest f => some (0x5C, f)
  | _ => none

end Sys2Proof.Machine
end

