-- ==== Sys2Proof/Certificates/Slice0/Obligations.lean ====
section
/-! DEFINITION. The statements for the provers, in the order of the spec's files. A completion statement says
which state a row answers, whole: a field that the record on its right side does not name is as it was. -/

open Sys2Proof Sys2Proof.Machine

/-! ### Steps, and a device that has stopped -/

/-- A step takes the first waiting command and answers what exec answers for it on the state with the rest of
the queue. -/
def Obligations.StepPerformsFrontCommand : Prop :=
  ∀ (c : Instr) (cs : List Instr) (s : State), step { s with pending := c :: cs } = exec c { s with pending := cs }

/-- On an empty queue a step is a tick: the model's choice, DESIGN CHOICE in log 1, not a rule of the spec. Only
the time of day, its fraction and the PTP servo's slewing differ; time does not run back; and with nothing to
slew and no rate correction exactly one nanosecond passes. -/
def Obligations.EmptyQueuePassesTime : Prop :=
  ∀ s : State, s.pending = [] →
    step s = .next s.tick ∧
    s.tick = { s with now := s.tick.now, frac := s.tick.frac, fab := { s.fab with servo := s.tick.fab.servo } } ∧
    s.now ≤ s.tick.now ∧
    (s.fab.servo.slewLeft = 0 → s.fab.servo.ppm = 0 → s.tick.now = s.now + (s.frac + 1000000) / 1000000)

/-- Every command is answered with a next state in every state: no row of the table stops the block. The queue
of commands stays as it is. -/
def Obligations.EveryCommandGoesOn : Prop :=
  ∀ (c : Instr) (s : State), ∃ t, exec c s = .next t ∧ t.pending = s.pending

/-- R495: on a device that has stopped every message, frame, timer and register write leaves the state exactly
as it stands. Which rows still act (SMBus, power, resets, supplies, clocks, connectors, the regulator,
temperatures, JTAG) is the model's reading, in the log. -/
def Obligations.StoppedDeviceAcceptsNothing : Prop :=
  ∀ (c : Instr) (s : State), s.err.stopped = true → actsStopped c = false → exec c s = .next s

/-- R86, R107 row 1: a message of any type whose UDP port, lengths or CRC are wrong is discarded and counted
once as an integrity discard; nothing else of the state changes. -/
def Obligations.DamagedMessageIsOnlyCounted : Prop :=
  ∀ (c : Instr) (typ : Byte) (f : Frame) (s : State), s.Ready → s.listens = true →
    (s.starting = true → typ ≠ 0x02) → messageOf c = some (typ, f) → s.row1Bad typ f = true →
    exec c s = .next (s.count .hubRvtStat 5)

/-! ### Messages (03, 04, 05) -/

/-- R100, for every row that is a sequenced message: with d the distance of its number from the expected one, a
message with d 0 passes to the stage-1 checks and the expected number rises by one; an early one is discarded
and answered by RVT_NAK, at most once per rto_init; an invalid one is discarded and counted as an integrity
discard; a duplicate has no effect and is answered by RVT_ACK. A CE mark is noted first. -/
def Obligations.ReceiverKeepsTheOrder : Prop :=
  ∀ (c : Instr) (typ : Byte) (f : Frame) (s : State) (n : Nat), s.Ready → s.listens = true →
    messageOf c = some (typ, f) → 0x10 ≤ typ → s.row1Bad typ f = false → s.row2 f = .sess n →
    let r := s.rxOf n f.hdr.cls
    let d := (f.hdr.seq - r.expected).toNat
    let u := s.noteCe n f
    let answered (t : State) := t.answerAckreq n (t.sess n).inc f
    (d = 0 → s.row3 n f = .inOrder (((u.setRx n f.hdr.cls fun x =>
      { x with expected := x.expected + 1, ackDue := if x.ackDue.isSome then x.ackDue else some u.now }).count
        .hubRvtStat 0).gotAck n f.hdr.cls f.hdr.ack f.hdr.ece)) ∧
    (1 ≤ d → d ≤ 65535 → (∀ t, r.lastNak = some t → s.rtoInit ≤ s.now - t) →
      exec c s = .next (answered (((u.setRx n f.hdr.cls fun x => { x with lastNak := some s.now }).count .hubRvtStat 4).sendBare
        n f.hdr.cls 0x05))) ∧
    (∀ t, 1 ≤ d → d ≤ 65535 → r.lastNak = some t → s.now - t < s.rtoInit → exec c s = .next (answered u)) ∧
    (65536 ≤ d → d ≤ 2 ^ 31 → exec c s = .next (u.count .hubRvtStat 5)) ∧
    (2 ^ 31 < d → exec c s = .next ((u.count .hubRvtStat 3).sendBare n f.hdr.cls 0x04))

/-- R588, R89, R90: an RVT_OPEN that passes every check opens a new session: OPEN at the highest common version,
bound to the source address, its streams at the initial numbers of both sides; RVT_ACCEPT answers it. An
RVT_ACCEPT with OK brings the device's own OPENING session to OPEN, one with another status to CLOSED. The
session's initial number is a free value. -/
def Obligations.SessionsOpen : Prop :=
  (∀ (s : State) (f : Frame) (v : Nat), s.Ready → s.listens = true → s.row1Bad 0x01 f = false →
    s.familyOn f.srcIp = true → f.hdr.dstSess = 0 → f.hdr.ver = 1 → f.hdr.status = 0 → ctlBad f 16 = false →
    zeroAt f.payload 2 2 = true → zeroAt f.payload 12 4 = true → ctlOdd f.hdr = false →
    s.commonVer (field f.payload 0 1) (field f.payload 1 1) (f.hdr.srcEp.toNat < 65536) = some v →
    (s.starting = true ∨ s.epochFences { f.hdr with ver := BitVec.ofNat 8 v } (s.isMgr f.hdr.srcEp) = false) →
    let isn := BitVec.ofNat 32 (field f.payload 8 4)
    let peer := BitVec.ofNat 32 (field f.payload 4 4)
    let same (n : Nat) : Prop := (s.sess n).opener = false ∧ (s.sess n).openSess = peer ∧ (s.sess n).openIsn = isn ∧
      ((s.sess n).state = .open ∨ (s.sess n).state = .closing)
    let opened (n : Nat) : State :=
      let q := s.failSession n
      let mine := Config.isn q.free
      let r : State := (q.draw.1.freshTx mine).1
      let r : State := { r with xp := { r.xp with incs := r.xp.incs + 1 } }
      let r := r.setSess n fun _ =>
        { state := .open, ver := BitVec.ofNat 8 v, peerEp := f.hdr.srcEp, ip := f.srcIp, peerSess := peer, openIsn := isn
          openSess := peer, isn := mine, opener := false, since := r.now, inc := r.xp.incs, rx := freshRx isn
          tx := (q.draw.1.freshTx mine).2 }
      ((r.sendAccept n).owe .tagFree).owe (.sessOpen n)
    (∀ n, s.sessOf f.hdr.srcEp.toNat = some n →
      (same n → exec (.rvtOpen f) s = .next (s.after (s.sendAccept n))) ∧
      (¬ same n → exec (.rvtOpen f) s = .next (s.after (opened n)))) ∧
    (∀ n, s.sessOf f.hdr.srcEp.toNat = none → s.freeSess f.hdr.srcEp.toNat = some n →
      exec (.rvtOpen f) s = .next (s.after (opened n)))) ∧
  (∀ (s : State) (f : Frame) (n : Nat), s.Ready → s.serving = true → s.idValid = true → s.row1Bad 0x02 f = false →
    n < 81920 → f.hdr.dstSess.toNat = n → (s.sess n).state = .opening → (s.sess n).ip = f.srcIp → f.hdr.ver = 1 →
    ctlBad f 16 = false → zeroAt f.payload 1 3 = true → zeroAt f.payload 12 4 = true → ctlOdd f.hdr = false →
    (f.hdr.status = stOk → field f.payload 0 1 = 2 → 2 ≤ bits (s.hub .hubRvtCfg) 17 16 →
      exec (.rvtAccept f) s = .next (s.after (((s.setSess n fun x =>
        { x with state := .open, ver := 2, peerSess := BitVec.ofNat 32 (field f.payload 4 4)
                 rx := freshRx (BitVec.ofNat 32 (field f.payload 8 4)) }).owe .tagFree).owe (.sessOpen n)))) ∧
    (f.hdr.status ≠ stOk → exec (.rvtAccept f) s = .next (s.after
      (((s.fencedAnswer f.hdr.status f.hdr.epoch).closeSession n).failWaiting (s.sess n).peerEp.toNat))))

/-- R91, R98: a close with reason 0 brings an OPEN session to CLOSING, one with reason 1 or 2 fails the session.
An aborted session is closed at its peer and fails. A session whose opening times out, one that has drained, and
a failed one without commands are CLOSED. -/
def Obligations.SessionsEnd : Prop :=
  ∀ (s : State) (n : Nat) (f : Frame), s.Ready →
    (Control s 0x03 f 4 n →
      let g := s.unsequenced n f
      (field f.payload 0 4 = 0 → exec (.rvtClose f) s = .next (s.after
        ((if isPeerSess n && (g.sess n).state = .open then g.leftOpen n else g).setSess n fun x => { x with state := .closing }))) ∧
      ((field f.payload 0 4 = 1 ∨ field f.payload 0 4 = 2) → exec (.rvtClose f) s = .next (s.after (g.failSession n))) ∧
      (2 < field f.payload 0 4 → exec (.rvtClose f) s = .next (s.after g))) ∧
    (∀ v, n < 81920 → s.reaches { reg := .hubSessCtl, i := n } = true →
      ((s.sess n).state = .open ∨ (s.sess n).state = .closing) →
      exec (.sessAbort n v) s = .next (s.after ((s.sendClose n 2).failSession n))) ∧
    ((s.sess n).state = .opening → s.rtoMax ≤ s.now - (s.sess n).since →
      exec (.openingTimeout n) s = .next (s.after ((s.closeSession n).failWaiting (s.sess n).peerEp.toNat))) ∧
    (s.sessCmds n (s.sess n).inc = [] → (s.sess n).state = .closing →
      ((s.sess n).tx.all fun t => t.2.unacked.isEmpty && t.2.waiting.isEmpty) = true →
      exec (.sessionDrained n) s = .next (s.after (((s.sendClose n 0).closeSession n).owe .tagFree))) ∧
    (s.sessCmds n (s.sess n).inc = [] → (s.sess n).state = .failed →
      exec (.sessionDrained n) s = .next (s.after ((s.closeSession n).owe .tagFree)))

/-- R103, R104, R106: an owed acknowledgement leaves when its delay has passed. A stream's oldest message is
resent when its timer expires, which doubles up to rto_max, is armed anew and sets the window to one message;
past retx_limit expiries the session fails. -/
def Obligations.StreamTimersComplete : Prop :=
  ∀ (s : State) (n c : Nat), s.Ready →
    (∀ t, (s.rxOf n c).ackDue = some t → ((s.sess n).state = .open ∨ (s.sess n).state = .closing) →
      s.ackDelay ≤ s.now - t → exec (.ackDelayExpiry n c) s = .next (s.sendBare n c 0x04)) ∧
    (∀ t m ms, (s.txOf n c).armed = some t → (s.txOf n c).unacked = m :: ms → (s.txOf n c).rto ≤ s.now - t →
      (s.txOf n c).expiries + 1 ≤ s.retxLimit →
      exec (.retxTimerExpiry n c) s = .next ((s.resend n c m).setTx n c fun x =>
        { x with expiries := x.expiries + 1, rto := min (2 * x.rto) s.rtoMax, armed := some s.now, cwnd := 9216,
                 cwr := x.cwr || 9216 < x.cwnd })) ∧
    (∀ t m ms, (s.txOf n c).armed = some t → (s.txOf n c).unacked = m :: ms → (s.txOf n c).rto ≤ s.now - t →
      s.retxLimit < (s.txOf n c).expiries + 1 →
      exec (.retxTimerExpiry n c) s = .next (s.after (s.failSession n)))

/-- R103, R104: an RVT_ACK or RVT_NAK of a usable session acknowledges what its ack field covers; after an
RVT_NAK every message of the stream that is left unacknowledged is resent at once, in order. A CE mark is
counted first. -/
def Obligations.AcknowledgementsComplete : Prop :=
  ∀ (s : State) (f : Frame) (n : Nat), s.Ready →
    let g := s.unsequenced n f
    (Control s 0x04 f 0 n → exec (.rvtAck f) s = .next (s.after g)) ∧
    (Control s 0x05 f 0 n → exec (.rvtNak f) s =
      .next (s.after ((g.txOf n f.hdr.cls).unacked.foldl (fun t m => t.resend n f.hdr.cls m) g)))

/-- R109, R124, R125, R180, R543, R587: a completion that arrives whole and in order, with nothing wrong in its
header, reaches the request that its tag names. PT_INVAL on a context in mode 1 removes its entries from the
translation cache and completes with OK. A received COH_RECALL completes with UNSUPPORTED. The oldest event
record that is not out is sent on the event session. -/
def Obligations.OtherMessagesComplete : Prop :=
  ∀ (s : State) (f : Frame) (n : Nat) (r : State),
    (s.Arrives 0x15 f n r → r.verOn f.hdr = true →
      (r.headerBad n { f.hdr with status := 0 } {} || f.hdr.addr != 0 || f.hdr.opLen != 0) = false →
      (r.notHere 0x15 || flagsOdd { f.hdr with flags := f.hdr.flags &&& ~~~(BitVec.ofNat 16 8) } {}) = false →
      r.row7 n f.hdr = false →
      ∀ c, c = .rvtCpl f ∨ c = .cohRecallAnswer f →
        exec c s = .next (s.after ((r.takeCpl n f.hdr f.payload).answerAckreq n (r.originOf n 0x15 f.hdr).inc f))) ∧
    (s.Takes 0x22 f {} { bad := parseLen f.hdr 0 || f.hdr.addr.toNat % 2 ^ 21 != 0, odd := !r.ctxMode f.hdr.context } n r →
      let o := r.originOf n 0x22 f.hdr
      let c := o.ctxField.toNat % 4096
      let tab := bits (r.hub .hubCtxPtb c) 46 16 * 2 ^ 16
      let i := f.hdr.addr.toNat / 2 ^ 21
      r.quietCheck o = stOk →
      exec (.ptInval f) s = .next (s.after ((State.sendCpl { r with xp := { r.xp with ptCache := r.xp.ptCache.filter fun e =>
        !(e.1 = tab && i ≤ e.2.1 && e.2.1 < i + f.hdr.opLen.toNat) } } o stOk []).answerAckreq n o.inc f))) ∧
    (s.Arrives 0x46 f n r →
      r.stage1 n f.hdr { gfaReq := true } { bad := f.hdr.opLen != 128 || f.hdr.payLen != 8 || !zeroAt f.payload 1 7
                                            odd := true } = stUnsupported →
      let o := r.originOf n 0x46 f.hdr
      exec (.cohRecallReceived f) s =
        .next (s.after ((r.sendCpl o stUnsupported []).answerAckreq n o.inc f))) ∧
    (∀ i e, s.Ready → s.serving = true → s.evtEn = true → s.err.restarting = false →
      (s.sess s.evtSess).state = .open →
      (s.mgt.queue.findIdx? fun x => !x.outOn s.evtSess (s.sess s.evtSess).inc) = some i → s.mgt.queue[i]? = some e →
      exec .eventSend s = .next (s.after (State.sendSeq { s with mgt := { s.mgt with queue := (s.mgt.queue.set i
          { e with sent := some (s.evtSess, (s.sess s.evtSess).inc, (s.txOf s.evtSess 7).next) }) } }
        s.evtSess 7 0x23 {} e.bytes)))

/-- R35, R96, R120, R150 to R155, R482: a memory message that is taken and passes stage 2 with GFA g is accepted
as one access of its kind to g, with its length, data and operands; an uncorrectable header word ends a read or
a write with POISON, a read with as many bytes as it asked for. An ordered signal that must wait for earlier
commands is held (R156). -/
def Obligations.MemoryMessagesAreAccepted : Prop :=
  ∀ (s : State) (f : Frame) (n : Nat) (r t : State) (g : Nat),
    let o (typ : Byte) := r.originOf n typ f.hdr
    let len := f.hdr.opLen.toNat
    (s.Takes 0x10 f { gfa := true, vol := true } { bad := parseLen f.hdr 0 } n r →
      (∀ u, u ≠ .header → (r.applyUpset u).err.stopped = false →
        (r.applyUpset u).stage2 (o 0x10) f.hdr.addr.toNat len { r := true } = (t, .inr g) →
        exec (.memRead f u) s = .next (s.after (((t.upsetNand g u).internal (.msg (o 0x10)) (o 0x10).context
          { kind := .read, vol := f.hdr.vol, gfa := g, len := len, hurt := upsetHurt u }).answerAckreq n (o 0x10).inc f))) ∧
      exec (.memRead f .header) s = .next (s.after ((r.hurtHeader (o 0x10) len).answerAckreq n (o 0x10).inc f))) ∧
    (s.Takes 0x11 f { gfa := true } { bad := parseLen f.hdr len } n r →
      (∀ u, u ≠ .header → (r.applyUpset u).err.stopped = false →
        (r.applyUpset u).stage2 (o 0x11) f.hdr.addr.toNat len { w := true } = (t, .inr g) →
        exec (.memWrite f u) s = .next (s.after (((t.upsetNand g u).internal (.msg (o 0x11)) (o 0x11).context
          { kind := .write, gfa := g, len := len, data := f.payload, hurt := upsetHurt u }).answerAckreq n (o 0x11).inc f))) ∧
      exec (.memWrite f .header) s = .next (s.after ((r.hurtHeader (o 0x11) 0).answerAckreq n (o 0x11).inc f))) ∧
    (∀ p, s.Takes 0x12 f { gfa := true } p n r →
      p = { bad := !(len = 4 || len = 8) || f.hdr.addr.toNat % len != 0 || f.hdr.payLen != 24 || !zeroAt f.payload 1 7
              || (len = 4 && (!zeroAt f.payload 12 4 || !zeroAt f.payload 20 4))
              || (field f.payload 0 1 != 0x0A && !zeroAt f.payload 16 8)
            odd := field f.payload 0 1 = 0 || 0x0B < field f.payload 0 1 || (field f.payload 0 1 = 0x0B && len = 8) } →
      r.stage2 (o 0x12) f.hdr.addr.toNat len { a := true } = (t, .inr g) →
      exec (.memAtomic f) s = .next (s.after ((t.internal (.msg (o 0x12)) (o 0x12).context
        { kind := .atomic, gfa := g, len := len, aop := BitVec.ofNat 8 (field f.payload 0 1)
          a := BitVec.ofNat 64 (field f.payload 8 8), b := BitVec.ofNat 64 (field f.payload 16 8) }).answerAckreq n (o 0x12).inc f))) ∧
    (∀ p, s.Takes 0x13 f { gfa := true, unord := true } p n r →
      p = { bad := f.hdr.opLen != 8 || f.hdr.addr.toNat % 8 != 0 || f.hdr.payLen != 16 || !zeroAt f.payload 1 7
            odd := field f.payload 0 1 = 0 || 2 < field f.payload 0 1 } →
      r.stage2 (o 0x13) f.hdr.addr.toNat 8 { w := true } = (t, .inr g) →
      let a : Access := { kind := .signal, unord := f.hdr.unord, gfa := g, len := 8
                          aop := BitVec.ofNat 8 (field f.payload 0 1), a := BitVec.ofNat 64 (field f.payload 8 8) }
      exec (.memSignal f) s = .next (s.after
        ((if !f.hdr.unord && t.signalWaits (o 0x13)
          then ((t.accept (.msg (o 0x13)) (o 0x13).context (.held a)).1).count .hubMmStat 2
          else t.internal (.msg (o 0x13)) (o 0x13).context a).answerAckreq n (o 0x13).inc f)))

/-- R115, R118, R156, R159: a fence that is taken covers the numbers before its own of its class or, with
all_cls, of every class; a drain the writes, atomics, signals and peer reads accepted before it. A fence
completes with OK once nothing that it covers is still to come or to complete, or its session's opening has
ended; a drain once no command that it covers is left, and is counted; a held signal goes on once no earlier
command of its stream is left. -/
def Obligations.FencesAndDrains : Prop :=
  (∀ (s : State) (f : Frame) (n : Nat) (r : State),
     (s.Takes 0x14 f { allCls := true }
         { bad := f.hdr.addr != 0 || f.hdr.opLen != 0 || f.hdr.payLen.toNat != (if f.hdr.allCls then 32 else 0) } n r →
       let o := r.originOf n 0x14 f.hdr
       r.quietCheck o = stOk →
       let upto : List (Nat × Word32) :=
         if f.hdr.allCls then (List.range 8).map fun c =>
           (c, if c = f.hdr.cls then f.hdr.seq - 1 else BitVec.ofNat 32 (field f.payload (4 * c) 4))
         else [(f.hdr.cls, f.hdr.seq - 1)]
       exec (.memFence f) s = .next (s.after ((r.accept (.msg o) o.context (.fence upto)).1.answerAckreq n o.inc f))) ∧
     (s.Takes 0x40 f {} { bad := f.hdr.addr != 0 || f.hdr.opLen != 0 || f.hdr.payLen != 0, odd := r.v1 n } n r →
       let o := r.originOf n 0x40 f.hdr
       r.quietCheck o = stOk →
       exec (.memDrain f) s = .next (s.after
         ((r.accept (.msg o) o.context (.drain ((r.cmds.filter Cmd.drained).map (·.id)))).1.answerAckreq n o.inc f)))) ∧
  (∀ (s : State) (id : Nat) (c : Cmd) (o : Origin), s.Ready → s.findCmd id = some c → c.src = .msg o →
     (∀ upto, c.body = .fence upto → s.sessLive o.sess o.inc = false ∨ s.fenceDone id o upto = true →
       exec (.fenceComplete id) s = .next (s.after ((s.dropCmd id).sendCpl o stOk []))) ∧
     (∀ ids, c.body = .drain ids → (s.cmds.any fun c => ids.contains c.id) = false →
       exec (.drainComplete id) s = .next (s.after (((s.dropCmd id).sendCpl o stOk []).count .hubMmStat 3))) ∧
     (∀ a, c.body = .held a → s.signalWaits o = false →
       exec (.orderedSignalRelease id) s =
         .next (s.after ((s.setCmd id fun c => { c with body := .access a }).startAccess id))))

/-- R120, R150 to R155, R160: what a data access does over one HBM run whose sectors read well, on a quadrant
and stack that work. A read answers with the bytes; a write puts its bytes there, and a write-back of a line
only those that its mask holds (R131); an atomic answers with the old value and puts the new one there by the
table of R151; a signal sets or adds its value. No other byte of memory changes, whatever the access's kind. -/
def Obligations.DataAccessesAct : Prop :=
  ∀ (s : State) (id : Nat) (a : Access) (p : Part) (k home off : Nat), s.mem.wf = true → s.quadDead home = false →
    s.stackDead (k / 2 ^ 36) = false → 0 < p.len → (s.readHbm k p.len off).2.2 = false → a.hurt = none → a.marks = [] →
    let did := s.doPart id a p [(.hbm k, p.len, off)] home none
    let t := did.1
    let bytes := s.mem.bytes k p.len
    let ends (bs : List Byte) : Prop := did.2 = .ended { stage := 6, status := stOk, data := bs }
    t.mem.wf = true ∧ (∀ x, (x < k ∨ k + p.len ≤ x) → t.mem.byte x = s.mem.byte x) ∧
    (a.kind = .read → ends bytes ∧ t.mem.bytes k p.len = bytes) ∧
    (a.kind = .write → (a.mask ≠ none → p.pos + p.len ≤ 128) → ends [] ∧ (∀ i, i < p.len → p.pos + i < a.data.length →
      t.mem.byte (k + i) = if (a.mask.map fun m => m.getLsbD (p.pos + i)) = some false then s.mem.byte (k + i)
        else a.data.getD (p.pos + i) 0)) ∧
    (a.kind = .signal → p.len = 8 → ends bytes ∧
      (a.aop = 1 → t.mem.bytes k 8 = leBytes 8 a.a.toNat) ∧
      (a.aop = 2 → t.mem.bytes k 8 = leBytes 8 (leNat bytes + a.a.toNat))) ∧
    (a.kind = .atomic → p.len = 4 ∨ p.len = 8 → 1 ≤ a.aop.toNat → a.aop.toNat ≤ 0x0B →
      let n := 8 * p.len
      let old := leNat bytes
      let x := a.a.toNat % 2 ^ n
      let y := a.b.toNat % 2 ^ n
      ∃ new : Nat, ends bytes ∧ t.mem.bytes k p.len = leBytes p.len new ∧
        (a.aop = 0x01 → new = (old + x) % 2 ^ n) ∧ (a.aop = 0x02 → new = old &&& x) ∧ (a.aop = 0x03 → new = old ||| x) ∧
        (a.aop = 0x04 → new = old ^^^ x) ∧ (a.aop = 0x05 → signed n new = min (signed n old) (signed n x)) ∧
        (a.aop = 0x06 → signed n new = max (signed n old) (signed n x)) ∧ (a.aop = 0x07 → new = min old x) ∧
        (a.aop = 0x08 → new = max old x) ∧ (a.aop = 0x09 → new = x) ∧
        (a.aop = 0x0A → new = if old = x then y else old) ∧ (a.aop = 0x0B → new = fadd32 old x))

/-- R123, R498, R35: MG_READ and MG_WRITE that are taken and pass stage 2 perform their accesses in ascending
order and complete with what the last one gives. Each access to a register that exists and serves reads it or
writes it and goes on; a failed end-to-end code ends them with RETRY, an address with no register with
UNSUPPORTED. -/
def Obligations.ManagementAccessesComplete : Prop :=
  (∀ (s : State) (f : Frame) (n : Nat) (r : State) (bad : Option Nat),
    (s.Takes 0x20 f {} (mgParse f.hdr 0) n r → r.mgStage2 (r.originOf n 0x20 f.hdr) = stOk →
      let x := State.readRegs bad f.hdr.opLen.toNat 0 f.hdr.addr.toNat r []
      exec (.mgRead f bad) s =
        .next (s.after ((x.1.sendCpl (r.originOf n 0x20 f.hdr) x.2.1 x.2.2).answerAckreq n (r.originOf n 0x20 f.hdr).inc f))) ∧
    (s.Takes 0x21 f {} (mgParse f.hdr (8 * f.hdr.opLen.toNat)) n r → r.mgStage2 (r.originOf n 0x21 f.hdr) = stOk →
      let x := State.writeRegs bad f.hdr.opLen.toNat 0 f.hdr.addr.toNat f.payload r
      exec (.mgWrite f bad) s = .next (s.after ((x.1.sendCpl (r.originOf n 0x21 f.hdr) x.2 []).answerAckreq n
        (r.originOf n 0x21 f.hdr).inc f)))) ∧
  (∀ (bad : Option Nat) (n k off : Nat) (s : State) (bs : List Byte) (a : RegAt),
    s.regHere off = some a → s.blockFailed a = false →
    (bad ≠ some k → State.readRegs bad (n + 1) k off s bs =
      State.readRegs bad n (k + 1) (off + 8) s (bs ++ leBytes 8 (s.regRead a).toNat)) ∧
    (bad ≠ some k → State.writeRegs bad (n + 1) k off bs s =
      State.writeRegs bad n (k + 1) (off + 8) (bs.drop 8) (s.regWrite a (wordOf bs 0))) ∧
    (bad = some k → State.readRegs bad (n + 1) k off s bs = (s.codeFailed, stRetry, []) ∧
      State.writeRegs bad (n + 1) k off bs s = (s.codeFailed, stRetry))) ∧
  (∀ (bad : Option Nat) (n k off : Nat) (s : State) (bs : List Byte), s.regHere off = none →
    State.readRegs bad (n + 1) k off s bs = (s, stUnsupported, []) ∧
    State.writeRegs bad (n + 1) k off bs s = (s, stUnsupported))

/-- R35, R39, R67, R122: an engine command that is taken, names a context that may be used, has every operand
translated, an enabled unit and room within its context's limit, is accepted and given to the queue that its
addr selects, for every one of the twenty-six engine rows. -/
def Obligations.EngineCommandsAreAccepted : Prop :=
  ∀ (c : Instr) (f : Frame) (s : State) (n : Nat) (r t : State) (y : UnitForm) (os : List Opnd),
    messageOf c = some (0x30, f) →
    let u := f.hdr.addr.toNat % 256
    let sel := f.hdr.addr.toNat / 256 % 256
    let k := f.hdr.addr.toNat / 65536 % 65536
    let op := BitVec.ofNat 8 (field f.payload 0 1)
    let o := r.originOf n 0x30 f.hdr
    let ctx := o.ctxField.toNat % 4096
    s.Takes 0x30 f {} { bad := f.hdr.opLen != 0 || 2 ^ 32 ≤ f.hdr.addr.toNat, odd := r.v1 n
                        body := r.engBody f.hdr f.payload } n r →
    r.unitForm u = some y → r.ctxCheck o = stOk →
    r.transOps ctx (if isCommon op then commonOps f.payload else y.operands f.payload) = (t, some os) →
    let q := if sel = 0xFF then
        (if u ≤ 5 then t.routeTo ((os.getD (y.route f.payload) ⟨0, 0, false, false⟩).gfa) else 0xFF) else sel
    (t.unit u q).state = .enabled → t.overLimit o = false →
    exec c s = .next (s.after (((((t.accept (.msg o) ctx (.eng
      { unit := u, quad := q, queue := k, op := op, body := f.payload, opnds := os
        binds := t.bindsOf ctx })).1.owe (.queue u q k)).noteSync r.nextId).answerAckreq n o.inc f)))

/-- R174, R175: each of the five coherence requests that is taken, from a context that belongs to a domain and
may touch the line, is accepted for that line on behalf of its host, in a domain of its that is not IDLE where
there is one. -/
def Obligations.CoherenceRequestsAreAccepted : Prop :=
  ∀ (s : State) (f : Frame) (n : Nat) (r t : State) (g : Nat) (typ : Byte) (k : CohKind) (p : Perm) (c : Instr),
    (c, typ, k, p) ∈ [(Instr.cohReadS f, (0x41 : Byte), CohKind.readS, ({ r := true } : Perm)),
      (.cohReadE f, 0x42, .readE, { r := true, w := true }), (.cohUpgrade f, 0x43, .upgrade, { r := true, w := true }),
      (.cohWb f, 0x44, .wb, { w := true }), (.cohEvict f, 0x45, .evict, { r := true })] →
    s.Takes typ f {} { bad := f.hdr.opLen != 128 || f.hdr.addr.toNat % 128 != 0
                        || f.hdr.payLen.toNat != (if k = .wb then 136 else 0) || (k = .wb && 2 ≤ field f.payload 128 8)
                       odd := r.v1 n || 4 < f.hdr.cls } n r →
    let o := r.originOf n typ f.hdr
    let ctx := o.ctxField.toNat % 4096
    r.ctxCheck o = stOk → r.slotsOf ctx ≠ [] → r.translate ctx f.hdr.addr.toNat 128 p = (t, some g) → t.overLimit o = false →
    let m := match (r.slotsOf ctx).find? fun x => t.domState x.1 != .idle with
      | some x => x
      | none => (r.slotsOf ctx).headD (0, 0)
    let a := t.accept (.msg o) ctx (.coh { kind := k, line := gfaOff g / 128, domain := m.1, host := m.2
                                           data := f.payload.take 128, keep := field f.payload 128 8 % 2 = 1 })
    exec c s = .next (s.after ((a.1.cohStage3 a.2 g).answerAckreq n o.inc f))

/-- R328, R421, R521: an offer that matches an ARMED Lane makes it RECEIVING with what was offered and completes
with OK; a Hurdle command for its owner is accepted for the Hurdle unit; a request for attestation is queued to
the key engine, and one for the certificate is answered with it. R331, R386: image bytes go to the RECEIVING
Lane's cache; a whole image whose CRC agrees makes the Lane TAKEN with the offered generation and length; a
release makes a TAKEN Lane HELD; a query answers what is recorded of its request; a part that the owner holds or
serves is accepted. -/
def Obligations.PeerMessagesComplete : Prop :=
  (∀ (s : State) (f : Frame) (n : Nat) (r : State),
     let b := f.payload
     (s.Takes 0x48 f { gfaReq := true } (r.batonParse n 0x48 f (· = 64) fun _ => true) n r → isPeerSess n = true →
       let o := r.originOf n 0x48 f.hdr
       let l := field b 0 2
       l ≤ 255 → zeroAt b 20 4 = true → zeroAt b 42 6 = true → zeroAt b 56 8 = true → zeroAt b 25 1 = true →
       zeroAt b 32 2 = true → (r.lane l).state = .armed →
       ((r.lane l).reqId = 0 ∨ (r.lane l).reqId = BitVec.ofNat 64 (field b 8 8)) → slice b 24 18 = (r.lane l).config →
       field b 16 4 ≤ (r.lane l).cap →
       exec (.batonOffer f) s = .next (s.after (((r.setLane l fun x =>
         { x with state := .receiving, peer := BitVec.ofNat 16 n, peerLane := field b 2 2
                  offGen := BitVec.ofNat 32 (field b 4 4), offLen := field b 16 4, offReq := BitVec.ofNat 64 (field b 8 8)
                  got := [], sess := n, inc := o.inc, since := r.now }).sendCpl o stOk []).answerAckreq n o.inc f))) ∧
     (s.Takes 0x54 f { gfaReq := true } { bad := gfaOff f.hdr.addr.toNat != 0 || f.hdr.ctx != 0 || f.hdr.opLen != 0
                                                 || hurdleBody r.ownId true b = stMalformed
                                          odd := r.v1 n || f.hdr.cls != 2 || hurdleBody r.ownId true b = stUnsupported } n r →
       isPeerSess n = true → (r.unit 7 0xFF).state = .enabled →
       let o := r.originOf n 0x54 f.hdr
       exec (.hdlPeer f) s = .next (s.after ((((r.accept (.msg o) 0 (.eng
         { unit := 7, quad := 0xFF, queue := 0, op := BitVec.ofNat 8 (field b 0 1), body := b })).1.owe
           (.queue 7 0xFF 0)).answerAckreq n o.inc f)))) ∧
     (s.Takes 0x5C f {} { bad := f.hdr.addr != 0 || f.hdr.opLen != 0 || f.hdr.payLen != 64 || 1 < field b 0 2 || !zeroAt b 2 6
                          odd := r.v1 n || f.hdr.cls != 7 } n r →
       let o := r.originOf n 0x5C f.hdr
       r.mgrCheck o = stOk → r.boot.idOk = true → r.attests.length < 16 →
       (field b 0 2 = 0 → exec (.secAttest f) s =
         .next (s.after ((r.accept (.msg o) 0 (.attest 0 (slice b 8 56))).1.answerAckreq n o.inc f))) ∧
       (∀ cert, field b 0 2 = 1 → r.boot.image.devcert = some cert →
         exec (.secAttest f) s = .next (s.after ((r.sendCpl o stOk cert).answerAckreq n o.inc f))))) ∧
  (∀ (s : State) (f : Frame) (n : Nat) (r : State),
     let b := f.payload
     isPeerSess n = true →
     (∀ l, s.Takes 0x49 f { gfaReq := true } (r.batonParse n 0x49 f (fun k => 1 ≤ k && k ≤ 4096) fun _ => true) n r →
       let o := r.originOf n 0x49 f.hdr
       r.receivingOn o = some l →
       let off := gfaOff f.hdr.addr.toNat
       let x := r.lane l
       r.laneShut x = false → off % 4096 = 0 → off < x.imageBytes → b.length = min 4096 (x.imageBytes - off) →
       let w := ((imagePieces x off b.length).foldl (fun (a : State × Nat) c =>
         (a.1.writeRuns (a.1.laneRuns c.1 c.2) (slice b a.2 c.2) [], a.2 + c.2)) (r, 0)).1
       exec (.batonData f) s = .next (s.after (((w.setLane l fun x =>
         { x with got := (x.got.filter fun g => g.1 != off) ++ [(off, b)], since := w.now }).sendCpl o stOk []).answerAckreq n o.inc f))) ∧
     (∀ l im, s.Takes 0x4A f { gfaReq := true } (r.batonParse n 0x4A f (· = 16) fun _ => true) n r →
       let o := r.originOf n 0x4A f.hdr
       r.receivingFor o (BitVec.ofNat 64 (field b 0 8)) = some l → (r.lane l).offGen.toNat = field b 8 4 →
       (r.lane l).image = some im → (crc32c im).toNat = field b 12 4 →
       exec (.batonCommit f) s = .next (s.after (((r.laneMoves l fun x =>
         { x with state := .taken, gen := x.offGen, len := x.offLen, cursor := 0, reqId := x.offReq, got := []
                  since := r.now, querying := false }).sendCpl o stOk []).answerAckreq n o.inc f))) ∧
     (∀ l, s.Takes 0x4B f { gfaReq := true } (r.batonParse n 0x4B f (· = 16) (zeroAt · 12 4)) n r →
       let o := r.originOf n 0x4B f.hdr
       ((r.lanes.find? fun x => x.2.state = .taken && x.2.reqId = BitVec.ofNat 64 (field b 0 8)
         && x.2.gen = BitVec.ofNat 32 (field b 8 4)).map fun x => x.1) = some l →
       exec (.batonRelease f) s = .next (s.after (((r.laneHeld l).sendCpl o stOk []).answerAckreq n o.inc f))) ∧
     (s.Takes 0x4C f { gfaReq := true } (r.batonParse n 0x4C f (· = 16) (zeroAt · 9 3)) n r →
       let o := r.originOf n 0x4C f.hdr
       let req := BitVec.ofNat 64 (field b 0 8)
       (r.lanes.filter fun x => x.2.state = .receiving && x.2.offReq = req) = [] →
       (r.recorded req = none →
         exec (.batonQuery f) s = .next (s.after ((r.sendCpl o stOk (queryPayload req (0, 0))).answerAckreq n o.inc f))) ∧
       (∀ l, r.recorded req = some l →
         let t := r.resolve l (field b 8 1) (BitVec.ofNat 32 (field b 12 4))
         exec (.batonQuery f) s =
           .next (s.after ((t.sendCpl o stOk (queryPayload req (recordOf (t.lane l)))).answerAckreq n o.inc f)))) ∧
     (s.Takes 0x50 f { gfaReq := true } { bad := f.hdr.ctx != 0 || f.hdr.opLen != 0 || gfaOff f.hdr.addr.toNat != 0 || b.length < 32
                                          odd := r.v1 n || f.hdr.cls != 2 } n r →
       let o := r.originOf n 0x50 f.hdr
       let g := field b 0 1
       let q := r.groupQuad (g % 64)
       let t := r.countQ q .guStat 5
       let running := match t.groupCmd g with | some (_, e, _) => e.round = field b 8 8 | none => false
       let hold := !running || field b 3 1 / 2 % 2 = 1
       g < 64 → (r.unit 4 q).state ≠ .disabled → t.partBad b = false → t.groupValid g = true →
       field b 2 1 < t.groupSize g → (t.groupMember g (field b 2 1)).device = n →
       (∀ k, (t.group g).completed = some k → k < field b 8 8) →
       (hold = true → (t.bufOn q && ((t.heldOn q).length + 1) * 4096 ≤ t.extLen (bits (t.quad q .guCfg) 11 0)) = true) →
       let a := t.accept (.msg o) 0 (.heat
         { group := g, src := field b 2 1, quad := q, payload := b, since := t.now, buffered := hold })
       exec (.guHeat f) s = .next (s.after ((a.1.owe (.part a.2)).answerAckreq n o.inc f))))

/-! ### Coherence, extents, regions and tiers (02, 05 to 07) -/

/-- R165, R171: UP brings an IDLE domain whose members may stand in it to UP, and otherwise is UNSUPPORTED; DOWN
starts the failure of a domain that is UP; CLEAR makes a DOWN domain IDLE. The peek registers take the entry of
the line that DIR_PEEK_ADDR names. -/
def Obligations.DomainOpsComplete : Prop :=
  ∀ (s : State) (d : BitVec 8) (v : Word), s.Ready →
    let n := d.toNat
    let a : RegAt := { reg := .dirDomCfg, i := n }
    let w (k : Nat) : State := s.putAt a (storedWrite s a (putBits v 35 34 k))
    (s.reaches a = true →
      (s.domState n = .idle → (w 1).membersOk n = true →
        exec (.dirDomUp d v) s = .next ((w 1).setDom n fun _ => { state := .up, lastStatus := stOk })) ∧
      (s.domState n = .idle → (w 1).membersOk n = false →
        exec (.dirDomUp d v) s = .next ((w 1).setDom n fun x => { x with lastStatus := stUnsupported })) ∧
      (s.domState n ≠ .idle →
        exec (.dirDomUp d v) s = .next (s.setDom n fun x => { x with lastStatus := stUnsupported })) ∧
      (s.domState n = .up → exec (.dirDomDown d v) s =
        .next (s.after ((s.setDom n fun x => { x with lastStatus := stOk }).domFail n 0xFF))) ∧
      (s.domState n = .down → exec (.dirDomClear d v) s =
        .next (s.setDom n fun _ => { state := .idle, lastStatus := stOk }))) ∧
    (∀ q : BitVec 2, s.reaches { reg := .dirPeekAddr, inst := q.toNat } = true →
      let p := s.putAt { reg := .dirPeekAddr, inst := q.toNat } (storedWrite s { reg := .dirPeekAddr, inst := q.toNat } v)
      exec (.dirPeekAddr q v) s = .next { p with dir := { p.dir with
        peek := tset (0, 0) p.dir.peek q.toNat (p.peekEntry q.toNat (bits v 39 0)) } })

/-- R187, R188, R194, R196: a recall that its domain's timeout closes fails; a FAILING domain with nothing left
of it enters DOWN and raises its event; the first request parked on a line that is free again starts; an
internal request's parts whose backoff has run at least half its bound try again. The moment within the bound is
the command's, log 2. -/
def Obligations.DirectoryTimersComplete : Prop :=
  ∀ (s : State), s.Ready →
    (∀ tag t r l i, (s.xp.reqs.find? (·.1 = tag)) = some (t, r) → r.kind = .recall l i →
      s.recallTo (s.entry l).domain ≤ s.now - r.since →
      exec (.recallTimeout tag) s = .next (s.after (s.recallFails l i))) ∧
    (∀ d : BitVec 8, s.domState d.toNat = .failing →
      (s.cmds.any fun c => c.ctx != 0 && (s.slotIn d.toNat c.ctx).isSome) = false →
      (s.dir.entries.any fun x => x.2.domain = d.toNat) = false →
      exec (.domainEnterDown d) s = .next ((s.setDom d.toNat fun x => { x with state := .down }).event 3
        [BitVec.ofNat 8 d.toNat, (tget {} s.dir.domains d.toNat).member])) ∧
    (∀ l x, s.busy l = false → s.dir.parked.find? (·.1 = l) = some x →
      let t := State.run4 { s with dir := { s.dir with parked := dropFirst (· = x) s.dir.parked } } x.2.1 x.2.2 .parked
      exec (.parkedRequestStart l) s = .next (s.after (State.drainInput (t.lineHome l) t.dir.input.length t))) ∧
    (∀ id a, s.acc id = some a →
      let t := a.parts.zipIdx.foldl (fun s x => match x.1.st with
        | .backoff t =>
          if 2 * (s.now - t) < x.1.last then s
          else if x.1.dev != s.ownId || s.extTier x.1.ext = 2 then s.forwardPart id x.2
          else s.stage4 id x.2 .fresh
        | _ => s) s
      exec (.deviceRetryBackoff id) s = .next (s.after (t.settleAccess id)))

/-- R53 to R57: ACTIVATE, when every check passes, makes the extent FILLING or ACTIVE by zero_fill, and else
changes only the status; REVOKE works on a FILLING or ACTIVE extent, RELEASE makes a DRAINED one FREE, and in
another state both give UNSUPPORTED; the entry's fields take the write while the extent is FREE or DRAINED. R63,
R64: a write of HUB_SEG_ATTR commits the staged base, length and GFA of its segment together with the
attributes; one that overflows is not valid. -/
def Obligations.ExtentOpsComplete : Prop :=
  (∀ (s : State) (e : BitVec 12) (v : Word), s.Ready →
     let n := e.toNat
     let a : RegAt := { reg := .hubExtCtl, i := n }
     let u := if s.extFree n then s.extUnfault n 3 else s
     let w (k : Nat) : State := if u.extFree n then u.putAt a (storedWrite u a (putBits v 19 16 k)) else u
     s.reaches a = true →
       ((w 1).activateCheck n = stOk → exec (.extActivate e v) s = .next ((w 1).setExt n fun x =>
         { x with state := if (w 1).extZeroFill n then .filling else .active, lastStatus := stOk })) ∧
       ((w 1).activateCheck n ≠ stOk → exec (.extActivate e v) s =
         .next ((w 1).setExt n fun x => { x with lastStatus := (w 1).activateCheck n })) ∧
       ((w 2).extState n = .filling ∨ (w 2).extState n = .active →
         exec (.extRevoke e v) s = .next (s.after ((w 2).revoke n))) ∧
       ((w 2).extState n ≠ .filling → (w 2).extState n ≠ .active →
         exec (.extRevoke e v) s = .next ((w 2).setExt n fun x => { x with lastStatus := stUnsupported })) ∧
       ((w 3).extState n = .drained →
         exec (.extRelease e v) s = .next ((w 3).setExt n fun x => { x with state := .free, lastStatus := stOk })) ∧
       ((w 3).extState n ≠ .drained →
         exec (.extRelease e v) s = .next ((w 3).setExt n fun x => { x with lastStatus := stUnsupported }))) ∧
  (∀ (s : State) (c : BitVec 12) (g : BitVec 4) (v : Word), s.Ready →
     let i := c.toNat
     let j := g.toNat
     tsorted 0 s.cfg = true → s.reaches { reg := .hubSegAttr, i := i, j := j } = true →
     let x := s.segStaged i j
     ∃ t, exec (.segAttrCommit c g v) s = .next t ∧
       t.hub .hubSegHbase i j = x.1 ∧ t.hub .hubSegLen i j = x.2.1 ∧ t.hub .hubSegGfa i j = x.2.2 ∧
       t.hub .hubSegAttr i j =
         (if segOverflows x.1 x.2.1 x.2.2 then v &&& Reg.hubSegAttr.desc.rw &&& ~~~1 else v &&& Reg.hubSegAttr.desc.rw) ∧
       t.mem = s.mem ∧ t.cmds = s.cmds ∧ t.xp = s.xp ∧ t.out = s.out)

/-- R55, R76, R228, R229, R135: when its zero fill ends a FILLING extent is ACTIVE, every byte of its backing is
zero, and no other byte changes. A REVOKING extent with no request and no directory entry left is DRAINED, its
pages and pools are gone, and its event is raised; lines that a transaction kept from the first recall are
recalled before that. inv_all empties the hub's read cache. -/
def Obligations.ExtentTimersComplete : Prop :=
  ∀ (s : State) (e : BitVec 12), s.Ready →
    let n := e.toNat
    (s.extState n = .filling → exec (.extFillDone e) s = .next ((s.zeroBack n
      (if s.extTier n = 0 then (s.extStacks n).2.2 else s.extLen n)).setExt n fun x => { x with state := .active })) ∧
    (s.extTier n = 0 → ∀ k x, (s.extStacks n).1 ≤ x / 2 ^ 36 → x / 2 ^ 36 ≤ (s.extStacks n).2.1 →
      s.extBack n ≤ x % 2 ^ 36 → x % 2 ^ 36 < s.extBack n + k → (s.zeroBack n k).mem.byte x = 0) ∧
    (∀ k x, s.extTier n = 0 → (x / 2 ^ 36 < (s.extStacks n).1 ∨ (s.extStacks n).2.1 < x / 2 ^ 36 ∨
      x % 2 ^ 36 < s.extBack n ∨ s.extBack n + k ≤ x % 2 ^ 36) → (s.zeroBack n k).mem.byte x = s.mem.byte x) ∧
    (s.extState n = .revoking → s.extInFlight n = 0 → s.extLines n = false →
      let mine := s.regionsIn n ++ s.regionsPooled n
      let t := s.setExt n fun x => { x with state := .drained }
      let t : State := { t with vr := { t.vr with pages := t.vr.pages.filter fun g => g.ext != n } }
      exec (.extentDrained e) s = .next (s.after
        (((t.freePages fun g => mine.contains g.region).detachExt n).event 2 (leBytes 2 n)))) ∧
    (s.extState n = .revoking → s.extInFlight n = 0 → s.extLines n = true →
      exec (.extentDrained e) s = .next (s.after (s.recallRange (s.extOff n) (s.extLen n) (.revoke n)))) ∧
    (∀ v, s.reaches { reg := .hubRcInval } = true →
      exec (.hubRcInval v) s = .next { s with cache := { s.cache with rc := [] } })

/-- R200, R201, R226, R227: DECLARE of a FREE region that passes every check makes it READY, or DECLARING where
its extent is coherent, with the version of its current Lap; a refused one changes only the status. UNDECLARE of
a READY region retires every version but the current one and folds; of an ENDED one frees it. R220: VR_POOL
attaches an extent that may be a pool of its quadrant, and refuses another with UNSUPPORTED and attach 0; a
written attach of 0 detaches the pools that nothing uses. -/
def Obligations.RegionOpsComplete : Prop :=
  (∀ (s : State) (r : BitVec 16) (v : Word), s.Ready →
     let n := r.toNat
     s.reaches { reg := .vrRegCtl, i := n } = true →
       (∀ e, (s.region n).state = .free → s.declareCheck n = stOk → s.findExt (s.regBase n) = some e →
         s.extCoherent e = false → exec (.vrDeclare r v) s = .next (s.setRegion n fun x =>
           { x with state := .ready, lastStatus := stOk, slots := [(0, { published := true, lap := x.curLap })] })) ∧
       (∀ e, (s.region n).state = .free → s.declareCheck n = stOk → s.findExt (s.regBase n) = some e →
         s.extCoherent e = true →
         let t := s.setRegion n fun x =>
           { x with state := .declaring, lastStatus := stOk, slots := [(0, { published := true, lap := x.curLap })] }
         exec (.vrDeclare r v) s = .next (s.after (t.recallRange (t.regBase n) (t.regLen n) (.declare n)))) ∧
       ((s.region n).state = .free → s.declareCheck n ≠ stOk →
         exec (.vrDeclare r v) s = .next (s.setRegSt n (s.declareCheck n))) ∧
       ((s.region n).state ≠ .free → exec (.vrDeclare r v) s = .next (s.setRegSt n stUnsupported)) ∧
       ((s.region n).state = .ready →
         let t := ((s.region n).slots.filter fun v => !(v.2.published && v.2.lap = (s.region n).curLap)).foldl
           (fun s v => s.forceRetire n v) s
         exec (.vrUndeclare r v) s = .next (s.after
           ((t.setRegion n fun x => { x with state := .folding, lastStatus := stOk }).retire n))) ∧
       ((s.region n).state = .ended → exec (.vrUndeclare r v) s = .next (s.after ((s.setRegSt n stOk).regFree n))) ∧
       ((s.region n).state ≠ .ready → (s.region n).state ≠ .ended →
         exec (.vrUndeclare r v) s = .next (s.setRegSt n stUnsupported))) ∧
  (∀ (s : State) (q k : BitVec 2) (v : Word), s.Ready →
     let a : RegAt := { reg := .vrPool, inst := q.toNat, i := k.toNat }
     let i := 4 * q.toNat + k.toNat
     let setP (s : State) (f : Pool → Pool) : State := { s with vr := { s.vr with pools := tmod {} s.vr.pools i f } }
     let w := s.putAt a (storedWrite s a v)
     s.reaches a = true →
       ((s.pool q.toNat k.toNat).attached = false → bit v 13 = false → exec (.vrPoolAttach q k v) s = .next w) ∧
       ((s.pool q.toNat k.toNat).attached = false → bit v 13 = true → w.poolable q.toNat (bits v 11 0) = true →
         exec (.vrPoolAttach q k v) s = .next (setP w fun _ => { attached := true, lastStatus := stOk })) ∧
       ((s.pool q.toNat k.toNat).attached = false → bit v 13 = true → w.poolable q.toNat (bits v 11 0) = false →
         exec (.vrPoolAttach q k v) s =
           .next (setP (w.putAt a (putBits (w.at a) 13 13 0)) fun p => { p with lastStatus := stUnsupported })) ∧
       ((s.pool q.toNat k.toNat).attached = true → bit v 13 = true → exec (.vrPoolAttach q k v) s =
         .next (setP (s.putAt a (putBits (s.at a) 13 13 (bits v 13 13))) fun p => { p with lastStatus := stOk })) ∧
       ((s.pool q.toNat k.toNat).attached = true → bit v 13 = false → exec (.vrPoolAttach q k v) s =
         .next (s.after (s.putAt a (putBits (s.at a) 13 13 (bits v 13 13))).detachPools)))

/-- R200, R223, R226, R227: with every recall ended a DECLARING region is READY, after a recall of the lines
that a transaction kept from the first one; the home folds a page's newest entry that every live Lap sees to its
place in the extent, frees the page and counts it; a FOLDING region with no page left is FREE. -/
def Obligations.RegionTimersComplete : Prop :=
  ∀ (s : State) (r : BitVec 16), s.Ready →
    let n := r.toNat
    ((s.region n).state = .declaring → s.regLines n = false →
      exec (.vrDeclareRecallsDone r) s = .next (s.setRegion n fun x => { x with state := .ready })) ∧
    ((s.region n).state = .declaring → s.regLines n = true →
      exec (.vrDeclareRecallsDone r) s = .next (s.after (s.recallRange (s.regBase n) (s.regLen n) (.declare n)))) ∧
    (∀ page g e, ((s.region n).state = .ready ∨ (s.region n).state = .folding) → s.foldable n page = some g →
      s.regExt n = some e →
      let t := s.dropPage n page
      exec (.vrFold r page) s = .next (s.after (((t.copyRuns (t.poolRuns g 0 4096)
        (t.runs e (t.regBase n - t.extOff e + page * 4096) 4096)).freePages fun h => h = g).count .vrStat 7))) ∧
    ((s.region n).state = .folding → (s.vr.pages.any fun g => g.region = n) = false →
      exec (.vrFoldingDone r) s = .next (s.after (s.regFree n)))

/-- R213, R214, R216: at its turn VR_OPEN for writing of the current Lap gives the context the lowest free slot
as a private version. VR_PUBLISH through a binding whose Lap is still the current one makes that version the
next Lap and leaves the context a read binding of it; one whose Lap is not is a VERSION_CONFLICT that changes
only a counter. VR_RELEASE ends the binding and, for a write binding, its version. That the lowest slot is taken
is the model's choice, log 10. -/
def Obligations.VersionCommandsAct : Prop :=
  ∀ (s : State) (id c r : Nat) (b : List Byte) (j : Nat) (x : Binding),
    (s.region r).state = .ready →
    (∀ i v, s.bindOf c r = none → field b 1 1 % 2 = 1 → field b 1 1 / 2 % 2 = 1 →
      ((s.region r).slots.find? fun v => v.2.published && v.2.lap = (s.region r).curLap) = some v →
      ((List.range 16).all fun j => (tget {} s.vr.binds (16 * c + j)).mode != .none) = false →
      (leastBelow 64 fun i => !((s.region r).slots.any (·.1 = i))) = some i →
      let t := s.setRegion r fun x =>
        { x with slots := insertBy (fun a b => a.1 < b.1) (i, { published := false, lap := x.curLap }) x.slots }
      s.vrOpenRun c r b = (t.setBind c { mode := .write, region := r, slot := i, lap := (s.region r).curLap },
        .ended stOk (versionResult (s.region r).curLap (s.region r).curLap i))) ∧
    (s.bindOf c r = some (j, x) → x.mode = .write → s.publishWaits id c r x.slot = false →
      (x.lap = (s.region r).curLap → s.vrPublishRun id c r =
        (((((State.makeRoom r 64 s).publishSlot r x.slot).setBind c
            { mode := .read, region := r, slot := x.slot, lap := (s.region r).curLap + 1 }).count .vrStat 0),
          .ended stOk (versionResult ((s.region r).curLap + 1) ((s.region r).curLap + 1) x.slot))) ∧
      (x.lap ≠ (s.region r).curLap → s.vrPublishRun id c r =
        (s.count .vrStat 1, .ended stVersionConflict (versionResult x.lap (s.region r).curLap x.slot)))) ∧
    (s.bindOf c r = some (j, x) → s.vrReleaseRun c r =
      (if x.mode = .write then (s.dropBind c r).endVersion r x.slot else s.dropBind c r,
        .ended stOk (versionResult 0 (s.region r).curLap 0xFF)))

/-- R238: START of a tier that is OFF, when every check passes with the fields as written, enters STARTING and
records user_cap, and with format set forgets what NAND holds; otherwise, and in any other state, it is
UNSUPPORTED and only the status changes. STARTING ends in READY with the map rebuilt from NAND, and waiting
parts run, or in FAILED; metadata that is lost while READY ends in FAILED too. -/
def Obligations.FlashStartCompletes : Prop :=
  ∀ (s : State) (v : Word), s.Ready → s.reaches { reg := .flsCfg } = true →
    let w := s.putAt { reg := .flsCfg } (storedWrite s { reg := .flsCfg } (putBits v 33 32 1))
    (s.flash.state = .off → w.flashStartOk = true → bit (w.hub .flsCfg) 34 = false → exec (.flsStart v) s =
      .next { w with flash := { w.flash with state := .starting, lastStatus := stOk, recorded := some w.userCap } }) ∧
    (s.flash.state = .off → w.flashStartOk = true → bit (w.hub .flsCfg) 34 = true → exec (.flsStart v) s =
      .next { w with flash := { w.flash with
        nand := [], blocks := w.flash.blocks.map fun e => (e.1, { e.2 with used := 0, reads := 0 }), open_ := [], credit := []
        state := .starting, lastStatus := stOk, recorded := some w.userCap } }) ∧
    (s.flash.state = .off → w.flashStartOk = false →
      exec (.flsStart v) s = .next { w with flash := { w.flash with lastStatus := stUnsupported } }) ∧
    (s.flash.state ≠ .off → exec (.flsStart v) s = .next { s with flash := { s.flash with lastStatus := stUnsupported } }) ∧
    (s.flash.state = .starting →
      let r := s.rebuildMap
      exec (.flsStartingDone true) s =
        .next (s.after ({ r with flash := { r.flash with state := .ready } } : State).flashGoOn) ∧
      exec (.flsStartingDone false) s = .next (s.after s.failFlash)) ∧
    (s.flash.state = .ready → exec (.flsStartingDone false) s = .next (s.after s.failFlash))

/-- R234, R240, R242: an access that waits at the flash die tries again when there is space; a part that has
stood there for 1.45 ms ends with TIMEOUT; a forwarded part that its device has not answered within borrow_to
ends with TIMEOUT, a lender's with its counter and its late answer dropped. -/
def Obligations.TierTimersComplete : Prop :=
  ∀ (s : State), s.Ready →
    (∀ id a, s.acc id = some a →
      exec (.flashStageSpace id) s = .next (s.after
        (((List.range a.parts.length).foldl (fun s i => s.flashPart id i) s).settleAccess id)) ∧
      exec (.tier1Timeout id) s = .next (s.after (((a.parts.zipIdx.foldl (fun s x => match x.1.st with
        | .flash t _ _ => if 1450000 ≤ s.now - t then s.endPart id x.2 { stage := 6, status := stTimeout, data := [] } else s
        | _ => s) s).settleAccess id).syncRefresh))) ∧
    (∀ tag t r c p, (s.xp.reqs.find? (·.1 = tag)) = some (t, r) → s.borrowTo ≤ s.now - r.since →
      (r.kind = .fwd c p false → exec (.borrowTimeout tag) s = .next (s.after (s.endReq tag stTimeout false []))) ∧
      (r.kind = .fwd c p true →
        let u := s.count .hubBorrowStat 1
        exec (.borrowTimeout tag) s = .next (s.after (State.endReq
          { u with xp := { u.xp with late := u.xp.late ++ [(tag, r.sess, r.inc)] } } tag stTimeout false []))))

/-- R240, R244 to R247, R255: the flash die programs what the staging buffer holds as far as a channel has
space; on which channels a program fails is a free value, and the open block of each is retired. Wear levelling
relocates the valid pages of the least worn closed block and erases it; collection does so for the block with
the fewest valid pages and gives the space it frees to writes that are held, or retires the block when its erase
fails; a block read too often is relocated whole and erased, a page that degrades is relocated, one that cannot
be corrected is marked. The counters count NAND pages moved. -/
def Obligations.FlashUpkeepCompletes : Prop :=
  ∀ (s : State), s.Ready → s.flash.state = .ready →
    (let x : State × Nat := if s.flash.stage = [] then (s, 0) else s.draw
     let bad := (List.range 32).filter fun c =>
       (Config.programFails x.2).getLsbD c && x.1.flash.stage.any fun e => e.1 % 32 = c
     let u := bad.foldl (fun s c => match s.openBlock c with | some b => s.retireBlock c b | none => s) x.1
     exec .flashProgramDone s = .next (s.after (if u.flash.state != .ready then u else
       (u.flash.stage.foldl (fun s e => match s.program e.1 e.2 with
         | some s => { s with flash := { s.flash with stage := terase s.flash.stage e.1 } }
         | none => s) u).closePages.flashGoOn.syncRefresh))) ∧
    (∀ (ch : BitVec 5) (b : Nat) (failed : Bool), s.freePm ch.toNat < bits (s.hub .flsFtl) 23 16 →
      s.gcVictim ch.toNat = some b →
      let m := s.moveBlock ch.toNat b
      let t := if m.2 = 0 then m.1 else m.1.count .flsStat 4 m.2
      t.blockValid ch.toNat b = [] →
      (failed = false →
        let u := t.erase ch.toNat b
        let k := if u.gcCritical ch.toNat then
          tget 0 u.flash.credit ch.toNat + (u.popOr NandPop.blockPages - m.2) else 0
        exec (.flashGc ch failed) s = .next (s.after
          ({ u with flash := { u.flash with credit := tset 0 u.flash.credit ch.toNat k } } : State).flashGoOn)) ∧
      (failed = true → exec (.flashGc ch failed) s = .next (s.after (t.retireBlock ch.toNat b)))) ∧
    (∀ (ch : BitVec 5) (b : Nat),
      let all := (List.range (s.popOr NandPop.blocksUsed)).filter fun b => !(s.block ch.toNat b).retired
      let hi := all.foldl (fun m b => max m (s.block ch.toNat b).erases) 0
      let lo := all.foldl (fun m b => min m (s.block ch.toNat b).erases) hi
      bits (s.hub .flsFtl) 63 48 < hi - lo →
      ((s.closedBlocks ch.toNat).find? fun b => (s.block ch.toNat b).erases = lo) = some b →
      let m := s.moveBlock ch.toNat b
      let t := if m.2 = 0 then m.1 else m.1.count .flsStat 6 m.2
      t.blockValid ch.toNat b = [] → exec (.flashWearLevel ch) s = .next (s.after (t.erase ch.toNat b))) ∧
    (∀ p patrol, (tget {} s.flash.nand p).valid = true →
      let r := if patrol then s.nandRead p else s
      let c := p % 32
      let b := (tget {} s.flash.nand p).block
      exec (.flashRefresh p patrol false) s = .next (s.after (r.flashBad p)) ∧
      (bits (r.hub .flsFtl) 47 32 * 1000 < (r.block c b).reads →
        let m := r.moveBlock c b
        let t := if m.2 = 0 then m.1 else m.1.count .flsStat 5 m.2
        t.blockValid c b = [] → exec (.flashRefresh p patrol true) s = .next (s.after (t.erase c b))) ∧
      ((r.block c b).reads ≤ bits (r.hub .flsFtl) 47 32 * 1000 → patrol = true →
        exec (.flashRefresh p patrol true) s = .next (s.after r)) ∧
      ((r.block c b).reads ≤ bits (r.hub .flsFtl) 47 32 * 1000 → patrol = false →
        (s.relocate p).2 = true →
        exec (.flashRefresh p patrol true) s = .next (s.after ((s.relocate p).1.closePages.count .flsStat 5))))

/-- R258, R260, R262: a RUNNING stream issues the sixteen reads of its next tile while lead and max_inflight
allow, and is DRAINING once its last is issued; a tile whose writes have all been performed is staged and
counted; a stream that has drained or ended enters IDLE, its PACE_START and the PACE_STOPs that wait for it
complete, and a waiting PACE_START goes on. R254, R255, R257, R262: at its turn a PACE_START is refused for a
stage that is not sound, ends with POISON or INDEX_FAULT by its schedule, or sets its stream RUNNING; a
PACE_STOP completes at once in IDLE and ends the stream otherwise; a TILE_MOVE is refused where its operands
overlap, goes on tile by tile and ends with OK or POISON; a sync ends when what it waits for is clean, and with
TIMEOUT when the tier is not READY. -/
def Obligations.PacerTimersComplete : Prop :=
  (∀ (s : State) (q : BitVec 2) (k : BitVec 3), s.Ready →
     let x := s.stream q.toNat k.toNat
     (x.state = .running → x.nextFetch < x.head + x.lead → x.inflight.length < s.maxInflight q.toNat →
       x.beyond x.nextFetch = false →
       let t := x.nextFetch
       let src := x.src + tileOff x.sched (t % max 1 x.perPass)
       let ctx := match s.findCmd x.cmd with | some c => c.ctx | none => 0
       exec (.paceFetch q k) s = .next (s.after ((List.range 16).foldl (fun s p =>
         s.internal (.tile q.toNat k.toNat t p false) ctx { kind := .read, gfa := src + p * 4096, len := 4096 })
         (s.setStream q.toNat k.toNat fun x => { x with nextFetch := t + 1, inflight := x.inflight ++ [(t, 16)]
                                                        state := if x.beyond (t + 1) then .draining else .running })))) ∧
     (∀ t, (x.state = .running ∨ x.state = .draining) → x.inflight.contains (t, 0) = true →
       let u := (s.dropTile q.toNat (x.stage + t % max 1 x.slots * 65536)).setStream q.toNat k.toNat fun x =>
         { x with inflight := x.inflight.filter (·.1 != t), staged := x.staged ++ [t] }
       exec (.tileStaged q k t) s =
         .next (s.after ((u.countQ q.toNat .qdPaceStat 0).owe (.streamWake q.toNat k.toNat)))) ∧
     ((x.state = .draining ∧ x.inflight = [] ∧ x.beyond x.head = true ∨
       x.state = .ending ∧ (x.inflight.all fun e => e.2 = 0) = true) →
       let st := if x.state = .draining then stOk else x.endStatus
       let u := (s.setStream q.toNat k.toNat fun _ => { lastStatus := st }).endEng x.cmd st []
       let u := (u.stops q.toNat k.toNat).foldl (fun s id => s.endEng id stOk []) u
       exec (.paceStreamIdle q k) s = .next (s.after
         ((u.starts q.toNat k.toNat).foldl (fun s i => s.owe (.eng i)) (u.owe (.streamWake q.toNat k.toNat)))))) ∧
  (∀ (s : State) (id : Nat) (e : Eng),
     let q := e.quad
     let k := e.queue
     let op (i : Nat) : Opnd := e.opnds.getD i ⟨0, 0, false, false⟩
     let fails (t : State) (st : Byte) : State :=
       ((t.endEng id st []).starts q k).foldl (fun t i => t.owe (.eng i)) (t.endEng id st [])
     ((s.stream q k).state = .idle → ((s.starts q k).any (· < id)) = false →
       (s.stageOk q (op 2).gfa (op 2).len = false → s.paceBegin id e = fails s stUnsupported) ∧
       (∀ (t : State) (b : List Byte) (bad : Bool), s.stageOk q (op 2).gfa (op 2).len = true → s.engRead id (op 0).gfa (op 0).len = (t, some (b, bad)) →
         let es := schedEntries ((op 0).len / 16) b
         let odd := es.any fun x => (op 1).len < field x 0 8 + field x 8 4 * 65536 || field x 0 8 % 65536 != 0
           || field x 8 4 = 0 || 2 ≤ field x 14 1 || !zeroAt x 15 1
         (bad = true → s.paceBegin id e = fails t stPoison) ∧
         (bad = false → odd = true → s.paceBegin id e = fails t stIndexFault) ∧
         (bad = false → odd = false → s.paceBegin id e = (t.setStream q k fun _ =>
           { state := .running, lastStatus := (t.stream q k).lastStatus, sched := es.map fun x => (field x 0 8, field x 8 4)
             loops := field e.body 4 4, lead := field e.body 2 2, slots := (op 2).len / 65536, src := (op 1).gfa
             stage := (op 2).gfa, cmd := id }).setEng id fun e => { e with phase := .stream, fetched := [] }))) ∧
     (e.phase ≠ .stream →
       ((s.stream q k).state = .idle → s.paceStopRun id e = s.endEng id stOk []) ∧
       ((s.stream q k).state ≠ .idle → s.paceStopRun id e =
         (s.streamEnd q k stOk stAborted).setEng id fun e => { e with phase := .stream })) ∧
     (e.waits = 0 →
       let n := field e.body 4 4
       (overlaps (op 0).gfa (op 0).len (op 1).gfa (op 1).len = true → s.moveRun id e = s.endEng id stUnsupported []) ∧
       (∀ i pz, overlaps (op 0).gfa (op 0).len (op 1).gfa (op 1).len = false → e.phase = .move i pz →
         (n ≤ i → s.moveRun id e = s.endEng id (if pz then stPoison else stOk) []) ∧
         (i < n → e.issued = true → s.moveRun id e = ((s.dropTile q ((op 1).gfa + i * 65536)).setEng id fun e =>
           { e with issued := false, fetched := [], phase := .move (i + 1) pz }).owe (.eng id)))) ∧
     (let t : State := { s with flash := { s.flash with syncs := s.flash.syncs.filter (·.1 != id) } }
      (s.flash.state ≠ .ready → s.syncRun id = t.endEng id stTimeout []) ∧
      (s.flash.state = .ready → (∀ x, s.flash.syncs.find? (·.1 = id) = some x → x.2 = []) → s.syncRun id = t.endEng id stOk []) ∧
      (∀ x, s.flash.state = .ready → s.flash.syncs.find? (·.1 = id) = some x → x.2 ≠ [] → s.syncRun id = s)))

/-! ### Engines (08 to 12) -/

/-- R283, R302, R318, R260: the next entry of a resident program begins with the lanes of its rows. When its
quantum ends and another program waits, a program is saved and the waiting ones are admitted. A wait for a Lane
that is not here ends with TIMEOUT, and so does a wait for a late tile. R276, R280: a program is read, ends with
POISON where that met poison, with the status of its first bad entry where one is bad, and is held otherwise. -/
def Obligations.TensorRowsComplete : Prop :=
  ((∀ (s : State) (q : BitVec 2) (k : BitVec 4) (row : BitVec 2 → BitVec 4 → Instr) (op id : Nat) (p : TeProg), s.Ready →
      (row, op) ∈ [(Instr.teLoad, 1), (Instr.teMatmul, 2), (Instr.teAttend, 3), (Instr.teNorm, 4), (Instr.teAcc, 5),
        (Instr.teStore, 6)] →
      s.nextEntry q.toNat k.toNat op = some (id, p) →
      exec (row q k) s = .next (s.after (((s.setEng id fun x => { x with fetched := [], issued := false }).setTe id fun x =>
        { x with busy := true, lanes := s.rowLanes q.toNat op p }).owe (.eng id)))) ∧
   (∀ (s : State) (q : BitVec 2) (k : BitVec 4), s.Ready →
      (∀ id p e slot, (s.programs q.toNat).filter (fun x => x.2.slot.isSome && !x.2.entries.isEmpty && !x.2.busy &&
          decide (max 1 (bits (s.quad q.toNat .teCfg) 31 16) * 1000 ≤ s.now - x.2.since)) = [(id, p)] →
        s.saveOn q.toNat = true → ((s.programs q.toNat).any fun x => x.2.slot.isNone) = true →
        s.eng id = some e → p.slot = some slot →
        exec (.teQuantumSwitch q) s =
          .next (s.after (((s.teSave id e p slot).countQ q.toNat .teStat 5).teAdmitAll q.toNat))) ∧
      (∀ c e, s.unitCmds 1 q.toNat = [c] → c.body = .eng e → e.queue = k.toNat →
        (match e.prog? with
          | some p => p.rowWait.any fun r => max 1 (bits (s.hub .sqCfg) 47 32) * 100000 ≤ s.now - r.2
          | none => false) = true →
        exec (.batonWaitTimeout q k) s = .next (s.after (s.addCond c.id stTimeout))) ∧
      (∀ id e t, s.eng id = some e → (e.prog?.bind fun p => p.waitSince) = some t → s.lateTo e.quad ≤ s.now - t →
        exec (.paceLateTimeout id) s = .next (s.after ((((s.waitOver e.quad t).countQ e.quad .qdPaceStat 3).setTe id fun p =>
          { p with waitSince := none }).addCond id stTimeout))))) ∧
  (∀ (s t : State) (id : Nat) (e : Eng) (b : List Byte) (bad : Bool),
     s.engRead id (e.opnds.getD (field e.body 2 1) ⟨0, 0, false, false⟩).gfa (64 * field e.body 4 2) = (t, some (b, bad)) →
     (bad = true → s.teRead id e = t.addCond id stPoison) ∧
     (bad = false →
       let es := programEntries (field e.body 4 2) b
       let u := (t.setEng id fun e => { e with fetched := [] }).setTe id fun p => { p with entries := es, since := t.now }
       ((∀ x ∈ es, entCheck e x = stOk) → s.teRead id e = u) ∧
       (∀ (i : Nat) (x : List Byte), es[i]? = some x → entCheck e x ≠ stOk → (∀ j y, j < i → es[j]? = some y → entCheck e y = stOk) →
         s.teRead id e = u.teEnd id (entCheck e x) (some i))))

/-- R311, R312: a Lane command for which a condition holds completes with the first of them and changes no Lane.
Otherwise SQ_OPEN makes the Lane HELD and SQ_ARM makes it ARMED with what it carries; SQ_SETLEN sets the length
and the cursor; SQ_OFFER makes it OFFERED and sends the offer; SQ_QUERY answers for a HELD or RELEASED Lane and
asks the peer for an OFFERED or TAKEN one; SQ_CLOSE makes it FREE. -/
def Obligations.SequenceCommandsAct : Prop :=
  ∀ (s : State) (id : Nat) (c : Cmd) (e : Eng), s.findCmd id = some c → e.phase ≠ .lane →
    let l := 64 * e.quad + e.queue
    let x := s.lane l
    let b := e.body
    let o := e.opnds.getD 0 ⟨0, 0, false, false⟩
    (s.seqConds l c e ≠ [] → s.seqRun id e = s.seqEnd id (firstByOrder seqOrder (s.seqConds l c e))) ∧
    (s.seqConds l c e = [] →
      (e.op = 1 ∨ e.op = 2 → s.seqRun id e = (s.setLane l fun _ =>
        { state := if e.op = 1 then .held else .armed, config := slice b 2 18, cap := field b 20 4, ctx := c.ctx
          reqId := BitVec.ofNat 64 (field b 24 8), gen := BitVec.ofNat 32 (field b 48 4), base := gfaOff o.gfa
          cacheLen := o.len }).seqEnd id stOk) ∧
      (e.op = 3 → s.seqRun id e = (s.setLane l fun x => { x with len := field b 4 4, cursor := 0 }).seqEnd id stOk) ∧
      (e.op = 4 → s.seqRun id e = ((s.setLane l fun x =>
        { x with state := .offered, peer := BitVec.ofNat 16 (field b 16 2), peerLane := field b 4 4, offGen := x.gen + 1
                 offLen := x.len, offerOk := false, sent := 0, acked := 0, querying := false, since := s.now }).setEng id
          fun e => { e with phase := .lane }).sendOffer l) ∧
      (e.op = 5 → x.state = .held ∨ x.state = .released → s.seqRun id e = s.seqEnd id stOk) ∧
      (e.op = 5 → x.state = .offered ∨ x.state = .taken →
        s.seqRun id e = (s.setEng id fun e => { e with phase := .lane }).sendQuery l) ∧
      (e.op = 6 → s.seqRun id e = ((s.laneMoves l fun _ => {}).owe .retireDue).seqEnd id stOk))

/-- R327, R330, R334: a Lane that holds, offers or took an image and is dropped is LOST, with its event; an
offered image is sent in pieces of 4096 bytes, and a poisoned piece ends the offer with POISON; one whose cache
stage 3 refuses ends it with EXTENT_REVOKED, the model's reading (log 115); a RECEIVING Lane whose time runs out
is ARMED again, and a TAKEN or querying one asks its peer. -/
def Obligations.LaneTimersComplete : Prop :=
  ∀ (s : State) (l : BitVec 8), s.Ready →
    let x := s.lane l.toNat
    (s.reaches { reg := .sqLaneCtl, inst := l.toNat / 64, i := l.toNat % 64 } = true →
      (x.state = .held ∨ x.state = .offered ∨ x.state = .taken) →
      exec (.sqLaneDrop l) s = .next (s.after (((s.laneMoves l.toNat fun x => { x with
        state := .lost, gen := 0, peer := 0xFFFF, querying := false, offerOk := false, got := [] }).countQ
          (l.toNat / 64) .sqStat 5).event 5 ([BitVec.ofNat 8 l.toNat] ++ List.replicate 7 0 ++ leBytes 8 x.reqId.toNat)))) ∧
    (x.state = .offered → x.offerOk = true → x.sent < x.imageBytes →
      let n := min 4096 (x.imageBytes - x.sent)
      let r := s.readRuns (s.imageRuns x x.sent n)
      (s.laneShut x = true → exec (.batonDataSend l) s = .next (s.after
        ((s.laneCmds l.toNat 4).foldl (fun s id => s.seqEnd id stExtentRevoked) (s.laneHeld l.toNat)))) ∧
      (s.laneShut x = false → r.2.2 = false → exec (.batonDataSend l) s = .next (s.after
        ((r.1.setLane l.toNat fun x => { x with sent := x.sent + n }).batonSend l.toNat 0x49 x.sent r.2.1))) ∧
      (s.laneShut x = false → r.2.2 = true → exec (.batonDataSend l) s = .next (s.after
        ((r.1.laneCmds l.toNat 4).foldl (fun s id => s.seqEnd id stPoison) (r.1.laneHeld l.toNat))))) ∧
    (s.batonTo ≤ s.now - x.since →
      (x.state = .receiving → exec (.batonToExpiry l) s = .next (s.after (s.laneMoves l.toNat fun x =>
        { x with state := .armed, peer := 0xFFFF, got := [] }))) ∧
      (x.state = .taken ∨ x.state = .offered ∧ x.querying = true → exec (.batonToExpiry l) s = .next (s.after
        (((s.setLane l.toNat fun x => { x with since := s.now, querying := true }).countQ (l.toNat / 64) .sqStat 4).batonSend
          l.toNat 0x4C 0 (queryPayload x.reqId (recordOf x))))))

/-- R359, R395, R400: a written enable of the search unit's scratch, of the gather unit's buffer and of the save
area takes effect when the extent is one that may serve there, is long enough and serves no other of them, and
while nothing runs that uses what is enabled; it is refused with UNSUPPORTED and enable 0 otherwise. That a
refused write of SE_CFG leaves a scratch that serves running threads is the model's reading (log 116). -/
def Obligations.ServiceExtentWrites : Prop :=
  ∀ (s : State) (q : BitVec 2) (v : Word), s.Ready →
    let e (a : RegAt) : Nat := if bit (s.at a) 12 then bits (s.at a) 11 0 else bits (putBits v 12 12 1) 11 0
    let w (a : RegAt) (b : Nat) : Word := putBits (putBits (storedWrite s a (putBits v 12 12 1)) 12 12 b) 11 0 (e a)
    let se : RegAt := { reg := .seCfg, inst := q.toNat }
    let gu : RegAt := { reg := .guCfg, inst := q.toNat }
    let sv : RegAt := { reg := .qdCtxCfg, inst := q.toNat }
    (s.reaches se = true → s.threadsBusy q.toNat = 0 →
      let ok := s.scratchable q.toNat (e se) && decide (131072 ≤ s.extLen (e se))
      let t := s.putAt se (w se (if ok then 1 else 0))
      let t := (t.threadless q.toNat).foldl (fun s w => s.owe (.eng w.2)) t
      exec (.seCfgScratch q v) s =
        .next (s.after { t with seStatus := tset 0 t.seStatus q.toNat (if ok then stOk else stUnsupported) })) ∧
    (s.reaches se = true → s.threadsBusy q.toNat ≠ 0 →
      let t := if bit (s.at se) 12 then s else s.putAt se (putBits (storedWrite s se (putBits v 12 12 1)) 12 12 0)
      exec (.seCfgScratch q v) s = .next (s.after { t with seStatus := tset 0 t.seStatus q.toNat stUnsupported })) ∧
    (s.reaches gu = true →
      let running := (s.unitCmds 4 q.toNat).any fun c => match c.body with
        | .eng e => e.started && e.relay && e.gu?.isSome
        | _ => false
      let ok := !running && s.scratchable q.toNat (e gu) && decide (131072 ≤ s.extLen (e gu)) && !s.servesAs .seCfg q.toNat (e gu)
      let t := s.putAt gu (w gu (if ok then 1 else 0))
      exec (.guCfgBuffer q v) s = .next { t with gu := { t.gu with
        bufStatus := tset 0 t.gu.bufStatus q.toNat (if ok then stOk else stUnsupported) } }) ∧
    (s.reaches sv = true →
      let saved := (s.unitCmds 1 q.toNat).any fun c => match c.body with
        | .eng e => (match e.phase with | .te p => p.saved | _ => false)
        | _ => false
      let ok := !saved && s.scratchable q.toNat (e sv) && decide (269484032 ≤ s.extLen (e sv))
        && !s.servesAs .seCfg q.toNat (e sv) && !s.servesAs .guCfg q.toNat (e sv)
      let t := s.putAt sv (w sv (if ok then 1 else 0))
      exec (.qdCtxSaveArea q v) s = .next { t with
        saveStatus := tset 0 t.saveStatus q.toNat (if ok then stOk else stUnsupported) })

/-- R404, R406: QUIESCE of an enabled unit makes it QUIESCING, or DISABLED at once when nothing is in flight;
KILL makes it KILLING; ENABLE of a disabled unit enables it; each is UNSUPPORTED in any other state, and does
nothing for unit 0, which has no such register. A quiesce that runs out of time kills; a unit with nothing left
is DISABLED and raises its event. -/
def Obligations.UnitControlActs : Prop :=
  ∀ (s : State) (unit : BitVec 3) (q : BitVec 2) (v : Word), s.Ready →
    (unit = 0 → exec (.engQuiesce unit q v) s = .next s ∧ exec (.engKill unit q v) s = .next s ∧
      exec (.engEnable unit q v) s = .next s) ∧
    (unit ≠ 0 →
    let u := unit.toNat
    let k := q.toNat
    let a := engCtl u k
    let w (op : Nat) := s.putAt a (storedWrite s a (putBits v 36 35 op))
    let x := s.unit u k
    let off := [BitVec.ofNat 8 u, if u ≤ 5 then BitVec.ofNat 8 k else 0xFF]
    let done (t : State) (reload : Bool) : State :=
      let t := (t.setUnit u k fun x => { x with state := .disabled }).event 6 off
      if reload then t.setUnit u k fun x => { x with state := .enabled, reload := false } else t
    let bad (op : Nat) : State := (w op).setUnit u k fun x => { x with lastStatus := stUnsupported }
    (s.reaches a = true →
      (x.state = .enabled → s.unitCmds u k ≠ [] → exec (.engQuiesce unit q v) s =
        .next ((w 1).setUnit u k fun _ => { state := .quiescing, lastStatus := stOk, since := s.now })) ∧
      (x.state = .enabled → s.unitCmds u k = [] → twf {} s.units → exec (.engQuiesce unit q v) s =
        .next (s.after (done ((w 1).setUnit u k fun _ => { state := .quiescing, lastStatus := stOk, since := s.now }) false))) ∧
      (x.state ≠ .enabled → exec (.engQuiesce unit q v) s = .next (bad 1)) ∧
      (x.state = .enabled ∨ x.state = .quiescing → s.unitCmds u k ≠ [] → exec (.engKill unit q v) s =
        .next (s.after ((((w 2).setUnit u k fun x => { x with lastStatus := stOk }).setUnit u k fun x =>
          { x with state := .killing }).owe (.kill u k)))) ∧
      (x.state = .enabled ∨ x.state = .quiescing → s.unitCmds u k = [] → twf {} s.units → exec (.engKill unit q v) s =
        .next (s.after (done (((w 2).setUnit u k fun x => { x with lastStatus := stOk }).setUnit u k fun x =>
          { x with state := .killing }) x.reload))) ∧
      (x.state ≠ .enabled → x.state ≠ .quiescing → exec (.engKill unit q v) s = .next (bad 2)) ∧
      (x.state = .disabled → exec (.engEnable unit q v) s =
        .next ((w 3).setUnit u k fun x => { x with state := .enabled, lastStatus := stOk })) ∧
      (x.state ≠ .disabled → exec (.engEnable unit q v) s =
        .next (bad 3))) ∧
    (x.state = .quiescing → s.quiesceTo u k ≤ s.now - x.since → s.unitCmds u k ≠ [] →
      exec (.quiesceToExpiry unit q) s = .next (s.after ((s.setUnit u k fun x => { x with state := .killing }).owe (.kill u k)))) ∧
    ((x.state = .quiescing ∨ x.state = .killing) → s.unitCmds u k = [] → twf {} s.units →
      exec (.engDisabled unit q) s = .next (s.after (done s x.reload))))

/-- R133, R360, R386, R387, R389, R391, R416, R421: a waiting query gets a thread when one is free; a part in
backoff is sent again; a held part, a relay, a watch and a request to a Hurdle's owner that run out of time end
with TIMEOUT; a deterministic round is applied once every part is there; an evicted line is written back when
dirty, and dropped once no write-back of it is on its way. R145, R146: a flush or an invalidation writes back
what is dirty, waits for its write-backs, and ends with what they met; an invalidation then drops the lines of
its range. R358, R360: a query ends with the first condition of its start, gets a thread, or waits for one. R371
to R373, R382: a gather or scatter waits for its relay group, reads its header and its index list, and ends with
POISON or INDEX_FAULT by them. -/
def Obligations.UnitTimersComplete : Prop :=
  (∀ (s : State), s.Ready →
     (∀ (q : BitVec 2) n id, s.threadless q.toNat = [(n, id)] → s.threadsBusy q.toNat < s.threads q.toNat →
       exec (.seThreadFree q) s = .next (s.after ((s.setEng id fun e => { e with phase := .thread [0, 0, 0, 0] }).owe (.eng id)))) ∧
     (∀ id k e r p t b, s.eng id = some e → e.gu? = some r → r.parts[k]? = some p → p.backoff = some (t, b) →
       b ≤ 2 * (s.now - t) → s.stopping id = false →
       exec (.heatPartRetry id k) s = .next (s.after ((s.setGu id fun r =>
         { r with parts := r.parts.set k { p with backoff := none } }).sendPart id k { p with backoff := none }))) ∧
     (∀ id h, s.heat id = some h → (∀ i e r, s.groupCmd h.group = some (i, e, r) → e.round ≠ h.round) → s.relayTo h.group ≤ s.now - h.since →
       exec (.heldPartTimeout id) s = .next (s.after (s.answerPart id stTimeout 0 0 []))) ∧
     (∀ (g : BitVec 6) id e r, s.groupCmd g.toNat = some (id, e, r) → e.op = 2 → e.det = true → r.ownDone = true →
       r.applying = false → r.refused = none → s.allParts g.toNat r = true →
       exec (.relayDetApply g) s = .next (s.after ((s.setGu id fun x => { x with applying := true, work := s.roundAdds g.toNat e r }).owe (.eng id)))) ∧
     (∀ id e, s.eng id = some e → e.unit = 4 → e.started = true → e.relay = true → isCommon e.op = false →
       s.relayTo e.grp ≤ s.now - e.since → exec (.relayTimeout id) s = .next (s.after (s.addCond id stTimeout))) ∧
     (∀ id w, (s.hdl.watches.find? fun w => w.to_ = .cmd id) = some w → w.timeout ≠ 0 → w.timeout ≤ s.now - w.since →
       exec (.watchTimeout id) s = .next (s.after (s.endWatches (fun x => x.n = w.n) stTimeout))) ∧
     (∀ tag t r id e, (s.xp.reqs.find? (·.1 = tag)) = some (t, r) → r.kind = .hdlPeer id → s.eng id = some e →
       ¬ (e.op = 5 ∧ field e.body 28 4 = 0) → field e.body 28 4 * 1000 + s.borrowTo ≤ s.now - r.since →
       exec (.hdlPeerTimeout tag) s = .next (s.after (s.endReq tag stTimeout false []))) ∧
     (∀ (q : BitVec 2) l x, s.ecFind q.toNat l = some x →
       let u := s.ecWriteBack q.toNat l true
       (u.ecHeld q.toNat l = false → exec (.ecEvict q l) s = .next (s.after (u.ecDrop q.toNat l))) ∧
       (u.ecHeld q.toNat l = true → exec (.ecEvict q l) s = .next (s.after u)) ∧
       (x.dirty = 0 → u = s))) ∧
  (∀ (s : State) (id : Nat) (e f : Eng),
     let whole := field e.body 1 1 % 2 = 1
     let o := e.opnds.getD 0 ⟨0, 0, false, false⟩
     let u := if e.issued then s else s.flushRange e.quad whole o.gfa o.len fun s ids =>
       s.setEng id fun e => { e with issued := true, phase := .cache (ids ++ e.awaited) }
     u.eng id = some f →
       ((∃ i ∈ f.awaited, u.findCmd i ≠ none) → s.commonRun id e = u) ∧
       ((∀ i ∈ f.awaited, u.findCmd i = none) →
         let st := firstByOrder [stExtentRevoked, stFenced, stTimeout] f.conds
         (f.op ≠ 0xF1 → s.commonRun id e = u.endEng id st []) ∧
         (f.op = 0xF1 → s.commonRun id e =
           ((u.ecLines f.quad whole o.gfa o.len).foldl (fun s l => s.ecInval f.quad l) u).endEng id st []))) ∧
  (∀ (s : State) (id : Nat) (e : Eng), e.phase = .none →
     let conds := (s.indexBind e).2 ++ (if s.scratchOn e.quad then [] else [stUnsupported])
     (conds ≠ [] → s.searchRun id e = s.searchEnd id (firstByOrder searchOrder conds)) ∧
     (conds = [] → s.threadless e.quad = [] → s.threadsBusy e.quad < s.threads e.quad →
       s.searchRun id e = (s.setEng id fun e => { e with phase := .thread [0, 0, 0, 0] }).owe (.eng id)) ∧
     (conds = [] → s.threadless e.quad ≠ [] ∨ s.threads e.quad ≤ s.threadsBusy e.quad →
       let n := (s.threadless e.quad).foldl (fun m w => max m (w.1 + 1)) 0
       s.searchRun id e = (s.setEng id fun e => { e with phase := .noThread n }).countQ e.quad .seStat 6)) ∧
  (∀ (s : State) (id : Nat) (c : Cmd) (e : Eng), s.findCmd id = some c →
     (e.gu? = none → e.relay = false ∨ (s.group e.grp).active = none →
       (gfaDev e.tabGfa ≠ s.ownId → s.gatherRun id e = s.gatherEnd id stUnsupported) ∧
       (∀ (t : State) (h : List Byte) (bad : Bool), gfaDev e.tabGfa = s.ownId → s.engRead id e.tabGfa 64 = (t, some (h, bad)) →
         s.gatherRun id e = if bad then t.addCond id stPoison else t.gatherBegin id c e h)) ∧
     (e.gu? = none → e.relay = true → (s.group e.grp).active ≠ none → s.gatherRun id e = s) ∧
     (∀ (r : GuRun) (t : State) (b : List Byte) (bad : Bool), e.gu? = some r → r.idx = none →
       s.engRead id (e.opnds.getD 1 ⟨0, 0, false, false⟩).gfa (4 * e.batch) = (t, some (b, bad)) →
       let idx := (List.range e.batch).map fun i => field b (4 * i) 4
       let padding (i : Nat) : Bool := e.pad && i = 0xFFFFFFFF
       (bad = true → s.gatherRun id e = t.addCond id stPoison) ∧
       (bad = false → (∃ i ∈ idx, (tabOf r.hdr).rows ≤ i ∧ padding i = false) → s.gatherRun id e = t.addCond id stIndexFault) ∧
       (bad = false → (∀ i ∈ idx, i < (tabOf r.hdr).rows ∨ padding i = true) →
         let u := (((t.setEng id fun e => { e with fetched := [] }).setGu id fun r =>
           { r with idx := some idx, padded := idx.countP padding }).owe (.eng id))
         s.gatherRun id e = if e.relay then (u.heldOf e.grp e.round).foldl (fun s h => s.owe (.part h.1)) u else u)))

/-- R411, R412, R415, R417: HDL_ALLOC gives the lowest free Hurdle within the tenant's quota, and is QUOTA or
RETRY otherwise; HDL_FREE frees one of the tenant's own; HDL_READ answers its value; HDL_UPDATE sets its new
value, counts, and answers the old one; each is refused with the status that the check of its Hurdle gives.
R417, R418, R425: HDL_WATCH registers a watch and tests it at once, or is QUOTA or RETRY; a signal watch
completes at registration. R427, R428: HDL_SAVE takes its record, frees what it is told to free, and writes it,
or is refused with the first condition; HDL_RESTORE is all or nothing. -/
def Obligations.HurdleCommandsAct : Prop :=
  (∀ (s : State) (id : Nat) (c : Cmd) (e : Eng), s.findCmd id = some c → e.issued = false → e.phase = .none →
     field e.body 6 2 = s.ownId →
     let h := field e.body 4 2
     let v := BitVec.ofNat 64 (field e.body 8 8)
     let free := leastBelow 16384 fun i => !(s.hurdle i).alloc
     (e.op = 1 →
       (s.hdlMax c.tenant ≤ s.hurdlesHeld c.tenant → s.hurdleRun id e = s.endEng id stQuota (hurdleResult h false 0 0)) ∧
       (s.hurdlesHeld c.tenant < s.hdlMax c.tenant → free = none →
         s.hurdleRun id e = s.endEng id stRetry (hurdleResult h false 0 0)) ∧
       (∀ i, s.hurdlesHeld c.tenant < s.hdlMax c.tenant → free = some i → s.hurdleRun id e = (s.setHurdle i fun _ =>
         { alloc := true, peerOk := field e.body 1 1 = 1, tenant := c.tenant, value := v }).endEng id stOk
           (hurdleResult i false 0 v))) ∧
     (e.op = 2 → (s.hurdle h).alloc = true → (s.hurdle h).tenant = c.tenant →
       s.hurdleRun id e = (s.hurdleFree h).endEng id stOk (hurdleResult h false 0 0)) ∧
     (e.op = 3 ∨ e.op = 4 ∨ e.op = 5 → s.hurdleCheck c h ≠ stOk →
       s.hurdleRun id e = s.endEng id (s.hurdleCheck c h) (hurdleResult h false 0 0)) ∧
     (e.op = 4 → s.hurdleCheck c h = stOk →
       s.hurdleRun id e = s.endEng id stOk (hurdleResult h false 0 (s.hurdle h).value)) ∧
     (e.op = 3 → s.hurdleCheck c h = stOk → (∀ w ∈ s.hdl.watches, w.hurdle ≠ h) →
       let new := hurdleNew (field e.body 2 1) (s.hurdle h).value v
       s.hurdleRun id e = ((s.setHurdle h fun x => { x with value := new }).count .hubHdlStat 0).endEng id stOk
         (hurdleResult h false 0 (s.hurdle h).value))) ∧
  (∀ (s : State) (id : Nat) (c : Cmd) (e : Eng), s.findCmd id = some c → e.issued = false → e.phase = .none →
     field e.body 6 2 = s.ownId → e.op = 5 →
     let h := field e.body 4 2
     let owner := (s.hurdle h).tenant
     s.hurdleCheck c h = stOk →
     (s.watchMax owner ≤ s.watchesHeld owner → s.hurdleRun id e = s.endEng id stQuota (hurdleResult h false 0 0)) ∧
     (s.watchesHeld owner < s.watchMax owner → 65536 ≤ s.hdl.watches.length →
       s.hurdleRun id e = s.endEng id stRetry (hurdleResult h false 0 0)) ∧
     (s.watchesHeld owner < s.watchMax owner → s.hdl.watches.length < 65536 →
       let w (to_ : WatchTo) (timeout : Nat) : Watch :=
         { n := s.hdl.regs, hurdle := h, cond := field e.body 2 1, target := BitVec.ofNat 64 (field e.body 8 8), to_ := to_
           tenant := owner, since := s.now, timeout := timeout }
       let added (t : State) (x : Watch) : State :=
         { t with hdl := { t.hdl with watches := t.hdl.watches ++ [x], regs := s.hdl.regs + 1 } }
       (field e.body 1 1 ≠ 2 →
         let x := w (.cmd id) (field e.body 28 4 * 1000)
         s.hurdleRun id e =
           ((added ((s.setEng id fun e => { e with phase := .watch s.hdl.regs }).owe (.queue 7 0xFF 0)) x).testWatches h).1) ∧
       (field e.body 1 1 = 2 →
         let t := s.endEng id stOk (hurdleResult h false 0 0)
         let x : Watch := { n := t.hdl.regs, hurdle := h, cond := field e.body 2 1, target := BitVec.ofNat 64 (field e.body 8 8)
                            to_ := .signal (e.opnds.getD 0 ⟨0, 0, false, false⟩).gfa (field e.body 16 8) c.ctx
                            tenant := owner, since := t.now, timeout := 0 }
         s.hurdleRun id e = ((({ t with hdl := { t.hdl with watches := t.hdl.watches ++ [x], regs := t.hdl.regs + 1 } } : State)).testWatches h).1))) ∧
  (∀ (s : State) (id : Nat) (c : Cmd) (e : Eng), s.findCmd id = some c → e.issued = false → e.phase = .none →
     field e.body 6 2 = s.ownId →
     let h := field e.body 4 2
     let n := field e.body 24 2
     let o := e.opnds.getD 0 ⟨0, 0, false, false⟩
     let own := s.hdl.hdl.filter fun x => h ≤ x.1 && x.1 < h + n && x.2.alloc
     let saved := s.hurdleRecord h n
     let fails (t : State) (st : Byte) : State := t.endEng id st (hurdleResult h false 0 0)
     (e.op = 6 →
       ((∃ x ∈ own, x.2.tenant ≠ c.tenant) → s.hurdleRun id e = fails s stNotOwner) ∧
       ((∀ x ∈ own, x.2.tenant = c.tenant) → field e.body 8 8 < saved.length → s.hurdleRun id e = fails s stIndexFault) ∧
       ((∀ x ∈ own, x.2.tenant = c.tenant) → saved.length ≤ field e.body 8 8 → (∃ x ∈ own, x.2.faulted = true) →
         s.hurdleRun id e = fails s stPoison) ∧
       ((∀ x ∈ own, x.2.tenant = c.tenant ∧ x.2.faulted = false) → saved.length ≤ field e.body 8 8 →
         let t := (s.setEng id fun e =>
           { e with issued := true, payload := hurdleResult h false (recordWatches saved) 0 }).owe (.queue 7 0xFF 0)
         s.hurdleRun id e =
           ((if field e.body 1 1 = 4 then own.foldl (fun s x => s.hurdleFree x.1) t else t).engStore id o.gfa saved).owe (.eng id))) ∧
     (e.op = 7 →
       ((∃ i, i < n ∧ (s.hurdle (h + i)).alloc = true) → s.hurdleRun id e = fails s stNotOwner) ∧
       (∀ t r, (∀ i, i < n → (s.hurdle (h + i)).alloc = false) → s.readRecord id h n o = (t, some r) →
         ∀ u cs gs, t.restoreConds id c h n o r = (u, cs, gs) →
         (cs ≠ [] → s.hurdleRun id e = fails u (firstByOrder hurdleOrder cs)) ∧
         (cs = [] →
           let ent (i : Nat) : List Byte := slice r (16 + 16 * i) 16
           let watch (i : Nat) : List Byte := slice r (16 + 16 * n + 32 * i) 32
           let held := (List.range n).foldl (fun s i => if field (ent i) 8 1 % 2 = 1 then
               s.setHurdle (h + i) fun _ => { alloc := true, peerOk := field (ent i) 8 1 / 2 % 2 = 1, tenant := c.tenant
                                              value := BitVec.ofNat 64 (field (ent i) 0 8) }
             else s) u
           s.hurdleRun id e = (List.range (recordWatches r)).foldl (fun s i =>
             s.addWatch (field (watch i) 0 2) (field (watch i) 2 1) (BitVec.ofNat 64 (field (watch i) 8 8))
               (.signal (gs.getD i 0) (field (watch i) 16 8) c.ctx) c.tenant 0)
             (held.endEng id stOk (hurdleResult h false (recordWatches r) 0))))))

/-! ### Switch and fabric (13, 14) -/

/-- R433, R434, R440, R444, R445, R447, R460, R462: a frame reaches the switch only while it carries frames and
on a port that is live; it is counted and copied by the ingress mirror first. One with no route, a bad FCS, an
uncorrectable buffer word or a spent TTL is discarded and counted; one that may not leave is dropped; one from
the device is admitted with TTL 64; one from outside is metered, and dropped and counted when red. An output
drops what is too long for its gates and takes its next frame: an external port sends, counts and mirrors it,
and at the hub's endpoint a message in it is received as its row has it. -/
def Obligations.FramesAreSwitched : Prop :=
  ∀ (s : State), s.Ready →
    (∀ (i : Nat) (e : EthFrame) (upset : Bool),
      (s.switching = false ∨ s.portLive i = false → exec (.frameReceive i e upset) s = .next s) ∧
      (s.switching = true → s.portLive i = true →
        let t := (s.frameSeen i upset).mirrorIn i e
        (t.routeOf e = none → exec (.frameReceive i e upset) s = .next (s.after (t.count .swStat 2))) ∧
        (∀ o, t.routeOf e = some o →
          let lost : Prop := e.fcsOk = false ∨ upset = true ∨ i < 32 ∧ o < 32 ∧ (e.ttl.toNat ≤ 1 ∨ t.starting = true)
          (lost → exec (.frameReceive i e upset) s = .next (s.after (t.count .swStat 2))) ∧
          (¬ lost → t.mayLeave i o e = false → exec (.frameReceive i e upset) s = .next (s.after t)) ∧
          (¬ lost → t.mayLeave i o e = true → 32 ≤ i → exec (.frameReceive i e upset) s =
            .next (s.after (t.admitFrame i o { e with ttl := 64 } false).sweep)) ∧
          (¬ lost → t.mayLeave i o e = true → i < 32 →
            let m := t.meter (t.flowRule i e) e
            (m.2 = some .red → exec (.frameReceive i e upset) s = .next (s.after (m.1.count .swStat 5).sweep)) ∧
            (m.2 ≠ some .red → exec (.frameReceive i e upset) s =
              .next (s.after (m.1.admitFrame i o (colourDei m.2 e) (m.2 = some .yellow)).sweep)))))) ∧
    (∀ (o : Nat),
      (s.switching = false ∨ s.portLive o = false → exec (.outputService o) s = .next s) ∧
      (s.switching = true → s.portLive o = true →
        let d := s.sweep
        (d.nextFrame o = none → exec (.outputService o) s = .next (s.after d)) ∧
        (∀ c x, d.nextFrame o = some (c, x) →
          let u := d.takeFrame o c x
          (32 < o ∨ o = 32 ∧ EthFrame.message x.frame = none → exec (.outputService o) s = .next (s.after u)) ∧
          (∀ typ f, o = 32 → EthFrame.message x.frame = some (typ, f) →
            exec (.outputService o) s = .next (s.after (u.message typ f))) ∧
          (o < 32 →
            let w := State.count { u with out := u.out ++ [.frame o (u.asSent o x)] } .swStat 1
            exec (.outputService o) s = .next (s.after (if w.mirEn && bit (w.hub .swMirOut) o && !x.copy then
              w.mirrorCopy (u.asSent o x) else w))))))

/-- A frame of a lossy class from an external input is discarded and counted at the thresholds of R440, a yellow
one at y_max apart. R438, R439: a lossless frame takes shared cells below xoff, headroom otherwise, and is
discarded and counted only when the headroom lacks cells; that it takes headroom also below xoff, where no
shared cells are free, is the model's choice (log 70). A frame of the device's own waits at its endpoint until
it fits. -/
def Obligations.AdmissionFollowsTheBuffer : Prop :=
  ∀ (s : State) (i o : Nat) (e : EthFrame) (yellow : Bool),
    let c := frameCls e
    let n := cellsOf e.len
    let q := s.hub .swQCfg o c
    let x : QItem := { input := i, cls := c, tenant := s.frameTenant i e, frame := e, cells := n, hdrm := false,
                       start := 0, finish := 0 }
    let fits : Prop := s.inTotal i c < s.xoff ∧ n ≤ s.sharedFree
    let admitted := (s.enqueue o x).afterEnqueue i c
    (i < 32 → s.lossless c = true → (fits → s.admitFrame i o e yellow = admitted) ∧
      (¬ fits → n ≤ s.hdrmFree →
        s.admitFrame i o e yellow = (s.enqueue o { x with hdrm := true }).afterEnqueue i c) ∧
      (¬ fits → s.hdrmFree < n → s.admitFrame i o e yellow = s.count .swStat 4)) ∧
    (i < 32 → s.lossless c = false →
      (bits q 53 36 ≤ s.outTotal o c ∨ s.sharedFree < n → s.admitFrame i o e yellow = s.count .swStat 3) ∧
      (s.outTotal o c < bits q 53 36 → n ≤ s.sharedFree → yellow = true → bits q 35 18 ≤ s.outTotal o c →
        s.admitFrame i o e yellow = s.count .swStat 9) ∧
      (s.outTotal o c < bits q 53 36 → n ≤ s.sharedFree → (yellow = true → s.outTotal o c < bits q 35 18) →
        s.admitFrame i o e yellow = admitted)) ∧
    (32 ≤ i →
      (fits → s.heldAt i c = [] → s.admitFrame i o e yellow = s.enqueue o x) ∧
      (¬ fits ∨ s.heldAt i c ≠ [] → s.admitFrame i o e yellow = s.setHeld i c (s.heldAt i c ++ [(o, e)])))

/-- R114, R438, R455: a pause is repeated while its input stays above xon, and counted as a frame sent; a
received pause is counted and holds its class for its quanta, and quanta 0 ends it. R443, R444: a write of
SW_FLOW_MATCH commits the staged rule in one step; a policer that is switched on starts with full buckets, and
any other write of its rate only caps them. -/
def Obligations.PausesAndSwitchWrites : Prop :=
  (∀ (s : State) (p : Nat) (c : BitVec 3), s.Ready →
     (∀ t, (s.sw.paused.find? (·.1 = 8 * p + c.toNat)) = some (8 * p + c.toNat, t) → 10000 ≤ s.now - t →
       s.xon < s.inTotal p c.toNat →
       let u := (State.count { s with out := s.out ++ [.pause p c.toNat 0xFFFF] } .swStat 1).count .swStat 8
       exec (.pfcPauseRepeat p c) s = .next { u with sw := { u.sw with
         paused := u.sw.paused.map fun x => if x.1 = 8 * p + c.toNat then (8 * p + c.toNat, s.now) else x } }) ∧
     (∀ n : BitVec 16, s.serving = true → s.linkUp p = true →
       let rest := s.sw.rxPause.filter (·.1 != 8 * p + c.toNat)
       let r := portRate (s.optical (p / 4)).mode
       let u := s.count .swStat 0
       exec (.pauseFrameReceive p c n) s = .next { u with sw := { u.sw with rxPause :=
         if n = 0 then rest else rest ++ [(8 * p + c.toNat, s.now + (64 * n.toNat + r - 1) / r)] } }) ∧
     exec (.pauseQuantaExpiry p c) s = .next { s with sw := { s.sw with
       rxPause := s.sw.rxPause.filter fun x => !(x.1 = 8 * p + c.toNat && x.2 ≤ s.now) } }) ∧
  (∀ (s : State) (v : Word), s.Ready →
     (∀ r : BitVec 8, s.reaches { reg := .swFlowMatch, i := r.toNat } = true →
       let m : RegAt := { reg := .swFlowMatch, i := r.toNat }
       let w := (((s.putAt m (storedWrite s m v)).putAt { reg := .swFlowEp, i := r.toNat } (s.flowStaged r.toNat).1).putAt
         { reg := .swFlowAct, i := r.toNat } (s.flowStaged r.toNat).2)
       exec (.swFlowCommit r v) s = .next { w with sw := { w.sw with
         flowStage := w.sw.flowStage.filter (·.1 != r.toNat) } }) ∧
     (∀ p, p < 1023 → s.reaches { reg := .swPolRate, i := p } = true →
       let a : RegAt := { reg := .swPolRate, i := p }
       let x := s.buckets p
       let t := (s.putAt a (storedWrite s a v)).setPolicer p x
       let b := t.hub .swPolBurst p
       let cbs := bits b 31 0 * 8000
       let pbs := max cbs (bits b 63 32 * 8000)
       let on := bit (s.hub .swPolRate p) 63
       let on' := bit (t.hub .swPolRate p) 63
       (on = false → on' = true →
         exec (.swPolRate p v) s = .next (t.setPolicer p { tc := cbs, tp := pbs, last := t.now })) ∧
       ((on = true ∨ on' = false) →
         exec (.swPolRate p v) s = .next (t.setPolicer p { x with tc := min cbs x.tc, tp := min pbs x.tp }))))

/-- R450, R452: a written enable of 0 drops a list that waits and leaves the one in operation, which runs on.
COMMIT with a list pending is UNSUPPORTED, with a list that is no list MALFORMED, and otherwise makes it pending
with its first start. A pending list starts at its time and becomes the one in force; its entries change at
theirs. -/
def Obligations.GatesComplete : Prop :=
  ∀ (s : State) (e : BitVec 3) (v : Word), s.Ready →
    let k := e.toNat
    let g := s.gates k
    let a : RegAt := { reg := .swGateCtl, i := k }
    (s.reaches a = true →
      let w := s.putAt a (storedWrite s a (putBits v 0 0 0))
      exec (.gateDisable e v) s = .next (w.setGates k fun g => { g with pending := false })) ∧
    (s.reaches a = true →
      let w := s.putAt a (storedWrite s a (putBits v 1 1 1))
      (bit v 0 = false → exec (.gateCommit e v) s = .next (w.setGates k fun g => { g with pending := false })) ∧
      (bit v 0 = true →
        let w := (w.gateEntry k).sweep
        let g := w.gates k
        let n := bits v 40 32
        let es := w.gateList k (!g.oper) n
        let bns := bits (w.hub .swGateBns k) 29 0
        let bad := n = 0 ∨ 256 < n ∨ (es.any fun x => x.2 = 0) = true ∨ 1000000000 ≤ bns
        (g.pending = true → exec (.gateCommit e v) s = .next (w.setGates k fun g => { g with lastStatus := stUnsupported })) ∧
        (g.pending = false → bad → exec (.gateCommit e v) s = .next (w.setGates k fun g => { g with lastStatus := stMalformed })) ∧
        (g.pending = false → ¬ bad → exec (.gateCommit e v) s = .next (w.setGates k fun x => { x with
          lastStatus := stOk, pending := true
          nextStart := firstStart (bits (w.hub .swGateBs k) 47 0 * 1000000000 + bns) (cycleOf es) (w.now + 1000)
          len0 := if g.oper then n else g.len0
          len1 := if g.oper then g.len1 else n })))) ∧
    (s.gateEn k = true → g.pending = true → g.nextStart ≤ s.now →
      exec (.gateListStart e) s = .next (s.setGates k fun g =>
        { g with oper := !g.oper, running := true, pending := false, start := g.nextStart, entry := 0 }).sweep) ∧
    (g.running = true → exec (.gateEntryChange e) s = .next (s.setGates k fun g =>
      { g with entry := (entryNow (s.operList k) g.start s.now).1 }))

/-- R456, R457, R463: a link that goes down loses its lanes, queues, pauses and neighbour; one that can come up
does. LLDP frames go to every linked port at the interval, with the Chassis ID, Port ID, TTL and information
TLVs. A received one with TTL 0 removes the neighbour, one without the device's information records only its
address and time, one with it records what it says. An expired neighbour is removed and, when it had an
identity, suspected. -/
def Obligations.LinksAndNeighbours : Prop :=
  ∀ (s : State) (p : BitVec 5), s.Ready →
    let k := p.toNat
    (s.linkUp k = true →
      let d := (s.setOptical (k / 4) fun x =>
        { x with link := x.link &&& ~~~(BitVec.ofNat 4 (2 ^ (k % 4))), lanesOk := x.lanesOk &&& ~~~(subLanes x.mode (k % 4)) }).flushPort k
      let t : State := { d with sw := { d.sw with rxPause := d.sw.rxPause.filter fun x => x.1 / 8 != k
                                                  paused := d.sw.paused.filter fun x => x.1 / 8 != k } }
      ((t.nbr k).valid = false → exec (.linkDown p) s = .next (s.after t)) ∧
      ((t.nbr k).valid = true → exec (.linkDown p) s = .next (s.after (t.setNbr k {})))) ∧
    (s.canLink k = true → s.boot.phase ≠ .reset → exec (.linkUp p) s = .next (s.setOptical (k / 4) fun x =>
      { x with link := x.link ||| BitVec.ofNat 4 (2 ^ (k % 4)), lanesOk := x.lanesOk ||| subLanes x.mode (k % 4) })) ∧
    (s.serving = true → bit (s.hub .fabHbCfg) 32 = true → s.lldpInt * 1000000 ≤ s.now - s.fab.lldpLast →
      let t : State := { s with fab := { s.fab with lldpLast := s.now } }
      exec .lldpSend s = .next (((List.range 32).filter s.linkUp).foldl (fun t q => t.admitFrame 32 q (t.lldpFrame q) false) t).sweep) ∧
    (∀ q, s.lldpTlvs q =
      [(1, 4 :: beBytes 6 (Config.portMac q).toNat), (2, 7 :: decText q), (3, beBytes 2 ((4 * s.lldpInt + 999) / 1000)),
       (127, beBytes 3 (bits (s.hub .fabHbCfg) 63 40) ++ [1] ++ leBytes 2 s.ownId ++
         [BitVec.ofNat 8 ((if s.idValid then 1 else 0) + 2 * s.fab.state.code), BitVec.ofNat 8 q] ++
         leBytes 4 s.fab.curEpoch.toNat ++ leBytes 8 s.unitId.toNat), (0, [])] ∧
      (s.lldpFrame q).body = .lldp (s.lldpTlvs q) ∧ (s.lldpFrame q).dstMac = 0x0180C200000E ∧
      (s.lldpFrame q).srcMac = Config.portMac q) ∧
    (∀ l : LldpFrame, s.serving = true → s.linkUp k = true →
      let s' := s.count .swStat 0
      (l.ttl = 0 → exec (.lldpReceive p l) s = .next (s.after (s'.setNbr k {}))) ∧
      (l.ttl ≠ 0 → l.info = none ∨ l.oui.toNat ≠ bits (s.hub .fabHbCfg) 63 40 ∨ l.subtype ≠ 1 →
        exec (.lldpReceive p l) s = .next (s.after
          (s'.setNbr k { valid := true, mac := l.srcMac, expires := s.now + l.ttl.toNat * 1000000000 }))) ∧
      (∀ b, l.ttl ≠ 0 → l.info = some b → l.oui.toNat = bits (s.hub .fabHbCfg) 63 40 → l.subtype = 1 →
        exec (.lldpReceive p l) s = .next (s.after (s'.setNbr k
          { valid := true, mac := l.srcMac, expires := s.now + l.ttl.toNat * 1000000000, crarid := true
            idValid := decide (field b 2 1 % 2 = 1), state := BitVec.ofNat 2 (field b 2 1 / 2)
            port := BitVec.ofNat 5 (field b 3 1), device := BitVec.ofNat 16 (field b 0 2)
            epoch := BitVec.ofNat 32 (field b 4 4), unit := BitVec.ofNat 64 (field b 8 8)
            conflict := decide (field b 2 1 % 2 = 1) && decide (field b 0 2 = s.ownId)
              && BitVec.ofNat 64 (field b 8 8) != s.unitId })))) ∧
    ((s.nbr k).valid = true → (s.nbr k).expires ≤ s.now →
      let t := s.setNbr k {}
      exec (.neighbourExpiry p) s = .next (s.after
        (if (s.nbr k).crarid && (s.nbr k).idValid && t.linkUp k then t.owe (.suspect (s.nbr k).device.toNat 3) else t)))

/-- R458, R464, R467, R470, R471, R472: JOIN makes an UNJOINED device that is a member in its table a MEMBER,
ISOLATE a member ISOLATED, RELEASE an isolated one UNJOINED with its table empty; each is UNSUPPORTED otherwise.
A change is staged or is QUOTA, and act 0 changes nothing. COMMIT applies the staged changes at a newer epoch,
ends what involves members that left, and isolates the device when it left itself; it is MALFORMED at an epoch
that is not newer or with a range whose ends are reversed. DISCARD empties the list, after the commit where both
are written. A written lease starts anew. -/
def Obligations.FabricOpsComplete : Prop :=
  ∀ (s : State) (v : Word), s.Ready →
    let ctl : RegAt := { reg := .fabCtl }
    let w (op : Nat) : State :=
      let t := s.putAt ctl (storedWrite s ctl (putBits v 36 35 op))
      if t.leaseTo = s.leaseTo then t else { t with fab := { t.fab with leaseFrom := t.now } }
    (s.reaches ctl = true →
      (let t := w 1
       (t.fab.state = .unjoined → t.idValid = true → (t.member t.ownId).kind = .member → exec (.fabJoin v) s =
         .next { t with fab := { t.fab with state := .member, ctlStatus := stOk, leaseFrom := t.now } }) ∧
       (¬ (t.fab.state = .unjoined ∧ t.idValid = true ∧ (t.member t.ownId).kind = .member) →
         exec (.fabJoin v) s = .next { t with fab := { t.fab with ctlStatus := stUnsupported } })) ∧
      (let t := w 2
       (s.fab.state = .member → exec (.fabIsolate v) s =
         .next (s.after (State.isolateNow { t with fab := { t.fab with ctlStatus := stOk } } 1))) ∧
       (s.fab.state ≠ .member → exec (.fabIsolate v) s =
         .next { t with fab := { t.fab with ctlStatus := stUnsupported } })) ∧
      (let t := w 3
       (s.fab.state = .isolated → exec (.fabRelease v) s = .next (State.clampEpochs { t with fab := { t.fab with
         state := .unjoined, ctlStatus := stOk, members := [], restEpoch := 0, curEpoch := 0 } })) ∧
       (s.fab.state ≠ .isolated → exec (.fabRelease v) s =
         .next { t with fab := { t.fab with ctlStatus := stUnsupported } }))) ∧
    (s.reaches { reg := .fabChg } = true → bits v 49 48 = 0 → exec (.fabChg v) s = .next s) ∧
    (s.reaches { reg := .fabChg } = true → bits v 49 48 ≠ 0 →
      (1024 ≤ s.fab.staged.length → exec (.fabChg v) s = .next { s with fab := { s.fab with epochStatus := stQuota } }) ∧
      (s.fab.staged.length < 1024 → exec (.fabChg v) s = .next { s with fab := { s.fab with
        staged := s.fab.staged ++ [(bits v 15 0, bits v 47 32, bits v 49 48)], epochStatus := stOk } })) ∧
    (s.reaches { reg := .fabCommit } = true →
      let ep := BitVec.ofNat 32 (bits v 31 0)
      let d := (ep - s.fab.curEpoch).toNat
      (s.fab.state = .isolated → bit v 33 = false →
        exec (.fabCommit v) s = .next { s with fab := { s.fab with epochStatus := stUnsupported } }) ∧
      (s.fab.state = .member → ¬ (1 ≤ d ∧ d < 2 ^ 30) → bit v 33 = false →
        exec (.fabCommit v) s = .next { s with fab := { s.fab with epochStatus := stMalformed } }) ∧
      (∀ r, r ∈ s.fab.staged → s.fab.state ≠ .isolated → r.2.1 < r.1 → bit v 33 = false →
        exec (.fabCommit v) s = .next { s with fab := { s.fab with epochStatus := stMalformed } }) ∧
      (s.fab.state ≠ .isolated → (s.fab.state = .member → 1 ≤ d ∧ d < 2 ^ 30) → bit v 33 = false →
        (∀ r ∈ s.fab.staged, r.1 ≤ r.2.1) →
        let t := s.fab.staged.foldl (fun s r => s.applyRange ep r) { s with fab := { s.fab with epochStatus := stOk } }
        let t := (State.count { t with fab := { t.fab with curEpoch := ep, staged := [] } } .fabStat 1).clampEpochs
        let left := ((s.fab.members.filter fun x => x.2.kind = .member).map (·.1)).filter fun x => (t.member x).kind != .member
        let t := left.foldl (fun s x => if x = s.ownId then s else s.memberLeaves x) t
        exec (.fabCommit v) s =
          .next (s.after (if (t.member t.ownId).kind != .member then t.isolateNow 3 else t))) ∧
      (bit v 33 = true → exec (.fabCommit v) s = .next (s.after
        { s.fabCommitAt ep with fab := { (s.fabCommitAt ep).fab with staged := [] } })) ∧
      (bit v 32 = true → exec (.fabDiscard v) s = .next (s.after
        { s.fabCommitAt ep with fab := { (s.fabCommitAt ep).fab with staged := [] } })) ∧
      (bit v 32 = false → exec (.fabDiscard v) s = .next { s with fab := { s.fab with staged := [] } })) ∧
    (s.reaches { reg := .fabLease } = true →
      exec (.fabLeaseRenew v) s = .next { s with fab := { s.fab with leaseFrom := s.now } })

/-- R472 to R474, R478, R479: a lease that runs out isolates the member. A heartbeat is sent at its interval and
counted; a suspicion ends with its window. A Sync makes time step forward by an offset at or beyond the
threshold, slew back otherwise, and follow the rate within it, whose correction is a free value within 100 ppm;
a Delay_Req follows at most sixteen times a second; a message that is not the master's changes nothing but a
counter; a step of time raises its event; a Delay_Resp sets the delay; silence ends tracking. -/
def Obligations.FabricTimersComplete : Prop :=
  ∀ (s : State), s.Ready →
    (s.fab.state = .member → s.leaseTo ≠ 0 → s.leaseTo ≤ s.now - s.fab.leaseFrom →
      exec .leaseExpiry s = .next (s.after (s.isolateNow 4))) ∧
    (∀ t, bits (s.hub .fabHbCfg) 15 0 ≠ 0 → s.idValid = true → bits (s.hub .fabHbCfg) 15 0 * 100000 ≤ s.now - s.fab.hbLast →
      s.fabReport 1 0 0 = some t →
      exec .heartbeat s = .next (s.after (State.count { t with fab := { t.fab with hbLast := t.now } } .fabStat 2))) ∧
    (∀ d : BitVec 16, exec (.suspicionExpiry d) s = .next { s with fab := { s.fab with
      suspects := s.fab.suspects.filter fun x => !(x.1 = d.toNat && s.susWin ≤ s.now - x.2) } }) ∧
    (∀ p : PtpSync,
      let c := s.ptpSeen p.port
      let v := s.fab.servo
      let taken : Prop := s.serving = true ∧ s.ptpEn = true ∧ p.port = s.ptpPort ∧
        p.domain.toNat = bits (s.hub .fabPtpCfg) 63 56 ∧ p.mapping.toNat = s.ptpMapping ∧ s.linkUp p.port = true ∧
        (∀ x, v.source = some x → x = p.source ∨ 3000000000 ≤ s.now - v.lastSync)
      let o : Int := (p.arrival : Int) - p.origin - v.delay
      let thr : Nat := bits (s.hub .fabPtpCfg) 31 0
      let noted (u : State) (stepBy : Nat) : State :=
        let recent := v.reqTimes.filter fun t => u.now - t < 1000000000
        let n : State := u.setServo fun v => { v with tracking := true, offset := o, source := some p.source, lastSync := u.now }
        if recent.length < 16 then
          let n : State := n.setServo fun v => { v with
            reqSeq := some p.seqId, transit := (p.arrival : Int) + stepBy - p.origin, reqTimes := recent ++ [u.now] }
          State.count { n with out := n.out ++ [.delayReq p.port p.seqId] } .swStat 1
        else n.setServo fun v => { v with reqTimes := recent }
      (¬ taken → exec (.ptpSync p) s = .next c) ∧
      (taken → (thr : Int) ≤ -o → exec (.ptpSync p) s = .next (s.after (noted
        ((c.setServo fun v => { v with slewLeft := 0 }).timeStep (-o).toNat) (-o).toNat))) ∧
      (taken → -o < (thr : Int) → (thr : Int) ≤ o → exec (.ptpSync p) s = .next (s.after
        (noted (c.setServo fun v => { v with slewLeft := 2 * (o - thr).toNat + 1 }) 0))) ∧
      (taken → -o < (thr : Int) → o < (thr : Int) → exec (.ptpSync p) s = .next (s.after (noted (c.draw.1.setServo fun v =>
        { v with slewLeft := 0, ppm := max (-100) (min 100 (Config.ratePpm c.draw.2)) }) 0)))) ∧
    (∀ (t : State) (n : Nat), t.timeStep n =
      ((State.event { t with now := t.now + n } 9 (leBytes 8 n)).count .fabStat 7).realign) ∧
    (∀ port source seqId sent received,
      let c := s.ptpSeen port
      let mine : Prop := s.serving = true ∧ s.ptpEn = true ∧ port = s.ptpPort ∧
        s.fab.servo.source = some source ∧ s.fab.servo.reqSeq = some seqId
      (mine → exec (.ptpDelayResp port source seqId sent received) s = .next (c.setServo fun v => { v with
        delay := (s.fab.servo.transit + ((received : Int) - sent)) / 2, reqSeq := none })) ∧
      (¬ mine → exec (.ptpDelayResp port source seqId sent received) s = .next c)) ∧
    (s.fab.servo.tracking = true → 3000000000 ≤ s.now - s.fab.servo.lastSync →
      exec .ptpSyncSilence s = .next (s.setServo fun v => { v with tracking := false, source := none, reqSeq := none }))

/-! ### Errors, boot, management and power (15 to 18) -/

/-- R485, R487, R500: a scrub read meets what it finds in the sector and turns to the next; an acknowledgement
removes the oldest records and moves the head; injection, when enabled, makes the sector that the address names
correctable or uncorrectable, and does nothing when not enabled, for another kind, or where no ACTIVE extent of
tier 0 holds the address. -/
def Obligations.ScrubLogAndInjectionComplete : Prop :=
  ∀ (s : State), s.Ready →
    (∀ (k : BitVec 4) (n : Nat) (found : BitVec 2), s.boot.phase = .running → s.scrubH ≠ 0 → s.stackDead k.toNat = false →
      exec (.scrubRead k n found) s =
        .next (s.after ((s.scrubMeet (k.toNat * 2 ^ 30 + n % 2 ^ 30) found.toNat).scrubTurn k.toNat))) ∧
    (∀ v, s.reaches { reg := .hubErrLogAck } = true →
      let n := min (bits v 10 0) s.err.log.length
      exec (.hubErrLogAck v) s =
        .next { s with err := { s.err with log := s.err.log.drop n, head := (s.err.head + n) % 1024 } }) ∧
    (∀ v, s.reaches { reg := .hubErrInj } = true →
      let off := bits v 46 6 * 64
      (bit (s.hub .hubErrCfg) 40 = false → exec (.hubErrInj v) s = .next s) ∧
      (∀ n a, bit (s.hub .hubErrCfg) 40 = true → s.findExt off = some n → s.extTier n = 0 →
        s.locOf n (off - s.extOff n) = .hbm a →
        (bits v 63 62 = 1 → exec (.hubErrInj v) s =
          .next { s with mem := { s.mem with flawed := sinsert (a / 64) s.mem.flawed } }) ∧
        (bits v 63 62 = 2 → exec (.hubErrInj v) s =
          .next { s with mem := { s.mem with broken := sinsert (a / 64) s.mem.broken } }) ∧
        (bits v 63 62 ≠ 1 → bits v 63 62 ≠ 2 → exec (.hubErrInj v) s = .next s)) ∧
      (s.findExt off = none → exec (.hubErrInj v) s = .next s) ∧
      (∀ n, s.findExt off = some n → s.extTier n ≠ 0 → exec (.hubErrInj v) s = .next s))

/-- R488, R490, R495, R496, R497: a stack whose training does not return is FAILED, a quadrant without heartbeat
is FAILED. The Starter restarts on its watchdog, and a second expiry within a second, or a failed restart, stops
the device. A microcode watchdog kills and reloads its unit, a second one within a second fails the quadrant;
the flash die's and the DSPs' do likewise to theirs. -/
def Obligations.FailuresComplete : Prop :=
  ∀ (s : State), s.Ready →
    (∀ k : BitVec 4, exec (.stackTrainingLoss k true) s = .next s ∧
      (s.boot.phase = .running → exec (.stackTrainingLoss k false) s = .next (s.after (s.setStack k.toNat .failed)))) ∧
    (∀ q : BitVec 2, s.boot.phase = .running →
      exec (.quadrantHeartbeatLoss q) s = .next (s.after (s.setQuad q.toNat .failed))) ∧
    (∀ ok, s.boot.phase = .running →
      ((ok = false ∨ ∃ t, s.err.starterLast = some t ∧ s.now - t < 1000000000) →
        exec (.starterWatchdogExpiry ok) s = .next (s.after (s.deviceStop { type := 10, severity := 2, die := 0 }))) ∧
      (ok = true → (∀ t, s.err.starterLast = some t → 1000000000 ≤ s.now - t) →
        exec (.starterWatchdogExpiry ok) s =
          .next (s.after (State.starterRestart { s with err := { s.err with starterLast := some s.now } })))) ∧
    exec .starterRestartDone s = .next { s with err := { s.err with restarting := false } } ∧
    (∀ (q : BitVec 2) (unit : BitVec 3), s.boot.phase = .running → s.quadDead q.toNat = false → 1 ≤ unit.toNat → unit.toNat ≤ 5 →
      (s.unit unit.toNat q.toNat).state ≠ .disabled →
      let recent := s.err.ucodeTimes.filter fun x => s.now - x.2 < 1000000000
      let t : State := { s with err := { s.err with ucodeTimes := recent ++ [(8 * q.toNat + unit.toNat, s.now)] } }
      let u := t.setUnit unit.toNat q.toNat fun x => { x with reload := true }
      ((recent.any (·.1 = 8 * q.toNat + unit.toNat)) = true →
        exec (.microcodeWatchdogExpiry q unit) s = .next (s.after (t.setQuad q.toNat .failed))) ∧
      ((recent.any (·.1 = 8 * q.toNat + unit.toNat)) = false → s.unitCmds unit.toNat q.toNat ≠ [] →
        exec (.microcodeWatchdogExpiry q unit) s = .next (s.after (u.startKill unit.toNat q.toNat))) ∧
      ((recent.any (·.1 = 8 * q.toNat + unit.toNat)) = false → s.unitCmds unit.toNat q.toNat = [] →
        exec (.microcodeWatchdogExpiry q unit) s = .next (s.after
          ((u.setUnit unit.toNat q.toNat fun x => { x with state := .killing }).engDisabled unit.toNat q.toNat)))) ∧
    (s.flash.state = .ready ∨ s.flash.state = .starting →
      let t : State := { s with flash := { s.flash with wdLast := some s.now } }
      ((∃ w, s.flash.wdLast = some w ∧ s.now - w < 1000000000) → exec .flashWatchdogExpiry s = .next (s.after t.failFlash)) ∧
      ((∀ w, s.flash.wdLast = some w → 1000000000 ≤ s.now - w) →
        exec .flashWatchdogExpiry s = .next (s.after (t.flash.syncs.foldl (fun s x => s.owe (.eng x.1))
          { t with flash := { t.flash with state := .starting } })))) ∧
    (∀ p : BitVec 1, s.photHealth p.toNat ≠ .failed → s.pwr.dspLoaded.getLsbD p.toNat = true →
      let recent := (s.err.dspTimes.filter fun x => s.now - x.2 < 3600 * 1000000000) ++ [(p.toNat, s.now)]
      let t := State.photLost { s with err := { s.err with dspTimes := recent } } p.toNat
      exec (.dspWatchdogExpiry p) s = .next (s.after
        (if 3 ≤ recent.countP (·.1 = p.toNat) then t.setPhot p.toNat .failed else t.setPhot p.toNat .degraded)))

/-- R520, R522, R523, R527: a queued request is answered with the report and its signature, an opaque function
of it, and counted. STAGE begins to verify the image, ACTIVATE writes the boot record for a trial, CONFIRM ends
the trial, CANCEL takes the activation back; each in another state is UNSUPPORTED. Verification ends in a
failure or in the writing of the slot, and the writing in STAGED, or in a failure whose status is a free value. -/
def Obligations.UpdateAndAttestationComplete : Prop :=
  ∀ (s : State) (v : Word), s.Ready →
    (∀ id rest c o what nonce, s.attests = id :: rest → s.findCmd id = some c → c.src = .msg o → c.body = .attest what nonce →
      exec .attestSigned s = .next (s.after (((s.dropCmd id).sendCpl o stOk (s.report nonce
        ++ edSign idSecret (asciiBytes "MZ1600-ATT") (digest64 (s.report nonce)))).count .secStat 0))) ∧
    (s.reaches { reg := .secUpdCtl } = true →
      let w (op : Nat) : State :=
        s.putAt { reg := .secUpdCtl } (storedWrite s { reg := .secUpdCtl } (putBits v 36 34 op))
      let no (op : Nat) : State := { w op with boot := { s.boot with updStatus := stUnsupported } }
      ((s.boot.updState = .idle ∨ s.boot.updState = .staged) → s.boot.trial = false → exec (.secUpdStage v) s =
        .next (s.after ((State.setUpd { w 1 with boot := { s.boot with progress := 0 } } .verifying stOk).updReads))) ∧
      (¬ ((s.boot.updState = .idle ∨ s.boot.updState = .staged) ∧ s.boot.trial = false) →
        exec (.secUpdStage v) s = .next (no 1)) ∧
      (s.boot.updState = .staged → exec (.secUpdActivate v) s =
        .next (s.after (((w 2).writeRec (w 2).target true (w 2).trialTries).setUpd .activated stOk))) ∧
      (s.boot.updState ≠ .staged → exec (.secUpdActivate v) s = .next (no 2)) ∧
      (s.boot.trial = true →
        let t := (w 3).writeRec s.boot.slot false 0
        exec (.secUpdConfirm v) s = .next { t with boot := { t.boot with trial := false, updStatus := stOk } }) ∧
      (s.boot.trial = false → exec (.secUpdConfirm v) s = .next (no 3)) ∧
      (s.boot.updState = .activated → exec (.secUpdCancel v) s =
        .next (s.after (((w 4).writeRec s.boot.slot false 0).setUpd .staged stOk))) ∧
      (s.boot.updState ≠ .activated → exec (.secUpdCancel v) s = .next (no 4))) ∧
    (s.boot.updState = .verifying → s.updComplete = true →
      let st := imageCheck (slice s.boot.updImage) s.boot.idOk s.unitId
      ∀ ok, exec (.secUpdWriteDone ok) s = .next (s.after (if st = stOk then (State.setUpd
        { s with boot := { s.boot with updDigest := digest64 s.boot.updImage } } .writing stOk).eraseTarget.updReads
        else s.updFails st))) ∧
    (s.boot.updState = .writing → s.updComplete = true → digest64 s.boot.updImage = s.boot.updDigest →
      let t := s.norWrite (slotBase s.target) s.boot.updImage
      exec (.secUpdWriteDone true) s = .next (s.after ((State.setUpd { t with boot := { t.boot with
        progress := 100, updImage := [], updLen := 0, updDigest := [] } } .staged stOk).count .secStat 1))) ∧
    (s.boot.updState = .writing → ∀ ok, ¬ (ok = true ∧ s.updComplete = false) →
      ¬ (ok = true ∧ digest64 s.boot.updImage = s.boot.updDigest) →
      exec (.secUpdWriteDone ok) s = .next (s.after
        (s.draw.1.eraseTarget.updFails (BitVec.ofNat 8 ((Config.norStatus s.draw.2).val + 1)))))

/-- R523, R527: while an operation runs, each further one is RETRY. WRITE of the next chunk starts its NOR
write, of another is MALFORMED; COMMIT starts the check of the slot; RESET schedules a device reset. An
operation that fails ends with a status that is a free value. A WRITE that ends has its chunk in NOR; a COMMIT
that ends has made the slot the boot slot when its check passes. -/
def Obligations.RecoveryCommandsComplete : Prop :=
  ∀ (s : State) (v : Word), s.Ready → s.reaches { reg := .secRecCtl } = true →
    let w (op : Nat) : State :=
      s.putAt { reg := .secRecCtl } (storedWrite s { reg := .secRecCtl } (putBits v 36 34 op))
    let slot := bit v 32
    let chunk := bits v 12 0
    let next := if slot = s.boot.recSlot then s.boot.recNext else 0
    (s.boot.recBusy ≠ none →
      exec (.secRecWrite v) s = .next { s with boot := { s.boot with recStatus := stRetry } } ∧
      exec (.secRecCommit v) s = .next { s with boot := { s.boot with recStatus := stRetry } } ∧
      exec (.secRecReset v) s = .next { s with boot := { s.boot with recStatus := stRetry } }) ∧
    (s.boot.recBusy = none →
      (chunk = next → exec (.secRecWrite v) s = .next { w 1 with boot := { s.boot with
        recBusy := some (1, slot, chunk, (w 1).recChunk) } }) ∧
      (chunk ≠ next → exec (.secRecWrite v) s = .next { w 1 with boot := { s.boot with recStatus := stMalformed } }) ∧
      exec (.secRecCommit v) s = .next { w 2 with boot := { s.boot with recBusy := some (2, slot, 0, []) } } ∧
      exec (.secRecReset v) s = .next { w 3 with pwr := { s.pwr with resetAt := some (s.now + 10000) } }) ∧
    (∀ b k d, s.boot.recBusy = some (1, b, k, d) →
      let t := State.norWrite { s with boot := { s.boot with recBusy := none } } (slotBase b + k * 4096) d
      exec (.secRecOpDone true) s = .next { t with boot := { t.boot with recNext := k + 1, recSlot := b, recStatus := stOk } }) ∧
    (∀ b k d, s.boot.recBusy = some (2, b, k, d) →
      let t : State := { s with boot := { s.boot with recBusy := none } }
      let st := t.slotCheck b
      let u := if st = stOk then t.writeRec b false 0 else t
      exec (.secRecOpDone true) s = .next { u with boot := { u.boot with recNext := 0, recStatus := st } }) ∧
    (∀ x, s.boot.recBusy = some x →
      let d := State.draw { s with boot := { s.boot with recBusy := none } }
      exec (.secRecOpDone false) s = .next { d.1 with boot := { d.1.boot with
        recStatus := BitVec.ofNat 8 ((Config.norStatus d.2).val + 1) } }) ∧
    (∀ ok, s.boot.recBusy = none → exec (.secRecOpDone ok) s = .next s)

/-- R14, R539, R544, R561, R566, R573, R580: a write to an address with no register does nothing, one that
reaches a register does that register's write. HUB_LOCK applies its fields and sets dev_lock; a pop removes the
oldest event where no event session is on; HUB_PWR_CFG commands the regulator; PH_PORT_CFG takes its engine's
ports down when it changes; HUB_RST_CTL schedules a device reset. -/
def Obligations.RegisterRowsComplete : Prop :=
  ∀ (s : State) (v : Word), s.Ready →
    (∀ off : BitVec 32, (s.regHere off.toNat = none → exec (.regWrite off v) s = .next s) ∧
      (∀ a, s.regHere off.toNat = some a → s.reaches a = true →
        exec (.regWrite off v) s = .next (s.after (s.regWrite a v)))) ∧
    (s.reaches { reg := .hubLock } = true → exec (.hubLock v) s =
      .next (s.putAt { reg := .hubLock } (storedWrite s { reg := .hubLock } (putBits v 0 0 1)))) ∧
    (s.reaches { reg := .hubEvtPop } = true →
      (s.evtEn = false → s.mgt.queue ≠ [] → exec (.hubEvtPop v) s =
        .next (State.count { s with mgt := { s.mgt with queue := s.mgt.queue.drop 1 } } .hubEvtStat 1)) ∧
      (s.evtEn = true ∨ s.mgt.queue = [] → exec (.hubEvtPop v) s = .next s)) ∧
    (s.reaches { reg := .hubPwrCfg } = true → ∀ ok,
      let w := s.putAt { reg := .hubPwrCfg } (storedWrite s { reg := .hubPwrCfg } v)
      exec (.pwrCfgWrite v ok) s = .next (w.avsWrite (if s.pwr.throttled then w.thrMv else w.opMv) ok)) ∧
    (∀ (p : BitVec 1) (k : BitVec 2),
      let a : RegAt := { reg := .phPortCfg, inst := p.toNat, i := k.toNat }
      let w := s.putAt a (storedWrite s a v)
      let e := 4 * p.toNat + k.toNat
      s.reaches a = true →
      (w.at a = s.at a → exec (.phPortCfg p k v) s = .next w) ∧
      (w.at a ≠ s.at a → exec (.phPortCfg p k v) s = .next (s.after ((w.opticalDown e).setOptical e fun x =>
        { x with mode := BitVec.ofNat 2 (if bits (w.at a) 2 1 = 3 then 0 else bits (w.at a) 2 1) })))) ∧
    (s.reaches { reg := .hubRstCtl } = true → exec (.hubRstCtl v) s =
      .next { s with pwr := { s.pwr with resetAt := some (s.now + 10000) } })

/-- R535, R537, R545: an SMBus read answers its status and the register's value, a write does the register's
write or only records its status, a status read answers the last status, and the alert response answers the
device's address while it asserts its alert. -/
def Obligations.SmbusComplete : Prop :=
  ∀ (s : State) (off : BitVec 32) (v : Word), s.due = [] → s.pwr.pwrgd = true →
    (∀ n pec code, let c := s.smbCheck false n 4 off.toNat pec code
      let x : Word := match c.2 with | some a => s.regRead a | none => 0
      exec (.smbRead n off pec code) s =
        .next (s.after (State.smbDone { s with out := s.out ++ [Out.smb ([9, c.1] ++ leBytes 8 x.toNat)] } c.1))) ∧
    (∀ n pec code, let c := s.smbCheck true n 12 off.toNat pec code
      (∀ st, c = (st, none) → exec (.smbWrite n off v pec code) s =
        .next (s.after (State.smbDone { s with mgt := { s.mgt with smbStatus := st } } st))) ∧
      (∀ a, c = (stOk, some a) →
        let t := s.regWrite a v
        exec (.smbWrite n off v pec code) s = .next (s.after { t with mgt := { t.mgt with smbStatus := stOk } }))) ∧
    exec .smbStatusRead s = .next { s with out := s.out ++ [Out.smb [s.mgt.smbStatus]] } ∧
    (s.alerting = true → exec .smbAlertResponse s =
      .next { s with out := s.out ++ [Out.smb [BitVec.ofNat 8 (2 * (0x48 + s.pwr.smbAddr.toNat))]] })

/-- R561, R564, R565, R568, R571: the throttle evaluation records what the sensors report and throttles when a
limit is reached, and ends throttling after 10 ms below every limit by its hysteresis; regulator reads and
retries record or count; a temperature at or above its trip point stops the device, a lower one does nothing; a
lost clock is counted and takes its unit down; a supply below its minimum releases the outputs; JTAG takes the
instruction and answers IDCODE. -/
def Obligations.PowerEventsComplete : Prop :=
  ∀ (s : State), s.due = [] →
    (∀ x : Sensors, s.err.stopped = false → s.boot.phase ≠ .reset →
      let die := x.die.zipIdx.map fun t => report (s.dieFailed t.2) t.1
      let stk := x.stk.zipIdx.map fun t => report (s.stackHealth t.2 = .failed) t.1
      let hot (lim : Nat) (ts : List Nat) : Bool := ts.any fun t => t != 0xFF && lim ≤ t
      let trig : BitVec 3 := (if hot s.throtTj die then 1 else 0) ||| (if hot s.hbmTmax stk then 2 else 0)
        ||| (if s.pCoreMax < x.coreW then 4 else 0)
      let m : State := { s with pwr := { s.pwr with dieTemp := die, stkTemp := stk, coreW := x.coreW, trig := trig } }
      (s.pwr.throttled = false → trig = 0 → exec (.throttleEval x) s = .next m) ∧
      (s.pwr.throttled = false → trig ≠ 0 →
        let w := m.avsWrite m.thrMv true
        exec (.throttleEval x) s = .next (s.after (State.count (State.event
          { w with pwr := { w.pwr with throttled := true, throtSince := s.now, clearSince := none } }
          1 ([1, 0] ++ leBytes 2 s.thrMv)) .hubPwrStat 0))) ∧
      (s.pwr.throttled = true →
        let cool := !hot (s.throtTj - s.hyst + 1) die && !hot (s.hbmTmax - s.hyst + 1) stk
          && decide (x.coreW * 100 < 95 * s.pCoreMax)
        let c := m.countThrottled
        (cool = false → exec (.throttleEval x) s = .next { c with pwr := { c.pwr with clearSince := none } }) ∧
        (cool = true → s.pwr.clearSince = none →
          exec (.throttleEval x) s = .next { c with pwr := { c.pwr with clearSince := some s.now } }) ∧
        (∀ t, cool = true → s.pwr.clearSince = some t → s.now - t < 10000000 → exec (.throttleEval x) s = .next c) ∧
        (∀ t, cool = true → s.pwr.clearSince = some t → 10000000 ≤ s.now - t →
          let w := c.avsWrite s.opMv true
          exec (.throttleEval x) s = .next (s.after (State.event
            { w with pwr := { w.pwr with throttled := false, clearSince := none } } 1 ([0, 0] ++ leBytes 2 s.opMv)))))) ∧
    (∀ mv amps, exec (.avsRead true mv amps) s = .next { s with pwr := { s.pwr with measMv := mv, coreA := amps } } ∧
      exec (.avsRead false mv amps) s = .next (s.count .hubPwrStat 2)) ∧
    (∀ mv, s.pwr.avsPending = some mv → s.err.stopped = false →
      exec (.avsWriteRetry true) s =
        .next { s with out := s.out ++ [.avs mv], pwr := { s.pwr with reqMv := mv, avsPending := none } } ∧
      exec (.avsWriteRetry false) s =
        .next (State.count { s with pwr := { s.pwr with avsPending := some mv } } .hubPwrStat 2)) ∧
    (∀ ok, s.pwr.avsPending = none → exec (.avsWriteRetry ok) s = .next s) ∧
    (∀ stack i temp, s.pwr.pwrgd = true → s.boot.phase ≠ .reset → (if stack then 110 else 125) ≤ temp →
      i < (if stack then 16 else 8) →
      exec (.thermalTrip stack i temp) s = .next (s.after (State.stopFor
        { s with pwr := { s.pwr with tripped := true, thermtrip := true } } (if stack then i / 4 + 1 else i)))) ∧
    (∀ stack i temp, s.pwr.pwrgd = true → s.boot.phase = .reset → (if stack then 110 else 125) ≤ temp →
      i < (if stack then 16 else 8) →
      exec (.thermalTrip stack i temp) s = .next { s with pwr := { s.pwr with thermtrip := true } }) ∧
    (∀ stack i temp, temp < (if stack then 110 else 125) → exec (.thermalTrip stack i temp) s = .next s) ∧
    (∀ i : BitVec 3, i.toNat < 7 → s.pwr.clkAbsent.getLsbD i.toNat = false →
      let b : BitVec 7 := BitVec.ofNat 7 (2 ^ i.toNat)
      let t := State.count { s with pwr := { s.pwr with clkAbsent := s.pwr.clkAbsent ||| b, clkSeen := s.pwr.clkSeen ||| b } }
        .hubPwrStat 3
      exec (.refclkLoss i) s = .next (s.after (if i = 0 then t.stopFor 0
        else if i.toNat ≤ 2 then t.photLost (i.toNat - 1)
        else (List.range 4).foldl (fun s k => s.trainingLoss (4 * (i.toNat - 3) + k) false) t))) ∧
    (∀ i : BitVec 3, exec (.refclkReturn i) s =
      .next { s with pwr := { s.pwr with clkAbsent := s.pwr.clkAbsent &&& ~~~(BitVec.ofNat 7 (2 ^ i.toNat)) } }) ∧
    (∀ i : BitVec 3, let t := (List.range 8).foldl State.opticalDown s
      exec (.supplyBelowMin i) s = .next (s.after { t with pwr := { t.pwr with
        released := true, thermtrip := t.pwr.thermtrip && i.toNat != 7 } })) ∧
    (∀ ir, let r : TapIr := match ir with | .other n => if s.devLock then .bypass else .other n | x => x
      let t : State := { s with pwr := { s.pwr with tapIr := r } }
      exec (.jtagInstruction ir) s = .next (if r = .idcode then { t with out := t.out ++ [.jtag 0x11600C2F] } else t))

/-- R514, R559, R560, R574, R580, R581: PERST low for 50 ns resets, below 20 ns does nothing, and between them
the command says which; its release starts the device with the straps and what the start finds; the end of the
start links the ports. PWRGD's fall resets, its rise clears HUB_ERR_FATAL; core undervoltage resets; a register
reset resets and starts. A connector is seated or takes its ports down. -/
def Obligations.StartAndResetsComplete : Prop :=
  ∀ (s : State), s.due = [] →
    (∀ ns resets, (50 ≤ ns ∨ 20 ≤ ns ∧ resets = true) → exec (.perstFall ns resets) s = .next (s.after
      { s.deviceReset with pwr := { s.deviceReset.pwr with perst := false } })) ∧
    (∀ ns resets, ns < 20 ∨ ns < 50 ∧ resets = false → exec (.perstFall ns resets) s = .next s) ∧
    (∀ smb recovery nor ident nand, s.boot.phase ≠ .reset ∨ s.pwr.pwrgd = false →
      exec (.perstRise smb recovery nor ident nand) s = .next s) ∧
    (∀ smb recovery nor ident nand, s.boot.phase = .reset → s.pwr.pwrgd = true →
      exec (.perstRise smb recovery nor ident nand) s = .next (s.after (State.startDevice { s with
        pwr := { s.pwr with perst := true, smbAddr := smb, recovery := recovery }
        boot := { s.boot with norOk := nor, idOk := ident }
        flash := { s.flash with pop := some nand } }))) ∧
    (∀ links, s.boot.phase = .starting → s.err.stopped = false →
      exec (.startComplete links) s = .next (s.after ((List.range 32).foldl (fun s p =>
        if links.getLsbD p then (s.setOptical (p / 4) fun x => { x with conn := true }).portUp p else s)
        { s with boot := { s.boot with phase := .running } }))) ∧
    (s.pwr.pwrgd = true → let t := if s.pwr.perst then s.deviceReset else s
      exec .pwrgdFall s = .next (s.after { t with pwr := { t.pwr with pwrgd := false, perst := false } })) ∧
    (s.pwr.pwrgd = false → exec .pwrgdRise s =
      .next { s with err := { s.err with fatal := none }, pwr := { s.pwr with pwrgd := true } }) ∧
    (∀ mv, (mv < 570 → s.pwr.pwrgd = true → s.pwr.perst = true → exec (.coreUndervolt mv) s = .next (s.after
        { s.deviceReset with pwr := { s.deviceReset.pwr with perst := false } })) ∧
      (570 ≤ mv → exec (.coreUndervolt mv) s = .next s)) ∧
    (∀ t, s.pwr.resetAt = some t → t ≤ s.now →
      exec .deviceResetRegister s = .next (s.after s.deviceReset.startDevice)) ∧
    (s.pwr.resetAt = none → exec .deviceResetRegister s = .next s) ∧
    (∀ e : BitVec 3, exec (.connectorSeated e) s = .next (s.setOptical e.toNat fun x => { x with conn := true }) ∧
      exec (.connectorUnseated e) s =
        .next (s.after ((s.opticalDown e.toNat).setOptical e.toNat fun x => { x with conn := false })))

/-- A row that stands for the end of a time or of a piece of work acts when that end has come: a timer that has
not run out, a wait whose end is not there, a session, Lane, extent, region, stream, unit or link in another
state, and a row of the running device in another phase change nothing (the rows carry no moment of their own:
that an early row changes nothing is the model's choice, log entry 2). R526, R534: a command that writes a
register changes nothing where the register's block has failed or, in the Starting block, is not served. -/
def Obligations.RowsThatMayNotActDoNothing : Prop :=
  (∀ (s : State), s.Ready →
     let idle (c : Instr) : Prop := exec c s = .next s
     (∀ n c, (∀ t, (s.rxOf n c).ackDue = some t → s.now - t < s.ackDelay ∨ (s.sess n).state ≠ .open ∧ (s.sess n).state ≠ .closing) →
       idle (.ackDelayExpiry n c)) ∧
     (∀ n c, (∀ t, (s.txOf n c).armed = some t → (s.txOf n c).unacked = [] ∨ s.now - t < (s.txOf n c).rto) →
       idle (.retxTimerExpiry n c)) ∧
     (∀ n, ((s.sess n).state = .opening → s.now - (s.sess n).since < s.rtoMax) → idle (.openingTimeout n)) ∧
     (∀ n, (s.sessCmds n (s.sess n).inc ≠ [] ∨ (s.sess n).state ≠ .closing ∧ (s.sess n).state ≠ .failed ∨
       (s.sess n).state = .closing ∧ ((s.sess n).tx.all fun t => t.2.unacked.isEmpty && t.2.waiting.isEmpty) = false) →
       idle (.sessionDrained n)) ∧
     (∀ id c o, s.findCmd id = some c → c.src = .msg o →
       (∀ upto, c.body = .fence upto → s.sessLive o.sess o.inc = true → s.fenceDone id o upto = false → idle (.fenceComplete id)) ∧
       (∀ ids, c.body = .drain ids → (s.cmds.any fun c => ids.contains c.id) = true → idle (.drainComplete id)) ∧
       (∀ a, c.body = .held a → s.signalWaits o = true → idle (.orderedSignalRelease id))) ∧
     (∀ tag t r, (s.xp.reqs.find? (·.1 = tag)) = some (t, r) →
       (∀ l i, r.kind = .recall l i → s.now - r.since < s.recallTo (s.entry l).domain → idle (.recallTimeout tag)) ∧
       (∀ c p b, r.kind = .fwd c p b → s.now - r.since < s.borrowTo → idle (.borrowTimeout tag)) ∧
       (∀ id e, r.kind = .hdlPeer id → s.eng id = some e → (e.op = 5 ∧ field e.body 28 4 = 0 ∨
         s.now - r.since < field e.body 28 4 * 1000 + s.borrowTo) → idle (.hdlPeerTimeout tag))) ∧
     (∀ d : BitVec 8, (s.domState d.toNat ≠ .failing ∨ (s.cmds.any fun c => c.ctx != 0 && (s.slotIn d.toNat c.ctx).isSome) = true ∨
       (s.dir.entries.any fun x => x.2.domain = d.toNat) = true) → idle (.domainEnterDown d)) ∧
     (∀ l, (s.busy l = true ∨ s.dir.parked.find? (·.1 = l) = none) → idle (.parkedRequestStart l)) ∧
     (∀ id, s.acc id = none → idle (.deviceRetryBackoff id) ∧ idle (.flashStageSpace id) ∧ idle (.tier1Timeout id)) ∧
     (∀ e : BitVec 12, (s.extState e.toNat ≠ .filling → idle (.extFillDone e)) ∧
       (s.extState e.toNat ≠ .revoking ∨ s.extInFlight e.toNat ≠ 0 → idle (.extentDrained e))) ∧
     (∀ r : BitVec 16, ((s.region r.toNat).state ≠ .declaring → idle (.vrDeclareRecallsDone r)) ∧
       (∀ p, (s.region r.toNat).state ≠ .ready ∧ (s.region r.toNat).state ≠ .folding ∨ s.foldable r.toNat p = none → idle (.vrFold r p)) ∧
       ((s.region r.toNat).state ≠ .folding ∨ (s.vr.pages.any fun g => g.region = r.toNat) = true → idle (.vrFoldingDone r))) ∧
     (∀ ok, s.flash.state ≠ .starting → s.flash.state ≠ .ready ∨ ok = true → idle (.flsStartingDone ok)) ∧
     (s.flash.state ≠ .ready → idle .flashProgramDone ∧ (∀ c, idle (.flashWearLevel c) ∧ ∀ b, idle (.flashGc c b)) ∧
       ∀ p a b, idle (.flashRefresh p a b)) ∧
     (∀ (q : BitVec 2) (k : BitVec 3),
       let x := s.stream q.toNat k.toNat
       (x.state ≠ .running ∨ x.head + x.lead ≤ x.nextFetch ∨ s.maxInflight q.toNat ≤ x.inflight.length ∨ x.beyond x.nextFetch = true →
         idle (.paceFetch q k)) ∧
       (∀ t, x.state ≠ .running ∧ x.state ≠ .draining ∨ x.inflight.contains (t, 0) = false → idle (.tileStaged q k t)) ∧
       ((x.state = .draining → x.inflight ≠ [] ∨ x.beyond x.head = false) →
         (x.state = .ending → (x.inflight.all fun e => e.2 = 0) = false) → idle (.paceStreamIdle q k))) ∧
     (∀ id e, s.eng id = some e → (∀ t, (e.prog?.bind fun p => p.waitSince) = some t → s.now - t < s.lateTo e.quad) →
       idle (.paceLateTimeout id)) ∧
     (∀ (q : BitVec 2) (k : BitVec 4) (row : BitVec 2 → BitVec 4 → Instr) (op : Nat),
       (row, op) ∈ [(Instr.teLoad, 1), (Instr.teMatmul, 2), (Instr.teAttend, 3), (Instr.teNorm, 4), (Instr.teAcc, 5), (Instr.teStore, 6)] →
       s.nextEntry q.toNat k.toNat op = none → idle (row q k)) ∧
     (∀ l : BitVec 8, ((s.lane l.toNat).state ≠ .offered ∨ (s.lane l.toNat).offerOk = false ∨
         (s.lane l.toNat).imageBytes ≤ (s.lane l.toNat).sent → idle (.batonDataSend l)) ∧
       (s.now - (s.lane l.toNat).since < s.batonTo → idle (.batonToExpiry l))) ∧
     (∀ q : BitVec 2, s.threads q.toNat ≤ s.threadsBusy q.toNat ∨ s.threadless q.toNat = [] → idle (.seThreadFree q)) ∧
     (∀ id e, s.eng id = some e → (e.unit ≠ 4 ∨ e.started = false ∨ e.relay = false ∨ s.now - e.since < s.relayTo e.grp) →
       idle (.relayTimeout id)) ∧
     (∀ id h, s.heat id = some h → s.now - h.since < s.relayTo h.group → idle (.heldPartTimeout id)) ∧
     (∀ id w, (s.hdl.watches.find? fun w => w.to_ = .cmd id) = some w → w.timeout = 0 ∨ s.now - w.since < w.timeout →
       idle (.watchTimeout id)) ∧
     (∀ (u : BitVec 3) (q : BitVec 2),
       let x := s.unit u.toNat q.toNat
       (x.state ≠ .quiescing ∨ s.now - x.since < s.quiesceTo u.toNat q.toNat → idle (.quiesceToExpiry u q)) ∧
       (x.state ≠ .quiescing ∧ x.state ≠ .killing ∨ s.unitCmds u.toNat q.toNat ≠ [] → idle (.engDisabled u q))) ∧
     (∀ p (c : BitVec 3), s.sw.paused.find? (·.1 = 8 * p + c.toNat) = none → idle (.pfcPauseRepeat p c)) ∧
     (∀ e : BitVec 3, (s.gateEn e.toNat = false ∨ (s.gates e.toNat).pending = false ∨ s.now < (s.gates e.toNat).nextStart →
         idle (.gateListStart e)) ∧ ((s.gates e.toNat).running = false → idle (.gateEntryChange e))) ∧
     (∀ p : BitVec 5, (s.linkUp p.toNat = false → idle (.linkDown p)) ∧ (s.canLink p.toNat = false → idle (.linkUp p)) ∧
       ((s.nbr p.toNat).valid = false ∨ s.now < (s.nbr p.toNat).expires → idle (.neighbourExpiry p)) ∧
       (∀ f, s.serving = false ∨ s.linkUp p.toNat = false → idle (.lldpReceive p f))) ∧
     (s.serving = false ∨ bit (s.hub .fabHbCfg) 32 = false ∨ s.now - s.fab.lldpLast < s.lldpInt * 1000000 → idle .lldpSend) ∧
     (s.fab.state ≠ .member ∨ s.leaseTo = 0 ∨ s.now - s.fab.leaseFrom < s.leaseTo → idle .leaseExpiry) ∧
     (bits (s.hub .fabHbCfg) 15 0 = 0 ∨ s.idValid = false ∨ s.now - s.fab.hbLast < bits (s.hub .fabHbCfg) 15 0 * 100000 →
       idle .heartbeat) ∧
     (s.fab.servo.tracking = false ∨ s.now - s.fab.servo.lastSync < 3000000000 → idle .ptpSyncSilence) ∧
     (s.boot.phase ≠ .running → (∀ k n f, idle (.scrubRead k n f)) ∧ (∀ k, idle (.stackTrainingLoss k false)) ∧
       (∀ q, idle (.quadrantHeartbeatLoss q)) ∧ (∀ ok, idle (.starterWatchdogExpiry ok)) ∧ ∀ q u, idle (.microcodeWatchdogExpiry q u)) ∧
     (s.flash.state ≠ .ready → s.flash.state ≠ .starting → idle .flashWatchdogExpiry) ∧
     (∀ p : BitVec 1, s.photHealth p.toNat = .failed ∨ s.pwr.dspLoaded.getLsbD p.toNat = false → idle (.dspWatchdogExpiry p)) ∧
     (s.attests = [] → idle .attestSigned) ∧
     (s.evtEn = false ∨ (s.sess s.evtSess).state ≠ .open → idle .eventSend) ∧
     (∀ x, s.boot.phase = .reset → idle (.throttleEval x)) ∧
     (∀ links, s.boot.phase ≠ .starting → idle (.startComplete links)) ∧
     (∀ t, s.pwr.resetAt = some t → s.now < t → idle .deviceResetRegister) ∧
     (s.pwr.pwrgd = true → idle .pwrgdRise) ∧
     (s.pwr.pwrgd = false → idle .pwrgdFall ∧ idle .smbStatusRead ∧ idle .smbAlertResponse ∧ (∀ mv, idle (.coreUndervolt mv)) ∧
       (∀ n off a b, idle (.smbRead n off a b)) ∧ ∀ n off v a b, idle (.smbWrite n off v a b))) ∧
  (∀ (s : State) (c : Instr) (a : RegAt) (v : Word) (n : Nat) (q k : BitVec 2) (g : BitVec 3) (h : BitVec 4) (r : BitVec 8)
       (e : BitVec 12) (w : BitVec 16) (p : BitVec 1) (u : BitVec 3) (ok : Bool), s.Ready → s.reaches a = false →
     (c, a) ∈ [(Instr.sessAbort n v, ({ reg := .hubSessCtl, i := n } : RegAt)), (.segAttrCommit e h v, { reg := .hubSegAttr, i := e.toNat, j := h.toNat }),
       (.extActivate e v, { reg := .hubExtCtl, i := e.toNat }), (.extRevoke e v, { reg := .hubExtCtl, i := e.toNat }),
       (.extRelease e v, { reg := .hubExtCtl, i := e.toNat }), (.hubRcInval v, { reg := .hubRcInval }),
       (.dirDomUp r v, { reg := .dirDomCfg, i := r.toNat }), (.dirDomDown r v, { reg := .dirDomCfg, i := r.toNat }),
       (.dirDomClear r v, { reg := .dirDomCfg, i := r.toNat }), (.dirPeekAddr q v, { reg := .dirPeekAddr, inst := q.toNat }),
       (.vrDeclare w v, { reg := .vrRegCtl, i := w.toNat }), (.vrUndeclare w v, { reg := .vrRegCtl, i := w.toNat }),
       (.vrPoolAttach q k v, { reg := .vrPool, inst := q.toNat, i := k.toNat }), (.flsStart v, { reg := .flsCfg }),
       (.sqLaneDrop r, { reg := .sqLaneCtl, inst := r.toNat / 64, i := r.toNat % 64 }),
       (.seCfgScratch q v, { reg := .seCfg, inst := q.toNat }), (.guCfgBuffer q v, { reg := .guCfg, inst := q.toNat }),
       (.qdCtxSaveArea q v, { reg := .qdCtxCfg, inst := q.toNat }), (.engQuiesce u q v, engCtl u.toNat q.toNat),
       (.engKill u q v, engCtl u.toNat q.toNat), (.engEnable u q v, engCtl u.toNat q.toNat)] ++
       [(.swFlowCommit r v, { reg := .swFlowMatch, i := r.toNat }), (.swPolRate n v, { reg := .swPolRate, i := n }),
       (.gateCommit g v, { reg := .swGateCtl, i := g.toNat }), (.gateDisable g v, { reg := .swGateCtl, i := g.toNat }),
       (.fabJoin v, { reg := .fabCtl }), (.fabIsolate v, { reg := .fabCtl }), (.fabRelease v, { reg := .fabCtl }),
       (.fabChg v, { reg := .fabChg }), (.fabCommit v, { reg := .fabCommit }), (.fabDiscard v, { reg := .fabCommit }),
       (.fabLeaseRenew v, { reg := .fabLease }), (.hubErrLogAck v, { reg := .hubErrLogAck }), (.hubErrInj v, { reg := .hubErrInj }),
       (.secUpdStage v, { reg := .secUpdCtl }), (.secUpdActivate v, { reg := .secUpdCtl }), (.secUpdConfirm v, { reg := .secUpdCtl }),
       (.secUpdCancel v, { reg := .secUpdCtl }), (.secRecWrite v, { reg := .secRecCtl }), (.secRecCommit v, { reg := .secRecCtl }),
       (.secRecReset v, { reg := .secRecCtl }), (.hubLock v, { reg := .hubLock }), (.hubEvtPop v, { reg := .hubEvtPop }),
       (.pwrCfgWrite v ok, { reg := .hubPwrCfg }), (.phPortCfg p k v, { reg := .phPortCfg, inst := p.toNat, i := k.toNat }),
       (.hubRstCtl v, { reg := .hubRstCtl })] →
     exec c s = .next s)

/-! ### The machine as a whole -/

/-- R437 to R441: from every state whose buffer fits (the headroom pool holds no more than it has, the shared
part no more than the rest of the 196,608 cells, every frame its own number of cells), each row by which frames
and pauses enter, wait in and leave the switch leaves a buffer that fits, and so do the hub's taking of a frame
and its sending of one. -/
def Obligations.SwitchBufferNeverOverflows : Prop :=
  (∀ (c : Instr) (s t : State), switchEvent c = true → s.due = [] → s.BufferFits → exec c s = .next t → t.BufferFits) ∧
  (∀ (s : State), s.BufferFits → (s.serveOutput 32).1.BufferFits) ∧
  (∀ (s : State) (e : EthFrame), s.BufferFits → (s.launch e).BufferFits)

/-- R495: from every state of a device that has stopped, each step but one that takes a row that resets the
device leaves it stopped, with its memory, caches, commands, sessions, directory, regions, flash, Lanes, units
and Hurdles as they were, and what leaves it leaves over SMBus or its test port only. That an empty queue lets
time pass is the model's choice, log 1. -/
def Obligations.StoppedDeviceStaysStopped : Prop :=
  ∀ (s t : State), s.Halted → (∀ c cs, s.pending = c :: cs → resetsDevice c = false) → step s = .next t →
    t.Halted ∧ t.pending = s.pending.tail ∧ t.mem = s.mem ∧ t.cache = s.cache ∧ t.cmds = s.cmds ∧ t.xp = s.xp ∧
    t.dir = s.dir ∧ t.vr = s.vr ∧ t.flash = s.flash ∧ t.lanes = s.lanes ∧ t.units = s.units ∧ t.hdl = s.hdl ∧
    ∃ o, t.out = s.out ++ o ∧ ∀ x ∈ o, besidePorts x = true

/-- R433 to R451: each row by which frames and pauses enter, wait in and leave the switch leaves every register,
all of memory, every cache, session, command, domain, region, Lane, unit and Hurdle, the fabric, time and power
as they were; only the switch's own state, counters, what leaves the device, events and error records may
differ. R91, R103, R104: an RVT_ACK, an RVT_NAK, an acknowledgement's timer and the end of a drained session
leave all but the transport so: only sessions, streams and requests, counters, frames sent, and the grants and
event records that an acknowledgement ends may differ. -/
def Obligations.RowsLeaveTheRest : Prop :=
  ((∀ (c : Instr) (s t : State), switchEvent c = true → s.due = [] → exec c s = .next t → s.OnlySwitch t) ∧
   (∀ (s : State), s.OnlySwitch (s.serveOutput 32).1) ∧
   (∀ (s : State) (e : EthFrame), s.OnlySwitch (s.launch e))) ∧
  (∀ (c : Instr) (s t : State), transportEvent c = true → s.due = [] → exec c s = .next t →
     ∃ g, s.OnlyTransport g ∧ t = s.after g)

/-- R486, R160: after a write, memory keeps its canonical form, every byte outside it is as before, the bytes
read back where no sector is bad, a sector it covers whole is not marked, a sector outside it keeps its mark or
its lack of one, and one it covers in part keeps the mark it had. -/
def Obligations.HbmReadsWhatWasWritten : Prop :=
  ∀ (s : State) (a off : Nat) (bs : List Byte), s.mem.wf = true → bs ≠ [] →
    let t := s.writeHbm a bs off
    t.mem.wf = true ∧
    (∀ x, (x < a ∨ a + bs.length ≤ x) → t.mem.byte x = s.mem.byte x) ∧
    ((∀ sc ∈ sectorsOf a bs.length, t.sectorBad sc = false) → t.hbmBytes a bs.length = bs) ∧
    (∀ sc ∈ sectorsOf a bs.length, a ≤ sc * 64 → sc * 64 + 64 ≤ a + bs.length → t.mem.poison.contains sc = false) ∧
    (∀ sc, sc * 64 + 64 ≤ a ∨ a + bs.length ≤ sc * 64 → (s.mem.poison.contains sc = t.mem.poison.contains sc)) ∧
    (∀ sc, (sc * 64 < a ∨ a + bs.length < sc * 64 + 64) → s.mem.poison.contains sc = true → t.mem.poison.contains sc = true)

/-- R14, R539: each bit of the written register that is RW, or RWL while dev_lock is clear, takes the written
bit, every other keeps its own; every other register reads as before, and nothing else of the state changes. -/
def Obligations.RegisterFieldsByAccessType : Prop :=
  ∀ (s : State) (a : RegAt) (v : Word), tsorted 0 s.cfg = true →
    let t := s.plainWrite a v
    (∀ i, i < 64 → (t.at a).getLsbD i =
      if a.reg.desc.rw.getLsbD i || (a.reg.desc.rwl.getLsbD i && !s.devLock) then v.getLsbD i else (s.at a).getLsbD i) ∧
    (∀ b : RegAt, b.off ≠ a.off → t.at b = s.at b) ∧ t = { s with cfg := t.cfg } ∧ tsorted 0 t.cfg = true

/-- R19: counting n on counter k of an array adds n modulo 2^64; passing 2^64 sets that counter's wrap flag,
which no counting clears; no other counter or flag changes. The flags' register is W1C: a write clears exactly
the flags of counters written 1, and every counter of an array has its flag. -/
def Obligations.CountersWrap : Prop :=
  (∀ (s : State) (r : Reg) (k n inst : Nat), tsorted 0 s.stat = true → k < 64 →
    let o := RegAt.off { reg := r, inst := inst, i := k }
    let w := RegAt.off { reg := wrapReg r, inst := inst }
    let t := s.count r k n inst
    o ≠ w → (tget 0 t.stat o).toNat = ((tget 0 s.stat o).toNat + n) % 2 ^ 64 ∧
      (tget 0 t.stat w).getLsbD k = ((tget 0 s.stat w).getLsbD k || decide (2 ^ 64 ≤ (tget 0 s.stat o).toNat + n)) ∧
      (∀ j, j ≠ k → (tget 0 t.stat w).getLsbD j = (tget 0 s.stat w).getLsbD j) ∧
      ∀ x, x ≠ o → x ≠ w → tget 0 t.stat x = tget 0 s.stat x) ∧
  (∀ (s : State) (r : Reg) (inst : Nat) (v : Word), wrapReg r ≠ r → tsorted 0 s.stat = true →
    let a : RegAt := { reg := wrapReg r, inst := inst }
    let t := s.regWrite a v
    t = { s with stat := t.stat } ∧
    (∀ i, i < (r.desc.dims.map (·.1)).sum → (tget 0 t.stat a.off).getLsbD i = ((tget 0 s.stat a.off).getLsbD i && !v.getLsbD i)) ∧
    ∀ x, x ≠ a.off → tget 0 t.stat x = tget 0 s.stat x)

/-- R500, R540, R542: an event takes the next seq, its record joins a queue of fewer than 256 records and is
lost otherwise with ovf, and its type's alert bit is set. The log never holds more than 1,024 records: a new one
joins it; when it is full, one of severity 0 that merges with none is dropped, and a graver one removes the
oldest of severity 0, or the oldest and sets ovf when none stands. One of severity 0 that merges joins the
record it merges with; one of severity 1 or 2 raises an ERROR event. -/
def Obligations.EventsAndRecords : Prop :=
  (∀ (s : State) (ty : Nat) (b : List Byte),
    let t := s.event ty b
    t.mgt.nextSeq = s.mgt.nextSeq + 1 ∧
    (s.mgt.queue.length < 256 → t.mgt.queue =
      s.mgt.queue ++ [{ type := BitVec.ofNat 8 ty, seq := s.mgt.nextSeq, time := s.now, body := evtBody b }]) ∧
    (256 ≤ s.mgt.queue.length → t.mgt.queue = s.mgt.queue ∧ t.mgt.alert.getLsbD 12 = true) ∧
    (1 ≤ ty → ty ≤ 13 → t.mgt.alert.getLsbD (ty - 1) = true)) ∧
  (∀ (s : State) (r : ErrRec), s.err.log.length ≤ 1024 →
    let t := s.errRecord r
    t.err.log.length ≤ 1024 ∧
    (s.err.log.length < 1024 → r.severity ≠ 0 → t.err.log = s.err.log ++ [{ r with time := s.now }]) ∧
    (s.err.log.length = 1024 → r.severity = 0 → mergeRec s.now { r with time := s.now } s.err.log = none →
      t.err.log = s.err.log) ∧
    (∀ l, r.severity = 0 → mergeRec s.now { r with time := s.now } s.err.log = some l → t.err.log = l ∧ t.mgt = s.mgt) ∧
    (s.err.log.length < 1024 → r.severity = 0 → mergeRec s.now { r with time := s.now } s.err.log = none →
      t.err.log = s.err.log ++ [{ r with time := s.now }]) ∧
    (s.err.log.length = 1024 → r.severity ≠ 0 → (∃ x ∈ s.err.log, x.severity = 0) →
      t.err.log = dropFirst (fun x => x.severity = 0) s.err.log ++ [{ r with time := s.now }]) ∧
    (s.err.log.length = 1024 → r.severity ≠ 0 → (∀ x ∈ s.err.log, x.severity ≠ 0) →
      t.err.log = s.err.log.drop 1 ++ [{ r with time := s.now }] ∧ t.err.ovf = true) ∧
    (r.severity ≠ 0 → t.mgt = (s.event 10 (ErrRec.bytes { r with time := s.now })).mgt))

/-- Right after reset nothing is due, waiting or stopped, the switch's buffer fits and is empty, memory lists
nothing and is canonical, and every register's stored fields hold its reset value, among them the reset values
of the spec's register tables spelt out here as whole words. That an unlisted byte of HBM reads zero is the
model's choice, log 3. -/
def Obligations.ResetLeaves : Prop :=
  State.reset.due = [] ∧ State.reset.pending = [] ∧ State.reset.err.stopped = false ∧ State.reset.BufferFits ∧
  State.reset.mem.wf = true ∧ State.reset.mem.hbm = [] ∧ State.reset.cmds = [] ∧
  (∀ n, (State.reset.sess n).state = .closed) ∧ (∀ e, State.reset.extState e = .free) ∧
  (∀ d, State.reset.domState d = .idle) ∧ (∀ l, (State.reset.lane l).state = .free) ∧
  (∀ a : RegAt, State.reset.at a = a.reg.desc.reset) ∧
  (∀ x ∈ [(Reg.hubRvtCfg, 0x3000035a71), (.hubRvtTimer, 0x14703e80140), (.fabHbCfg, 0x103e80064), (.fabSusCfg, 0xa003203e8),
      (.swPfcThr, 0x80000000600), (.hubAlertMask, 0x1280), (.hubPwrCfg, 0x6a45f6952a802ee), (.teCfg, 0x640001),
      (.sqCfg, 0xc8000003e8), (.hubErrCfg, 0x1810002710), (.secUpdCtl, 0x60000000)],
    (State.reset.at { reg := x.1 }).toNat = x.2)
end

