-- ==== Sys2Proof/Laws/Bits.lean ====
section
/-! SUPPORT. Reading a bit range after a write of one, byte order there and back, and the order of serial
numbers. -/

namespace Sys2Proof.Machine

/-- A word is what stands above, in and below a bit range. -/
theorem word_split (w hi lo : Nat) (h : lo ≤ hi + 1) :
    w = w / 2 ^ (hi + 1) * 2 ^ (hi + 1) + (w / 2 ^ lo % 2 ^ (hi + 1 - lo) * 2 ^ lo + w % 2 ^ lo) := by
  have e : 2 ^ (hi + 1) = 2 ^ lo * 2 ^ (hi + 1 - lo) := by rw [← Nat.pow_add]; congr 1; omega
  have a := Nat.div_add_mod w (2 ^ lo)
  have b := Nat.div_add_mod (w / 2 ^ lo) (2 ^ (hi + 1 - lo))
  rw [Nat.div_div_eq_div_mul, ← e] at b
  calc w = 2 ^ lo * (w / 2 ^ lo) + w % 2 ^ lo := a.symm
    _ = 2 ^ lo * (2 ^ (hi + 1 - lo) * (w / 2 ^ (hi + 1)) + w / 2 ^ lo % 2 ^ (hi + 1 - lo)) + w % 2 ^ lo := by rw [b]
    _ = _ := by rw [e]; ring

/-- The number a word has after a bit range is written. -/
theorem putBits_toNat (w : Word) (hi lo x : Nat) (h : hi < 64) (hl : lo ≤ hi) :
    (putBits w hi lo x).toNat = w.toNat / 2 ^ (hi + 1) * 2 ^ (hi + 1)
      + (x % 2 ^ (hi + 1 - lo) * 2 ^ lo + w.toNat % 2 ^ lo) := by
  have s := word_split w.toNat hi lo (by omega)
  have e : 2 ^ (hi + 1) = 2 ^ (hi + 1 - lo) * 2 ^ lo := by rw [← Nat.pow_add]; congr 1; omega
  have hx : x % 2 ^ (hi + 1 - lo) < 2 ^ (hi + 1 - lo) := Nat.mod_lt _ (Nat.two_pow_pos _)
  have hr : w.toNat % 2 ^ lo < 2 ^ lo := Nat.mod_lt _ (Nat.two_pow_pos _)
  have small : x % 2 ^ (hi + 1 - lo) * 2 ^ lo + w.toNat % 2 ^ lo < 2 ^ (hi + 1) := by
    rw [e]; calc _ < x % 2 ^ (hi + 1 - lo) * 2 ^ lo + 2 ^ lo := by omega
      _ = (x % 2 ^ (hi + 1 - lo) + 1) * 2 ^ lo := by ring
      _ ≤ _ := Nat.mul_le_mul_right _ hx
  have top : w.toNat / 2 ^ (hi + 1) * 2 ^ (hi + 1) + 2 ^ (hi + 1) ≤ 2 ^ 64 := by
    have : w.toNat / 2 ^ (hi + 1) < 2 ^ (64 - (hi + 1)) := by
      rw [Nat.div_lt_iff_lt_mul (Nat.two_pow_pos _), ← Nat.pow_add]
      rw [show 64 - (hi + 1) + (hi + 1) = 64 by omega]; exact w.isLt
    calc _ = (w.toNat / 2 ^ (hi + 1) + 1) * 2 ^ (hi + 1) := by ring
      _ ≤ 2 ^ (64 - (hi + 1)) * 2 ^ (hi + 1) := Nat.mul_le_mul_right _ this
      _ = 2 ^ 64 := by rw [← Nat.pow_add]; congr 1; omega
  have fits : w.toNat - bits w hi lo * 2 ^ lo + x % 2 ^ (hi + 1 - lo) * 2 ^ lo
      = w.toNat / 2 ^ (hi + 1) * 2 ^ (hi + 1) + (x % 2 ^ (hi + 1 - lo) * 2 ^ lo + w.toNat % 2 ^ lo) := by
    unfold bits; omega
  unfold putBits
  rw [fits, BitVec.toNat_ofNat, Nat.mod_eq_of_lt (by omega)]

/-- A bit range reads as it was written. -/
@[simp] theorem bits_putBits (w : Word) (hi lo x : Nat) (h : hi < 64) (hl : lo ≤ hi) :
    bits (putBits w hi lo x) hi lo = x % 2 ^ (hi + 1 - lo) := by
  have hr : w.toNat % 2 ^ lo < 2 ^ lo := Nat.mod_lt _ (Nat.two_pow_pos _)
  have e : 2 ^ (hi + 1) = 2 ^ (hi + 1 - lo) * 2 ^ lo := by rw [← Nat.pow_add]; congr 1; omega
  unfold bits
  rw [putBits_toNat w hi lo x h hl]
  have : w.toNat / 2 ^ (hi + 1) * 2 ^ (hi + 1) + (x % 2 ^ (hi + 1 - lo) * 2 ^ lo + w.toNat % 2 ^ lo)
      = w.toNat % 2 ^ lo + 2 ^ lo * (x % 2 ^ (hi + 1 - lo) + 2 ^ (hi + 1 - lo) * (w.toNat / 2 ^ (hi + 1))) := by
    conv_lhs => rw [show w.toNat / 2 ^ (hi + 1) * 2 ^ (hi + 1) = w.toNat / 2 ^ (hi + 1) * (2 ^ (hi + 1 - lo) * 2 ^ lo) by rw [← e]]
    ring
  rw [this, Nat.add_mul_div_left _ _ (Nat.two_pow_pos _), Nat.div_eq_of_lt hr, Nat.zero_add, Nat.add_mul_mod_self_left,
    Nat.mod_mod]

/-- The value of n bytes of a number (R7). -/
theorem leNat_leBytes (n v : Nat) : leNat (leBytes n v) = v % 256 ^ n := by
  induction n generalizing v with
  | zero => simp [leBytes, leNat, Nat.mod_one]
  | succ n ih =>
    simp only [leBytes, leNat, ih, BitVec.toNat_ofNat]
    rw [show 256 ^ (n + 1) = 256 * 256 ^ n by ring, Nat.mod_mul]

@[simp] theorem leBytes_length (n v : Nat) : (leBytes n v).length = n := by
  induction n generalizing v with
  | zero => rfl
  | succ n ih => simp [leBytes, ih]

end Sys2Proof.Machine
end

