-- ==== Sys2Proof/Laws/Settle.lean ====
section
/-! SUPPORT. What a step does around a command's effect, and the ways to work off what is due. -/

namespace Sys2Proof.Machine

theorem State.settleGo_succ (n : Nat) (s : State) : State.settleGo (n + 1) s =
    match s.due with
    | [] => s
    | d :: ds => State.settleGo n (State.handle { s with due := ds } d) := rfl

/-- With nothing due nothing is worked off. -/
theorem State.settleGo_nil (n : Nat) {s : State} (h : s.due = []) : State.settleGo n s = s := by
  cases n with
  | zero => rfl
  | succ n => rw [State.settleGo_succ, h]

/-- One consequence is worked off. -/
theorem State.settleGo_cons (n : Nat) {s : State} {d : Due} {ds : List Due} (h : s.due = d :: ds) :
    State.settleGo (n + 1) s = State.settleGo n (State.handle { s with due := ds } d) := by
  rw [State.settleGo_succ, h]

theorem State.settled_of_nil {s : State} (h : s.due = []) : s.settled = s := State.settleGo_nil _ h

theorem State.Ready.settled {s : State} (h : s.Ready) : s.settled = s := State.settled_of_nil h.due

@[simp] theorem State.after_pending (s t : State) : (s.after t).pending = s.pending := rfl

/-- An effect that leaves nothing due is the whole of its command. -/
theorem State.after_of_nil {s t : State} (h : t.due = []) : s.after t = { t with pending := s.pending } := by
  unfold State.after; rw [State.settled_of_nil h]

theorem State.after_eq {s t : State} (h : t.due = []) (hp : t.pending = s.pending) : s.after t = t := by
  rw [State.after_of_nil h, ← hp]

theorem State.act_eq {s : State} (h : s.due = []) (f : State → State) : s.act f = .next (s.after (f s)) := by
  unfold State.act; rw [State.settled_of_nil h]; rfl

/-- Every command answers a next state, and leaves the queue of commands alone. -/
theorem State.act_next (s : State) (f : State → State) : s.act f = .next (s.after (f s.settled)) := rfl

/-- A device that works performs the command. -/
theorem State.perform_eq {s : State} (h : s.err.stopped = false) (f : State → State) :
    s.perform f = .next (s.after (f s.settled)) := by
  unfold State.perform; rw [h]; rfl

/-- A stopped device accepts nothing (R495). -/
theorem State.perform_stopped {s : State} (h : s.err.stopped = true) (f : State → State) : s.perform f = .next s := by
  unfold State.perform; rw [h]; rfl

/-- Either way the answer is a next state. -/
theorem State.perform_next (s : State) (f : State → State) :
    s.perform f = .next (if s.err.stopped then s else s.after (f s.settled)) := by
  unfold State.perform; split <;> rfl

theorem State.Ready.perform {s : State} (h : s.Ready) (f : State → State) : s.perform f = .next (s.after (f s)) := by
  rw [State.perform_eq h.runs, h.settled]

end Sys2Proof.Machine
end

