-- ==== Sys2Proof/Laws/Dispatch.lean ====
section
/-! SUPPORT. The form that every command's meaning has. -/

namespace Sys2Proof.Machine

/-- Every command is performed by a device that works, or acts on a stopped one as well. -/
theorem exec_form (c : Instr) :
    (∃ f, ∀ s, exec c s = s.perform f) ∨ (actsStopped c = true ∧ ∃ f, ∀ s, exec c s = s.act f) := by
  cases c
  case smbRead count off pecOk codeOk => exact .inr ⟨rfl, fun s => s.smbRead count off.toNat pecOk codeOk, fun _ => rfl⟩
  case smbWrite count off v pecOk codeOk => exact .inr ⟨rfl, fun s => s.smbWrite count off.toNat v pecOk codeOk, fun _ => rfl⟩
  case smbStatusRead => exact .inr ⟨rfl, fun s => s.smbStatusRead, fun _ => rfl⟩
  case smbAlertResponse => exact .inr ⟨rfl, fun s => s.smbAlertResponse, fun _ => rfl⟩
  case avsRead ok mv amps => exact .inr ⟨rfl, fun s => s.avsRead ok mv amps, fun _ => rfl⟩
  case avsWriteRetry ok => exact .inr ⟨rfl, fun s => s.avsRetry ok, fun _ => rfl⟩
  case thermalTrip stack i temp => exact .inr ⟨rfl, fun s => s.thermalTrip stack i temp, fun _ => rfl⟩
  case refclkLoss i => exact .inr ⟨rfl, fun s => s.clockLost i.toNat, fun _ => rfl⟩
  case refclkReturn i => exact .inr ⟨rfl, fun s => s.clockBack i.toNat, fun _ => rfl⟩
  case connectorUnseated e => exact .inr ⟨rfl, fun s => s.unseat e.toNat, fun _ => rfl⟩
  case connectorSeated e => exact .inr ⟨rfl, fun s => s.seat e.toNat, fun _ => rfl⟩
  case perstFall lowNs resets => exact .inr ⟨rfl, fun s => s.perstFall lowNs resets, fun _ => rfl⟩
  case perstRise smbAddr recovery norOk idOk nand => exact .inr ⟨rfl, fun s => s.perstRise smbAddr recovery norOk idOk nand, fun _ => rfl⟩
  case startComplete linksUp => exact .inr ⟨rfl, fun s => s.startComplete linksUp, fun _ => rfl⟩
  case pwrgdFall => exact .inr ⟨rfl, fun s => s.pwrgdFall, fun _ => rfl⟩
  case pwrgdRise => exact .inr ⟨rfl, fun s => s.pwrgdRise, fun _ => rfl⟩
  case coreUndervolt mv => exact .inr ⟨rfl, fun s => s.coreUndervolt mv, fun _ => rfl⟩
  case supplyBelowMin supply => exact .inr ⟨rfl, fun s => s.supplyLow supply.toNat, fun _ => rfl⟩
  case jtagInstruction ir => exact .inr ⟨rfl, fun s => s.tap ir, fun _ => rfl⟩
  case deviceResetRegister => exact .inr ⟨rfl, fun s => s.registerReset, fun _ => rfl⟩
  all_goals exact .inl ⟨_, fun _ => rfl⟩

end Sys2Proof.Machine
end

