-- ==== Sys2Proof/Laws/State.lean ====
section
/-! SUPPORT. What each setter of one part of the state leaves alone: one lemma per field, true by `rfl`.
Counters, events and records have theirs beside. -/

namespace Sys2Proof.Machine

variable (s : State)

/-! ### putAt -/
@[simp] theorem State.putAt_pending (a : RegAt) (w : Word) : (s.putAt a w).pending = s.pending := rfl
@[simp] theorem State.putAt_out (a : RegAt) (w : Word) : (s.putAt a w).out = s.out := rfl
@[simp] theorem State.putAt_free (a : RegAt) (w : Word) : (s.putAt a w).free = s.free := rfl
@[simp] theorem State.putAt_nextId (a : RegAt) (w : Word) : (s.putAt a w).nextId = s.nextId := rfl
@[simp] theorem State.putAt_now (a : RegAt) (w : Word) : (s.putAt a w).now = s.now := rfl
@[simp] theorem State.putAt_frac (a : RegAt) (w : Word) : (s.putAt a w).frac = s.frac := rfl
@[simp] theorem State.putAt_stat (a : RegAt) (w : Word) : (s.putAt a w).stat = s.stat := rfl
@[simp] theorem State.putAt_xp (a : RegAt) (w : Word) : (s.putAt a w).xp = s.xp := rfl
@[simp] theorem State.putAt_cmds (a : RegAt) (w : Word) : (s.putAt a w).cmds = s.cmds := rfl
@[simp] theorem State.putAt_mem (a : RegAt) (w : Word) : (s.putAt a w).mem = s.mem := rfl
@[simp] theorem State.putAt_cache (a : RegAt) (w : Word) : (s.putAt a w).cache = s.cache := rfl
@[simp] theorem State.putAt_ext (a : RegAt) (w : Word) : (s.putAt a w).ext = s.ext := rfl
@[simp] theorem State.putAt_dir (a : RegAt) (w : Word) : (s.putAt a w).dir = s.dir := rfl
@[simp] theorem State.putAt_vr (a : RegAt) (w : Word) : (s.putAt a w).vr = s.vr := rfl
@[simp] theorem State.putAt_flash (a : RegAt) (w : Word) : (s.putAt a w).flash = s.flash := rfl
@[simp] theorem State.putAt_pace (a : RegAt) (w : Word) : (s.putAt a w).pace = s.pace := rfl
@[simp] theorem State.putAt_te (a : RegAt) (w : Word) : (s.putAt a w).te = s.te := rfl
@[simp] theorem State.putAt_lanes (a : RegAt) (w : Word) : (s.putAt a w).lanes = s.lanes := rfl
@[simp] theorem State.putAt_seStatus (a : RegAt) (w : Word) : (s.putAt a w).seStatus = s.seStatus := rfl
@[simp] theorem State.putAt_saveStatus (a : RegAt) (w : Word) : (s.putAt a w).saveStatus = s.saveStatus := rfl
@[simp] theorem State.putAt_gu (a : RegAt) (w : Word) : (s.putAt a w).gu = s.gu := rfl
@[simp] theorem State.putAt_units (a : RegAt) (w : Word) : (s.putAt a w).units = s.units := rfl
@[simp] theorem State.putAt_hdl (a : RegAt) (w : Word) : (s.putAt a w).hdl = s.hdl := rfl
@[simp] theorem State.putAt_sw (a : RegAt) (w : Word) : (s.putAt a w).sw = s.sw := rfl
@[simp] theorem State.putAt_fab (a : RegAt) (w : Word) : (s.putAt a w).fab = s.fab := rfl
@[simp] theorem State.putAt_err (a : RegAt) (w : Word) : (s.putAt a w).err = s.err := rfl
@[simp] theorem State.putAt_boot (a : RegAt) (w : Word) : (s.putAt a w).boot = s.boot := rfl
@[simp] theorem State.putAt_mgt (a : RegAt) (w : Word) : (s.putAt a w).mgt = s.mgt := rfl
@[simp] theorem State.putAt_pwr (a : RegAt) (w : Word) : (s.putAt a w).pwr = s.pwr := rfl
@[simp] theorem State.putAt_due (a : RegAt) (w : Word) : (s.putAt a w).due = s.due := rfl

/-! ### owe -/
@[simp] theorem State.owe_pending (d : Due) : (s.owe d).pending = s.pending := rfl
@[simp] theorem State.owe_out (d : Due) : (s.owe d).out = s.out := rfl
@[simp] theorem State.owe_free (d : Due) : (s.owe d).free = s.free := rfl
@[simp] theorem State.owe_nextId (d : Due) : (s.owe d).nextId = s.nextId := rfl
@[simp] theorem State.owe_now (d : Due) : (s.owe d).now = s.now := rfl
@[simp] theorem State.owe_frac (d : Due) : (s.owe d).frac = s.frac := rfl
@[simp] theorem State.owe_cfg (d : Due) : (s.owe d).cfg = s.cfg := rfl
@[simp] theorem State.owe_stat (d : Due) : (s.owe d).stat = s.stat := rfl
@[simp] theorem State.owe_xp (d : Due) : (s.owe d).xp = s.xp := rfl
@[simp] theorem State.owe_cmds (d : Due) : (s.owe d).cmds = s.cmds := rfl
@[simp] theorem State.owe_mem (d : Due) : (s.owe d).mem = s.mem := rfl
@[simp] theorem State.owe_cache (d : Due) : (s.owe d).cache = s.cache := rfl
@[simp] theorem State.owe_ext (d : Due) : (s.owe d).ext = s.ext := rfl
@[simp] theorem State.owe_dir (d : Due) : (s.owe d).dir = s.dir := rfl
@[simp] theorem State.owe_vr (d : Due) : (s.owe d).vr = s.vr := rfl
@[simp] theorem State.owe_flash (d : Due) : (s.owe d).flash = s.flash := rfl
@[simp] theorem State.owe_pace (d : Due) : (s.owe d).pace = s.pace := rfl
@[simp] theorem State.owe_te (d : Due) : (s.owe d).te = s.te := rfl
@[simp] theorem State.owe_lanes (d : Due) : (s.owe d).lanes = s.lanes := rfl
@[simp] theorem State.owe_seStatus (d : Due) : (s.owe d).seStatus = s.seStatus := rfl
@[simp] theorem State.owe_saveStatus (d : Due) : (s.owe d).saveStatus = s.saveStatus := rfl
@[simp] theorem State.owe_gu (d : Due) : (s.owe d).gu = s.gu := rfl
@[simp] theorem State.owe_units (d : Due) : (s.owe d).units = s.units := rfl
@[simp] theorem State.owe_hdl (d : Due) : (s.owe d).hdl = s.hdl := rfl
@[simp] theorem State.owe_sw (d : Due) : (s.owe d).sw = s.sw := rfl
@[simp] theorem State.owe_fab (d : Due) : (s.owe d).fab = s.fab := rfl
@[simp] theorem State.owe_err (d : Due) : (s.owe d).err = s.err := rfl
@[simp] theorem State.owe_boot (d : Due) : (s.owe d).boot = s.boot := rfl
@[simp] theorem State.owe_mgt (d : Due) : (s.owe d).mgt = s.mgt := rfl
@[simp] theorem State.owe_pwr (d : Due) : (s.owe d).pwr = s.pwr := rfl

/-! ### setSess -/
@[simp] theorem State.setSess_pending (n : Nat) (f : Session → Session) : (s.setSess n f).pending = s.pending := rfl
@[simp] theorem State.setSess_out (n : Nat) (f : Session → Session) : (s.setSess n f).out = s.out := rfl
@[simp] theorem State.setSess_free (n : Nat) (f : Session → Session) : (s.setSess n f).free = s.free := rfl
@[simp] theorem State.setSess_nextId (n : Nat) (f : Session → Session) : (s.setSess n f).nextId = s.nextId := rfl
@[simp] theorem State.setSess_now (n : Nat) (f : Session → Session) : (s.setSess n f).now = s.now := rfl
@[simp] theorem State.setSess_frac (n : Nat) (f : Session → Session) : (s.setSess n f).frac = s.frac := rfl
@[simp] theorem State.setSess_cfg (n : Nat) (f : Session → Session) : (s.setSess n f).cfg = s.cfg := rfl
@[simp] theorem State.setSess_stat (n : Nat) (f : Session → Session) : (s.setSess n f).stat = s.stat := rfl
@[simp] theorem State.setSess_cmds (n : Nat) (f : Session → Session) : (s.setSess n f).cmds = s.cmds := rfl
@[simp] theorem State.setSess_mem (n : Nat) (f : Session → Session) : (s.setSess n f).mem = s.mem := rfl
@[simp] theorem State.setSess_cache (n : Nat) (f : Session → Session) : (s.setSess n f).cache = s.cache := rfl
@[simp] theorem State.setSess_ext (n : Nat) (f : Session → Session) : (s.setSess n f).ext = s.ext := rfl
@[simp] theorem State.setSess_dir (n : Nat) (f : Session → Session) : (s.setSess n f).dir = s.dir := rfl
@[simp] theorem State.setSess_vr (n : Nat) (f : Session → Session) : (s.setSess n f).vr = s.vr := rfl
@[simp] theorem State.setSess_flash (n : Nat) (f : Session → Session) : (s.setSess n f).flash = s.flash := rfl
@[simp] theorem State.setSess_pace (n : Nat) (f : Session → Session) : (s.setSess n f).pace = s.pace := rfl
@[simp] theorem State.setSess_te (n : Nat) (f : Session → Session) : (s.setSess n f).te = s.te := rfl
@[simp] theorem State.setSess_lanes (n : Nat) (f : Session → Session) : (s.setSess n f).lanes = s.lanes := rfl
@[simp] theorem State.setSess_seStatus (n : Nat) (f : Session → Session) : (s.setSess n f).seStatus = s.seStatus := rfl
@[simp] theorem State.setSess_saveStatus (n : Nat) (f : Session → Session) : (s.setSess n f).saveStatus = s.saveStatus := rfl
@[simp] theorem State.setSess_gu (n : Nat) (f : Session → Session) : (s.setSess n f).gu = s.gu := rfl
@[simp] theorem State.setSess_units (n : Nat) (f : Session → Session) : (s.setSess n f).units = s.units := rfl
@[simp] theorem State.setSess_hdl (n : Nat) (f : Session → Session) : (s.setSess n f).hdl = s.hdl := rfl
@[simp] theorem State.setSess_sw (n : Nat) (f : Session → Session) : (s.setSess n f).sw = s.sw := rfl
@[simp] theorem State.setSess_fab (n : Nat) (f : Session → Session) : (s.setSess n f).fab = s.fab := rfl
@[simp] theorem State.setSess_err (n : Nat) (f : Session → Session) : (s.setSess n f).err = s.err := rfl
@[simp] theorem State.setSess_boot (n : Nat) (f : Session → Session) : (s.setSess n f).boot = s.boot := rfl
@[simp] theorem State.setSess_mgt (n : Nat) (f : Session → Session) : (s.setSess n f).mgt = s.mgt := rfl
@[simp] theorem State.setSess_pwr (n : Nat) (f : Session → Session) : (s.setSess n f).pwr = s.pwr := rfl
@[simp] theorem State.setSess_due (n : Nat) (f : Session → Session) : (s.setSess n f).due = s.due := rfl

/-! ### setRx -/
@[simp] theorem State.setRx_pending (n c : Nat) (f : RxStream → RxStream) : (s.setRx n c f).pending = s.pending := rfl
@[simp] theorem State.setRx_out (n c : Nat) (f : RxStream → RxStream) : (s.setRx n c f).out = s.out := rfl
@[simp] theorem State.setRx_free (n c : Nat) (f : RxStream → RxStream) : (s.setRx n c f).free = s.free := rfl
@[simp] theorem State.setRx_nextId (n c : Nat) (f : RxStream → RxStream) : (s.setRx n c f).nextId = s.nextId := rfl
@[simp] theorem State.setRx_now (n c : Nat) (f : RxStream → RxStream) : (s.setRx n c f).now = s.now := rfl
@[simp] theorem State.setRx_frac (n c : Nat) (f : RxStream → RxStream) : (s.setRx n c f).frac = s.frac := rfl
@[simp] theorem State.setRx_cfg (n c : Nat) (f : RxStream → RxStream) : (s.setRx n c f).cfg = s.cfg := rfl
@[simp] theorem State.setRx_stat (n c : Nat) (f : RxStream → RxStream) : (s.setRx n c f).stat = s.stat := rfl
@[simp] theorem State.setRx_cmds (n c : Nat) (f : RxStream → RxStream) : (s.setRx n c f).cmds = s.cmds := rfl
@[simp] theorem State.setRx_mem (n c : Nat) (f : RxStream → RxStream) : (s.setRx n c f).mem = s.mem := rfl
@[simp] theorem State.setRx_cache (n c : Nat) (f : RxStream → RxStream) : (s.setRx n c f).cache = s.cache := rfl
@[simp] theorem State.setRx_ext (n c : Nat) (f : RxStream → RxStream) : (s.setRx n c f).ext = s.ext := rfl
@[simp] theorem State.setRx_dir (n c : Nat) (f : RxStream → RxStream) : (s.setRx n c f).dir = s.dir := rfl
@[simp] theorem State.setRx_vr (n c : Nat) (f : RxStream → RxStream) : (s.setRx n c f).vr = s.vr := rfl
@[simp] theorem State.setRx_flash (n c : Nat) (f : RxStream → RxStream) : (s.setRx n c f).flash = s.flash := rfl
@[simp] theorem State.setRx_pace (n c : Nat) (f : RxStream → RxStream) : (s.setRx n c f).pace = s.pace := rfl
@[simp] theorem State.setRx_te (n c : Nat) (f : RxStream → RxStream) : (s.setRx n c f).te = s.te := rfl
@[simp] theorem State.setRx_lanes (n c : Nat) (f : RxStream → RxStream) : (s.setRx n c f).lanes = s.lanes := rfl
@[simp] theorem State.setRx_seStatus (n c : Nat) (f : RxStream → RxStream) : (s.setRx n c f).seStatus = s.seStatus := rfl
@[simp] theorem State.setRx_saveStatus (n c : Nat) (f : RxStream → RxStream) : (s.setRx n c f).saveStatus = s.saveStatus := rfl
@[simp] theorem State.setRx_gu (n c : Nat) (f : RxStream → RxStream) : (s.setRx n c f).gu = s.gu := rfl
@[simp] theorem State.setRx_units (n c : Nat) (f : RxStream → RxStream) : (s.setRx n c f).units = s.units := rfl
@[simp] theorem State.setRx_hdl (n c : Nat) (f : RxStream → RxStream) : (s.setRx n c f).hdl = s.hdl := rfl
@[simp] theorem State.setRx_sw (n c : Nat) (f : RxStream → RxStream) : (s.setRx n c f).sw = s.sw := rfl
@[simp] theorem State.setRx_fab (n c : Nat) (f : RxStream → RxStream) : (s.setRx n c f).fab = s.fab := rfl
@[simp] theorem State.setRx_err (n c : Nat) (f : RxStream → RxStream) : (s.setRx n c f).err = s.err := rfl
@[simp] theorem State.setRx_boot (n c : Nat) (f : RxStream → RxStream) : (s.setRx n c f).boot = s.boot := rfl
@[simp] theorem State.setRx_mgt (n c : Nat) (f : RxStream → RxStream) : (s.setRx n c f).mgt = s.mgt := rfl
@[simp] theorem State.setRx_pwr (n c : Nat) (f : RxStream → RxStream) : (s.setRx n c f).pwr = s.pwr := rfl
@[simp] theorem State.setRx_due (n c : Nat) (f : RxStream → RxStream) : (s.setRx n c f).due = s.due := rfl

/-! ### setTx -/
@[simp] theorem State.setTx_pending (n c : Nat) (f : TxStream → TxStream) : (s.setTx n c f).pending = s.pending := rfl
@[simp] theorem State.setTx_out (n c : Nat) (f : TxStream → TxStream) : (s.setTx n c f).out = s.out := rfl
@[simp] theorem State.setTx_free (n c : Nat) (f : TxStream → TxStream) : (s.setTx n c f).free = s.free := rfl
@[simp] theorem State.setTx_nextId (n c : Nat) (f : TxStream → TxStream) : (s.setTx n c f).nextId = s.nextId := rfl
@[simp] theorem State.setTx_now (n c : Nat) (f : TxStream → TxStream) : (s.setTx n c f).now = s.now := rfl
@[simp] theorem State.setTx_frac (n c : Nat) (f : TxStream → TxStream) : (s.setTx n c f).frac = s.frac := rfl
@[simp] theorem State.setTx_cfg (n c : Nat) (f : TxStream → TxStream) : (s.setTx n c f).cfg = s.cfg := rfl
@[simp] theorem State.setTx_stat (n c : Nat) (f : TxStream → TxStream) : (s.setTx n c f).stat = s.stat := rfl
@[simp] theorem State.setTx_cmds (n c : Nat) (f : TxStream → TxStream) : (s.setTx n c f).cmds = s.cmds := rfl
@[simp] theorem State.setTx_mem (n c : Nat) (f : TxStream → TxStream) : (s.setTx n c f).mem = s.mem := rfl
@[simp] theorem State.setTx_cache (n c : Nat) (f : TxStream → TxStream) : (s.setTx n c f).cache = s.cache := rfl
@[simp] theorem State.setTx_ext (n c : Nat) (f : TxStream → TxStream) : (s.setTx n c f).ext = s.ext := rfl
@[simp] theorem State.setTx_dir (n c : Nat) (f : TxStream → TxStream) : (s.setTx n c f).dir = s.dir := rfl
@[simp] theorem State.setTx_vr (n c : Nat) (f : TxStream → TxStream) : (s.setTx n c f).vr = s.vr := rfl
@[simp] theorem State.setTx_flash (n c : Nat) (f : TxStream → TxStream) : (s.setTx n c f).flash = s.flash := rfl
@[simp] theorem State.setTx_pace (n c : Nat) (f : TxStream → TxStream) : (s.setTx n c f).pace = s.pace := rfl
@[simp] theorem State.setTx_te (n c : Nat) (f : TxStream → TxStream) : (s.setTx n c f).te = s.te := rfl
@[simp] theorem State.setTx_lanes (n c : Nat) (f : TxStream → TxStream) : (s.setTx n c f).lanes = s.lanes := rfl
@[simp] theorem State.setTx_seStatus (n c : Nat) (f : TxStream → TxStream) : (s.setTx n c f).seStatus = s.seStatus := rfl
@[simp] theorem State.setTx_saveStatus (n c : Nat) (f : TxStream → TxStream) : (s.setTx n c f).saveStatus = s.saveStatus := rfl
@[simp] theorem State.setTx_gu (n c : Nat) (f : TxStream → TxStream) : (s.setTx n c f).gu = s.gu := rfl
@[simp] theorem State.setTx_units (n c : Nat) (f : TxStream → TxStream) : (s.setTx n c f).units = s.units := rfl
@[simp] theorem State.setTx_hdl (n c : Nat) (f : TxStream → TxStream) : (s.setTx n c f).hdl = s.hdl := rfl
@[simp] theorem State.setTx_sw (n c : Nat) (f : TxStream → TxStream) : (s.setTx n c f).sw = s.sw := rfl
@[simp] theorem State.setTx_fab (n c : Nat) (f : TxStream → TxStream) : (s.setTx n c f).fab = s.fab := rfl
@[simp] theorem State.setTx_err (n c : Nat) (f : TxStream → TxStream) : (s.setTx n c f).err = s.err := rfl
@[simp] theorem State.setTx_boot (n c : Nat) (f : TxStream → TxStream) : (s.setTx n c f).boot = s.boot := rfl
@[simp] theorem State.setTx_mgt (n c : Nat) (f : TxStream → TxStream) : (s.setTx n c f).mgt = s.mgt := rfl
@[simp] theorem State.setTx_pwr (n c : Nat) (f : TxStream → TxStream) : (s.setTx n c f).pwr = s.pwr := rfl
@[simp] theorem State.setTx_due (n c : Nat) (f : TxStream → TxStream) : (s.setTx n c f).due = s.due := rfl

/-! ### setCmd -/
@[simp] theorem State.setCmd_pending (i : Nat) (f : Cmd → Cmd) : (s.setCmd i f).pending = s.pending := rfl
@[simp] theorem State.setCmd_out (i : Nat) (f : Cmd → Cmd) : (s.setCmd i f).out = s.out := rfl
@[simp] theorem State.setCmd_free (i : Nat) (f : Cmd → Cmd) : (s.setCmd i f).free = s.free := rfl
@[simp] theorem State.setCmd_nextId (i : Nat) (f : Cmd → Cmd) : (s.setCmd i f).nextId = s.nextId := rfl
@[simp] theorem State.setCmd_now (i : Nat) (f : Cmd → Cmd) : (s.setCmd i f).now = s.now := rfl
@[simp] theorem State.setCmd_frac (i : Nat) (f : Cmd → Cmd) : (s.setCmd i f).frac = s.frac := rfl
@[simp] theorem State.setCmd_cfg (i : Nat) (f : Cmd → Cmd) : (s.setCmd i f).cfg = s.cfg := rfl
@[simp] theorem State.setCmd_stat (i : Nat) (f : Cmd → Cmd) : (s.setCmd i f).stat = s.stat := rfl
@[simp] theorem State.setCmd_xp (i : Nat) (f : Cmd → Cmd) : (s.setCmd i f).xp = s.xp := rfl
@[simp] theorem State.setCmd_mem (i : Nat) (f : Cmd → Cmd) : (s.setCmd i f).mem = s.mem := rfl
@[simp] theorem State.setCmd_cache (i : Nat) (f : Cmd → Cmd) : (s.setCmd i f).cache = s.cache := rfl
@[simp] theorem State.setCmd_ext (i : Nat) (f : Cmd → Cmd) : (s.setCmd i f).ext = s.ext := rfl
@[simp] theorem State.setCmd_dir (i : Nat) (f : Cmd → Cmd) : (s.setCmd i f).dir = s.dir := rfl
@[simp] theorem State.setCmd_vr (i : Nat) (f : Cmd → Cmd) : (s.setCmd i f).vr = s.vr := rfl
@[simp] theorem State.setCmd_flash (i : Nat) (f : Cmd → Cmd) : (s.setCmd i f).flash = s.flash := rfl
@[simp] theorem State.setCmd_pace (i : Nat) (f : Cmd → Cmd) : (s.setCmd i f).pace = s.pace := rfl
@[simp] theorem State.setCmd_te (i : Nat) (f : Cmd → Cmd) : (s.setCmd i f).te = s.te := rfl
@[simp] theorem State.setCmd_lanes (i : Nat) (f : Cmd → Cmd) : (s.setCmd i f).lanes = s.lanes := rfl
@[simp] theorem State.setCmd_seStatus (i : Nat) (f : Cmd → Cmd) : (s.setCmd i f).seStatus = s.seStatus := rfl
@[simp] theorem State.setCmd_saveStatus (i : Nat) (f : Cmd → Cmd) : (s.setCmd i f).saveStatus = s.saveStatus := rfl
@[simp] theorem State.setCmd_gu (i : Nat) (f : Cmd → Cmd) : (s.setCmd i f).gu = s.gu := rfl
@[simp] theorem State.setCmd_units (i : Nat) (f : Cmd → Cmd) : (s.setCmd i f).units = s.units := rfl
@[simp] theorem State.setCmd_hdl (i : Nat) (f : Cmd → Cmd) : (s.setCmd i f).hdl = s.hdl := rfl
@[simp] theorem State.setCmd_sw (i : Nat) (f : Cmd → Cmd) : (s.setCmd i f).sw = s.sw := rfl
@[simp] theorem State.setCmd_fab (i : Nat) (f : Cmd → Cmd) : (s.setCmd i f).fab = s.fab := rfl
@[simp] theorem State.setCmd_err (i : Nat) (f : Cmd → Cmd) : (s.setCmd i f).err = s.err := rfl
@[simp] theorem State.setCmd_boot (i : Nat) (f : Cmd → Cmd) : (s.setCmd i f).boot = s.boot := rfl
@[simp] theorem State.setCmd_mgt (i : Nat) (f : Cmd → Cmd) : (s.setCmd i f).mgt = s.mgt := rfl
@[simp] theorem State.setCmd_pwr (i : Nat) (f : Cmd → Cmd) : (s.setCmd i f).pwr = s.pwr := rfl
@[simp] theorem State.setCmd_due (i : Nat) (f : Cmd → Cmd) : (s.setCmd i f).due = s.due := rfl

/-! ### dropCmd -/
@[simp] theorem State.dropCmd_pending (i : Nat) : (s.dropCmd i).pending = s.pending := rfl
@[simp] theorem State.dropCmd_out (i : Nat) : (s.dropCmd i).out = s.out := rfl
@[simp] theorem State.dropCmd_free (i : Nat) : (s.dropCmd i).free = s.free := rfl
@[simp] theorem State.dropCmd_nextId (i : Nat) : (s.dropCmd i).nextId = s.nextId := rfl
@[simp] theorem State.dropCmd_now (i : Nat) : (s.dropCmd i).now = s.now := rfl
@[simp] theorem State.dropCmd_frac (i : Nat) : (s.dropCmd i).frac = s.frac := rfl
@[simp] theorem State.dropCmd_cfg (i : Nat) : (s.dropCmd i).cfg = s.cfg := rfl
@[simp] theorem State.dropCmd_stat (i : Nat) : (s.dropCmd i).stat = s.stat := rfl
@[simp] theorem State.dropCmd_xp (i : Nat) : (s.dropCmd i).xp = s.xp := rfl
@[simp] theorem State.dropCmd_mem (i : Nat) : (s.dropCmd i).mem = s.mem := rfl
@[simp] theorem State.dropCmd_cache (i : Nat) : (s.dropCmd i).cache = s.cache := rfl
@[simp] theorem State.dropCmd_ext (i : Nat) : (s.dropCmd i).ext = s.ext := rfl
@[simp] theorem State.dropCmd_dir (i : Nat) : (s.dropCmd i).dir = s.dir := rfl
@[simp] theorem State.dropCmd_vr (i : Nat) : (s.dropCmd i).vr = s.vr := rfl
@[simp] theorem State.dropCmd_flash (i : Nat) : (s.dropCmd i).flash = s.flash := rfl
@[simp] theorem State.dropCmd_pace (i : Nat) : (s.dropCmd i).pace = s.pace := rfl
@[simp] theorem State.dropCmd_te (i : Nat) : (s.dropCmd i).te = s.te := rfl
@[simp] theorem State.dropCmd_lanes (i : Nat) : (s.dropCmd i).lanes = s.lanes := rfl
@[simp] theorem State.dropCmd_seStatus (i : Nat) : (s.dropCmd i).seStatus = s.seStatus := rfl
@[simp] theorem State.dropCmd_saveStatus (i : Nat) : (s.dropCmd i).saveStatus = s.saveStatus := rfl
@[simp] theorem State.dropCmd_gu (i : Nat) : (s.dropCmd i).gu = s.gu := rfl
@[simp] theorem State.dropCmd_units (i : Nat) : (s.dropCmd i).units = s.units := rfl
@[simp] theorem State.dropCmd_hdl (i : Nat) : (s.dropCmd i).hdl = s.hdl := rfl
@[simp] theorem State.dropCmd_sw (i : Nat) : (s.dropCmd i).sw = s.sw := rfl
@[simp] theorem State.dropCmd_fab (i : Nat) : (s.dropCmd i).fab = s.fab := rfl
@[simp] theorem State.dropCmd_err (i : Nat) : (s.dropCmd i).err = s.err := rfl
@[simp] theorem State.dropCmd_boot (i : Nat) : (s.dropCmd i).boot = s.boot := rfl
@[simp] theorem State.dropCmd_mgt (i : Nat) : (s.dropCmd i).mgt = s.mgt := rfl
@[simp] theorem State.dropCmd_pwr (i : Nat) : (s.dropCmd i).pwr = s.pwr := rfl
@[simp] theorem State.dropCmd_due (i : Nat) : (s.dropCmd i).due = s.due := rfl

/-! ### setExt -/
@[simp] theorem State.setExt_pending (n : Nat) (f : Extent → Extent) : (s.setExt n f).pending = s.pending := rfl
@[simp] theorem State.setExt_out (n : Nat) (f : Extent → Extent) : (s.setExt n f).out = s.out := rfl
@[simp] theorem State.setExt_free (n : Nat) (f : Extent → Extent) : (s.setExt n f).free = s.free := rfl
@[simp] theorem State.setExt_nextId (n : Nat) (f : Extent → Extent) : (s.setExt n f).nextId = s.nextId := rfl
@[simp] theorem State.setExt_now (n : Nat) (f : Extent → Extent) : (s.setExt n f).now = s.now := rfl
@[simp] theorem State.setExt_frac (n : Nat) (f : Extent → Extent) : (s.setExt n f).frac = s.frac := rfl
@[simp] theorem State.setExt_cfg (n : Nat) (f : Extent → Extent) : (s.setExt n f).cfg = s.cfg := rfl
@[simp] theorem State.setExt_stat (n : Nat) (f : Extent → Extent) : (s.setExt n f).stat = s.stat := rfl
@[simp] theorem State.setExt_xp (n : Nat) (f : Extent → Extent) : (s.setExt n f).xp = s.xp := rfl
@[simp] theorem State.setExt_cmds (n : Nat) (f : Extent → Extent) : (s.setExt n f).cmds = s.cmds := rfl
@[simp] theorem State.setExt_mem (n : Nat) (f : Extent → Extent) : (s.setExt n f).mem = s.mem := rfl
@[simp] theorem State.setExt_cache (n : Nat) (f : Extent → Extent) : (s.setExt n f).cache = s.cache := rfl
@[simp] theorem State.setExt_dir (n : Nat) (f : Extent → Extent) : (s.setExt n f).dir = s.dir := rfl
@[simp] theorem State.setExt_vr (n : Nat) (f : Extent → Extent) : (s.setExt n f).vr = s.vr := rfl
@[simp] theorem State.setExt_flash (n : Nat) (f : Extent → Extent) : (s.setExt n f).flash = s.flash := rfl
@[simp] theorem State.setExt_pace (n : Nat) (f : Extent → Extent) : (s.setExt n f).pace = s.pace := rfl
@[simp] theorem State.setExt_te (n : Nat) (f : Extent → Extent) : (s.setExt n f).te = s.te := rfl
@[simp] theorem State.setExt_lanes (n : Nat) (f : Extent → Extent) : (s.setExt n f).lanes = s.lanes := rfl
@[simp] theorem State.setExt_seStatus (n : Nat) (f : Extent → Extent) : (s.setExt n f).seStatus = s.seStatus := rfl
@[simp] theorem State.setExt_saveStatus (n : Nat) (f : Extent → Extent) : (s.setExt n f).saveStatus = s.saveStatus := rfl
@[simp] theorem State.setExt_gu (n : Nat) (f : Extent → Extent) : (s.setExt n f).gu = s.gu := rfl
@[simp] theorem State.setExt_units (n : Nat) (f : Extent → Extent) : (s.setExt n f).units = s.units := rfl
@[simp] theorem State.setExt_hdl (n : Nat) (f : Extent → Extent) : (s.setExt n f).hdl = s.hdl := rfl
@[simp] theorem State.setExt_sw (n : Nat) (f : Extent → Extent) : (s.setExt n f).sw = s.sw := rfl
@[simp] theorem State.setExt_fab (n : Nat) (f : Extent → Extent) : (s.setExt n f).fab = s.fab := rfl
@[simp] theorem State.setExt_err (n : Nat) (f : Extent → Extent) : (s.setExt n f).err = s.err := rfl
@[simp] theorem State.setExt_boot (n : Nat) (f : Extent → Extent) : (s.setExt n f).boot = s.boot := rfl
@[simp] theorem State.setExt_mgt (n : Nat) (f : Extent → Extent) : (s.setExt n f).mgt = s.mgt := rfl
@[simp] theorem State.setExt_pwr (n : Nat) (f : Extent → Extent) : (s.setExt n f).pwr = s.pwr := rfl
@[simp] theorem State.setExt_due (n : Nat) (f : Extent → Extent) : (s.setExt n f).due = s.due := rfl

/-! ### markSector -/
@[simp] theorem State.markSector_pending (k : Nat) : (s.markSector k).pending = s.pending := rfl
@[simp] theorem State.markSector_out (k : Nat) : (s.markSector k).out = s.out := rfl
@[simp] theorem State.markSector_free (k : Nat) : (s.markSector k).free = s.free := rfl
@[simp] theorem State.markSector_nextId (k : Nat) : (s.markSector k).nextId = s.nextId := rfl
@[simp] theorem State.markSector_now (k : Nat) : (s.markSector k).now = s.now := rfl
@[simp] theorem State.markSector_frac (k : Nat) : (s.markSector k).frac = s.frac := rfl
@[simp] theorem State.markSector_cfg (k : Nat) : (s.markSector k).cfg = s.cfg := rfl
@[simp] theorem State.markSector_stat (k : Nat) : (s.markSector k).stat = s.stat := rfl
@[simp] theorem State.markSector_xp (k : Nat) : (s.markSector k).xp = s.xp := rfl
@[simp] theorem State.markSector_cmds (k : Nat) : (s.markSector k).cmds = s.cmds := rfl
@[simp] theorem State.markSector_cache (k : Nat) : (s.markSector k).cache = s.cache := rfl
@[simp] theorem State.markSector_ext (k : Nat) : (s.markSector k).ext = s.ext := rfl
@[simp] theorem State.markSector_dir (k : Nat) : (s.markSector k).dir = s.dir := rfl
@[simp] theorem State.markSector_vr (k : Nat) : (s.markSector k).vr = s.vr := rfl
@[simp] theorem State.markSector_flash (k : Nat) : (s.markSector k).flash = s.flash := rfl
@[simp] theorem State.markSector_pace (k : Nat) : (s.markSector k).pace = s.pace := rfl
@[simp] theorem State.markSector_te (k : Nat) : (s.markSector k).te = s.te := rfl
@[simp] theorem State.markSector_lanes (k : Nat) : (s.markSector k).lanes = s.lanes := rfl
@[simp] theorem State.markSector_seStatus (k : Nat) : (s.markSector k).seStatus = s.seStatus := rfl
@[simp] theorem State.markSector_saveStatus (k : Nat) : (s.markSector k).saveStatus = s.saveStatus := rfl
@[simp] theorem State.markSector_gu (k : Nat) : (s.markSector k).gu = s.gu := rfl
@[simp] theorem State.markSector_units (k : Nat) : (s.markSector k).units = s.units := rfl
@[simp] theorem State.markSector_hdl (k : Nat) : (s.markSector k).hdl = s.hdl := rfl
@[simp] theorem State.markSector_sw (k : Nat) : (s.markSector k).sw = s.sw := rfl
@[simp] theorem State.markSector_fab (k : Nat) : (s.markSector k).fab = s.fab := rfl
@[simp] theorem State.markSector_err (k : Nat) : (s.markSector k).err = s.err := rfl
@[simp] theorem State.markSector_boot (k : Nat) : (s.markSector k).boot = s.boot := rfl
@[simp] theorem State.markSector_mgt (k : Nat) : (s.markSector k).mgt = s.mgt := rfl
@[simp] theorem State.markSector_pwr (k : Nat) : (s.markSector k).pwr = s.pwr := rfl
@[simp] theorem State.markSector_due (k : Nat) : (s.markSector k).due = s.due := rfl

/-! ### setDom -/
@[simp] theorem State.setDom_pending (d : Nat) (f : Domain → Domain) : (s.setDom d f).pending = s.pending := rfl
@[simp] theorem State.setDom_out (d : Nat) (f : Domain → Domain) : (s.setDom d f).out = s.out := rfl
@[simp] theorem State.setDom_free (d : Nat) (f : Domain → Domain) : (s.setDom d f).free = s.free := rfl
@[simp] theorem State.setDom_nextId (d : Nat) (f : Domain → Domain) : (s.setDom d f).nextId = s.nextId := rfl
@[simp] theorem State.setDom_now (d : Nat) (f : Domain → Domain) : (s.setDom d f).now = s.now := rfl
@[simp] theorem State.setDom_frac (d : Nat) (f : Domain → Domain) : (s.setDom d f).frac = s.frac := rfl
@[simp] theorem State.setDom_cfg (d : Nat) (f : Domain → Domain) : (s.setDom d f).cfg = s.cfg := rfl
@[simp] theorem State.setDom_stat (d : Nat) (f : Domain → Domain) : (s.setDom d f).stat = s.stat := rfl
@[simp] theorem State.setDom_xp (d : Nat) (f : Domain → Domain) : (s.setDom d f).xp = s.xp := rfl
@[simp] theorem State.setDom_cmds (d : Nat) (f : Domain → Domain) : (s.setDom d f).cmds = s.cmds := rfl
@[simp] theorem State.setDom_mem (d : Nat) (f : Domain → Domain) : (s.setDom d f).mem = s.mem := rfl
@[simp] theorem State.setDom_cache (d : Nat) (f : Domain → Domain) : (s.setDom d f).cache = s.cache := rfl
@[simp] theorem State.setDom_ext (d : Nat) (f : Domain → Domain) : (s.setDom d f).ext = s.ext := rfl
@[simp] theorem State.setDom_vr (d : Nat) (f : Domain → Domain) : (s.setDom d f).vr = s.vr := rfl
@[simp] theorem State.setDom_flash (d : Nat) (f : Domain → Domain) : (s.setDom d f).flash = s.flash := rfl
@[simp] theorem State.setDom_pace (d : Nat) (f : Domain → Domain) : (s.setDom d f).pace = s.pace := rfl
@[simp] theorem State.setDom_te (d : Nat) (f : Domain → Domain) : (s.setDom d f).te = s.te := rfl
@[simp] theorem State.setDom_lanes (d : Nat) (f : Domain → Domain) : (s.setDom d f).lanes = s.lanes := rfl
@[simp] theorem State.setDom_seStatus (d : Nat) (f : Domain → Domain) : (s.setDom d f).seStatus = s.seStatus := rfl
@[simp] theorem State.setDom_saveStatus (d : Nat) (f : Domain → Domain) : (s.setDom d f).saveStatus = s.saveStatus := rfl
@[simp] theorem State.setDom_gu (d : Nat) (f : Domain → Domain) : (s.setDom d f).gu = s.gu := rfl
@[simp] theorem State.setDom_units (d : Nat) (f : Domain → Domain) : (s.setDom d f).units = s.units := rfl
@[simp] theorem State.setDom_hdl (d : Nat) (f : Domain → Domain) : (s.setDom d f).hdl = s.hdl := rfl
@[simp] theorem State.setDom_sw (d : Nat) (f : Domain → Domain) : (s.setDom d f).sw = s.sw := rfl
@[simp] theorem State.setDom_fab (d : Nat) (f : Domain → Domain) : (s.setDom d f).fab = s.fab := rfl
@[simp] theorem State.setDom_err (d : Nat) (f : Domain → Domain) : (s.setDom d f).err = s.err := rfl
@[simp] theorem State.setDom_boot (d : Nat) (f : Domain → Domain) : (s.setDom d f).boot = s.boot := rfl
@[simp] theorem State.setDom_mgt (d : Nat) (f : Domain → Domain) : (s.setDom d f).mgt = s.mgt := rfl
@[simp] theorem State.setDom_pwr (d : Nat) (f : Domain → Domain) : (s.setDom d f).pwr = s.pwr := rfl
@[simp] theorem State.setDom_due (d : Nat) (f : Domain → Domain) : (s.setDom d f).due = s.due := rfl

/-! ### setEntry -/
@[simp] theorem State.setEntry_pending (l : Nat) (e : DirEntry) : (s.setEntry l e).pending = s.pending := rfl
@[simp] theorem State.setEntry_out (l : Nat) (e : DirEntry) : (s.setEntry l e).out = s.out := rfl
@[simp] theorem State.setEntry_free (l : Nat) (e : DirEntry) : (s.setEntry l e).free = s.free := rfl
@[simp] theorem State.setEntry_nextId (l : Nat) (e : DirEntry) : (s.setEntry l e).nextId = s.nextId := rfl
@[simp] theorem State.setEntry_now (l : Nat) (e : DirEntry) : (s.setEntry l e).now = s.now := rfl
@[simp] theorem State.setEntry_frac (l : Nat) (e : DirEntry) : (s.setEntry l e).frac = s.frac := rfl
@[simp] theorem State.setEntry_cfg (l : Nat) (e : DirEntry) : (s.setEntry l e).cfg = s.cfg := rfl
@[simp] theorem State.setEntry_stat (l : Nat) (e : DirEntry) : (s.setEntry l e).stat = s.stat := rfl
@[simp] theorem State.setEntry_xp (l : Nat) (e : DirEntry) : (s.setEntry l e).xp = s.xp := rfl
@[simp] theorem State.setEntry_cmds (l : Nat) (e : DirEntry) : (s.setEntry l e).cmds = s.cmds := rfl
@[simp] theorem State.setEntry_mem (l : Nat) (e : DirEntry) : (s.setEntry l e).mem = s.mem := rfl
@[simp] theorem State.setEntry_cache (l : Nat) (e : DirEntry) : (s.setEntry l e).cache = s.cache := rfl
@[simp] theorem State.setEntry_ext (l : Nat) (e : DirEntry) : (s.setEntry l e).ext = s.ext := rfl
@[simp] theorem State.setEntry_vr (l : Nat) (e : DirEntry) : (s.setEntry l e).vr = s.vr := rfl
@[simp] theorem State.setEntry_flash (l : Nat) (e : DirEntry) : (s.setEntry l e).flash = s.flash := rfl
@[simp] theorem State.setEntry_pace (l : Nat) (e : DirEntry) : (s.setEntry l e).pace = s.pace := rfl
@[simp] theorem State.setEntry_te (l : Nat) (e : DirEntry) : (s.setEntry l e).te = s.te := rfl
@[simp] theorem State.setEntry_lanes (l : Nat) (e : DirEntry) : (s.setEntry l e).lanes = s.lanes := rfl
@[simp] theorem State.setEntry_seStatus (l : Nat) (e : DirEntry) : (s.setEntry l e).seStatus = s.seStatus := rfl
@[simp] theorem State.setEntry_saveStatus (l : Nat) (e : DirEntry) : (s.setEntry l e).saveStatus = s.saveStatus := rfl
@[simp] theorem State.setEntry_gu (l : Nat) (e : DirEntry) : (s.setEntry l e).gu = s.gu := rfl
@[simp] theorem State.setEntry_units (l : Nat) (e : DirEntry) : (s.setEntry l e).units = s.units := rfl
@[simp] theorem State.setEntry_hdl (l : Nat) (e : DirEntry) : (s.setEntry l e).hdl = s.hdl := rfl
@[simp] theorem State.setEntry_sw (l : Nat) (e : DirEntry) : (s.setEntry l e).sw = s.sw := rfl
@[simp] theorem State.setEntry_fab (l : Nat) (e : DirEntry) : (s.setEntry l e).fab = s.fab := rfl
@[simp] theorem State.setEntry_err (l : Nat) (e : DirEntry) : (s.setEntry l e).err = s.err := rfl
@[simp] theorem State.setEntry_boot (l : Nat) (e : DirEntry) : (s.setEntry l e).boot = s.boot := rfl
@[simp] theorem State.setEntry_mgt (l : Nat) (e : DirEntry) : (s.setEntry l e).mgt = s.mgt := rfl
@[simp] theorem State.setEntry_pwr (l : Nat) (e : DirEntry) : (s.setEntry l e).pwr = s.pwr := rfl
@[simp] theorem State.setEntry_due (l : Nat) (e : DirEntry) : (s.setEntry l e).due = s.due := rfl

/-! ### setTxn -/
@[simp] theorem State.setTxn_pending (l : Nat) (f : Txn → Txn) : (s.setTxn l f).pending = s.pending := rfl
@[simp] theorem State.setTxn_out (l : Nat) (f : Txn → Txn) : (s.setTxn l f).out = s.out := rfl
@[simp] theorem State.setTxn_free (l : Nat) (f : Txn → Txn) : (s.setTxn l f).free = s.free := rfl
@[simp] theorem State.setTxn_nextId (l : Nat) (f : Txn → Txn) : (s.setTxn l f).nextId = s.nextId := rfl
@[simp] theorem State.setTxn_now (l : Nat) (f : Txn → Txn) : (s.setTxn l f).now = s.now := rfl
@[simp] theorem State.setTxn_frac (l : Nat) (f : Txn → Txn) : (s.setTxn l f).frac = s.frac := rfl
@[simp] theorem State.setTxn_cfg (l : Nat) (f : Txn → Txn) : (s.setTxn l f).cfg = s.cfg := rfl
@[simp] theorem State.setTxn_stat (l : Nat) (f : Txn → Txn) : (s.setTxn l f).stat = s.stat := rfl
@[simp] theorem State.setTxn_xp (l : Nat) (f : Txn → Txn) : (s.setTxn l f).xp = s.xp := rfl
@[simp] theorem State.setTxn_cmds (l : Nat) (f : Txn → Txn) : (s.setTxn l f).cmds = s.cmds := rfl
@[simp] theorem State.setTxn_mem (l : Nat) (f : Txn → Txn) : (s.setTxn l f).mem = s.mem := rfl
@[simp] theorem State.setTxn_cache (l : Nat) (f : Txn → Txn) : (s.setTxn l f).cache = s.cache := rfl
@[simp] theorem State.setTxn_ext (l : Nat) (f : Txn → Txn) : (s.setTxn l f).ext = s.ext := rfl
@[simp] theorem State.setTxn_vr (l : Nat) (f : Txn → Txn) : (s.setTxn l f).vr = s.vr := rfl
@[simp] theorem State.setTxn_flash (l : Nat) (f : Txn → Txn) : (s.setTxn l f).flash = s.flash := rfl
@[simp] theorem State.setTxn_pace (l : Nat) (f : Txn → Txn) : (s.setTxn l f).pace = s.pace := rfl
@[simp] theorem State.setTxn_te (l : Nat) (f : Txn → Txn) : (s.setTxn l f).te = s.te := rfl
@[simp] theorem State.setTxn_lanes (l : Nat) (f : Txn → Txn) : (s.setTxn l f).lanes = s.lanes := rfl
@[simp] theorem State.setTxn_seStatus (l : Nat) (f : Txn → Txn) : (s.setTxn l f).seStatus = s.seStatus := rfl
@[simp] theorem State.setTxn_saveStatus (l : Nat) (f : Txn → Txn) : (s.setTxn l f).saveStatus = s.saveStatus := rfl
@[simp] theorem State.setTxn_gu (l : Nat) (f : Txn → Txn) : (s.setTxn l f).gu = s.gu := rfl
@[simp] theorem State.setTxn_units (l : Nat) (f : Txn → Txn) : (s.setTxn l f).units = s.units := rfl
@[simp] theorem State.setTxn_hdl (l : Nat) (f : Txn → Txn) : (s.setTxn l f).hdl = s.hdl := rfl
@[simp] theorem State.setTxn_sw (l : Nat) (f : Txn → Txn) : (s.setTxn l f).sw = s.sw := rfl
@[simp] theorem State.setTxn_fab (l : Nat) (f : Txn → Txn) : (s.setTxn l f).fab = s.fab := rfl
@[simp] theorem State.setTxn_err (l : Nat) (f : Txn → Txn) : (s.setTxn l f).err = s.err := rfl
@[simp] theorem State.setTxn_boot (l : Nat) (f : Txn → Txn) : (s.setTxn l f).boot = s.boot := rfl
@[simp] theorem State.setTxn_mgt (l : Nat) (f : Txn → Txn) : (s.setTxn l f).mgt = s.mgt := rfl
@[simp] theorem State.setTxn_pwr (l : Nat) (f : Txn → Txn) : (s.setTxn l f).pwr = s.pwr := rfl
@[simp] theorem State.setTxn_due (l : Nat) (f : Txn → Txn) : (s.setTxn l f).due = s.due := rfl

/-! ### endTxn -/
@[simp] theorem State.endTxn_pending (l : Nat) : (s.endTxn l).pending = s.pending := rfl
@[simp] theorem State.endTxn_out (l : Nat) : (s.endTxn l).out = s.out := rfl
@[simp] theorem State.endTxn_free (l : Nat) : (s.endTxn l).free = s.free := rfl
@[simp] theorem State.endTxn_nextId (l : Nat) : (s.endTxn l).nextId = s.nextId := rfl
@[simp] theorem State.endTxn_now (l : Nat) : (s.endTxn l).now = s.now := rfl
@[simp] theorem State.endTxn_frac (l : Nat) : (s.endTxn l).frac = s.frac := rfl
@[simp] theorem State.endTxn_cfg (l : Nat) : (s.endTxn l).cfg = s.cfg := rfl
@[simp] theorem State.endTxn_stat (l : Nat) : (s.endTxn l).stat = s.stat := rfl
@[simp] theorem State.endTxn_xp (l : Nat) : (s.endTxn l).xp = s.xp := rfl
@[simp] theorem State.endTxn_cmds (l : Nat) : (s.endTxn l).cmds = s.cmds := rfl
@[simp] theorem State.endTxn_mem (l : Nat) : (s.endTxn l).mem = s.mem := rfl
@[simp] theorem State.endTxn_cache (l : Nat) : (s.endTxn l).cache = s.cache := rfl
@[simp] theorem State.endTxn_ext (l : Nat) : (s.endTxn l).ext = s.ext := rfl
@[simp] theorem State.endTxn_vr (l : Nat) : (s.endTxn l).vr = s.vr := rfl
@[simp] theorem State.endTxn_flash (l : Nat) : (s.endTxn l).flash = s.flash := rfl
@[simp] theorem State.endTxn_pace (l : Nat) : (s.endTxn l).pace = s.pace := rfl
@[simp] theorem State.endTxn_te (l : Nat) : (s.endTxn l).te = s.te := rfl
@[simp] theorem State.endTxn_lanes (l : Nat) : (s.endTxn l).lanes = s.lanes := rfl
@[simp] theorem State.endTxn_seStatus (l : Nat) : (s.endTxn l).seStatus = s.seStatus := rfl
@[simp] theorem State.endTxn_saveStatus (l : Nat) : (s.endTxn l).saveStatus = s.saveStatus := rfl
@[simp] theorem State.endTxn_gu (l : Nat) : (s.endTxn l).gu = s.gu := rfl
@[simp] theorem State.endTxn_units (l : Nat) : (s.endTxn l).units = s.units := rfl
@[simp] theorem State.endTxn_hdl (l : Nat) : (s.endTxn l).hdl = s.hdl := rfl
@[simp] theorem State.endTxn_sw (l : Nat) : (s.endTxn l).sw = s.sw := rfl
@[simp] theorem State.endTxn_fab (l : Nat) : (s.endTxn l).fab = s.fab := rfl
@[simp] theorem State.endTxn_err (l : Nat) : (s.endTxn l).err = s.err := rfl
@[simp] theorem State.endTxn_boot (l : Nat) : (s.endTxn l).boot = s.boot := rfl
@[simp] theorem State.endTxn_mgt (l : Nat) : (s.endTxn l).mgt = s.mgt := rfl
@[simp] theorem State.endTxn_pwr (l : Nat) : (s.endTxn l).pwr = s.pwr := rfl
@[simp] theorem State.endTxn_due (l : Nat) : (s.endTxn l).due = s.due := rfl

/-! ### setRegion -/
@[simp] theorem State.setRegion_pending (r : Nat) (f : Region → Region) : (s.setRegion r f).pending = s.pending := rfl
@[simp] theorem State.setRegion_out (r : Nat) (f : Region → Region) : (s.setRegion r f).out = s.out := rfl
@[simp] theorem State.setRegion_free (r : Nat) (f : Region → Region) : (s.setRegion r f).free = s.free := rfl
@[simp] theorem State.setRegion_nextId (r : Nat) (f : Region → Region) : (s.setRegion r f).nextId = s.nextId := rfl
@[simp] theorem State.setRegion_now (r : Nat) (f : Region → Region) : (s.setRegion r f).now = s.now := rfl
@[simp] theorem State.setRegion_frac (r : Nat) (f : Region → Region) : (s.setRegion r f).frac = s.frac := rfl
@[simp] theorem State.setRegion_cfg (r : Nat) (f : Region → Region) : (s.setRegion r f).cfg = s.cfg := rfl
@[simp] theorem State.setRegion_stat (r : Nat) (f : Region → Region) : (s.setRegion r f).stat = s.stat := rfl
@[simp] theorem State.setRegion_xp (r : Nat) (f : Region → Region) : (s.setRegion r f).xp = s.xp := rfl
@[simp] theorem State.setRegion_cmds (r : Nat) (f : Region → Region) : (s.setRegion r f).cmds = s.cmds := rfl
@[simp] theorem State.setRegion_mem (r : Nat) (f : Region → Region) : (s.setRegion r f).mem = s.mem := rfl
@[simp] theorem State.setRegion_cache (r : Nat) (f : Region → Region) : (s.setRegion r f).cache = s.cache := rfl
@[simp] theorem State.setRegion_ext (r : Nat) (f : Region → Region) : (s.setRegion r f).ext = s.ext := rfl
@[simp] theorem State.setRegion_dir (r : Nat) (f : Region → Region) : (s.setRegion r f).dir = s.dir := rfl
@[simp] theorem State.setRegion_flash (r : Nat) (f : Region → Region) : (s.setRegion r f).flash = s.flash := rfl
@[simp] theorem State.setRegion_pace (r : Nat) (f : Region → Region) : (s.setRegion r f).pace = s.pace := rfl
@[simp] theorem State.setRegion_te (r : Nat) (f : Region → Region) : (s.setRegion r f).te = s.te := rfl
@[simp] theorem State.setRegion_lanes (r : Nat) (f : Region → Region) : (s.setRegion r f).lanes = s.lanes := rfl
@[simp] theorem State.setRegion_seStatus (r : Nat) (f : Region → Region) : (s.setRegion r f).seStatus = s.seStatus := rfl
@[simp] theorem State.setRegion_saveStatus (r : Nat) (f : Region → Region) : (s.setRegion r f).saveStatus = s.saveStatus := rfl
@[simp] theorem State.setRegion_gu (r : Nat) (f : Region → Region) : (s.setRegion r f).gu = s.gu := rfl
@[simp] theorem State.setRegion_units (r : Nat) (f : Region → Region) : (s.setRegion r f).units = s.units := rfl
@[simp] theorem State.setRegion_hdl (r : Nat) (f : Region → Region) : (s.setRegion r f).hdl = s.hdl := rfl
@[simp] theorem State.setRegion_sw (r : Nat) (f : Region → Region) : (s.setRegion r f).sw = s.sw := rfl
@[simp] theorem State.setRegion_fab (r : Nat) (f : Region → Region) : (s.setRegion r f).fab = s.fab := rfl
@[simp] theorem State.setRegion_err (r : Nat) (f : Region → Region) : (s.setRegion r f).err = s.err := rfl
@[simp] theorem State.setRegion_boot (r : Nat) (f : Region → Region) : (s.setRegion r f).boot = s.boot := rfl
@[simp] theorem State.setRegion_mgt (r : Nat) (f : Region → Region) : (s.setRegion r f).mgt = s.mgt := rfl
@[simp] theorem State.setRegion_pwr (r : Nat) (f : Region → Region) : (s.setRegion r f).pwr = s.pwr := rfl
@[simp] theorem State.setRegion_due (r : Nat) (f : Region → Region) : (s.setRegion r f).due = s.due := rfl

/-! ### setBlock -/
@[simp] theorem State.setBlock_pending (c b : Nat) (f : Block → Block) : (s.setBlock c b f).pending = s.pending := rfl
@[simp] theorem State.setBlock_out (c b : Nat) (f : Block → Block) : (s.setBlock c b f).out = s.out := rfl
@[simp] theorem State.setBlock_free (c b : Nat) (f : Block → Block) : (s.setBlock c b f).free = s.free := rfl
@[simp] theorem State.setBlock_nextId (c b : Nat) (f : Block → Block) : (s.setBlock c b f).nextId = s.nextId := rfl
@[simp] theorem State.setBlock_now (c b : Nat) (f : Block → Block) : (s.setBlock c b f).now = s.now := rfl
@[simp] theorem State.setBlock_frac (c b : Nat) (f : Block → Block) : (s.setBlock c b f).frac = s.frac := rfl
@[simp] theorem State.setBlock_cfg (c b : Nat) (f : Block → Block) : (s.setBlock c b f).cfg = s.cfg := rfl
@[simp] theorem State.setBlock_stat (c b : Nat) (f : Block → Block) : (s.setBlock c b f).stat = s.stat := rfl
@[simp] theorem State.setBlock_xp (c b : Nat) (f : Block → Block) : (s.setBlock c b f).xp = s.xp := rfl
@[simp] theorem State.setBlock_cmds (c b : Nat) (f : Block → Block) : (s.setBlock c b f).cmds = s.cmds := rfl
@[simp] theorem State.setBlock_mem (c b : Nat) (f : Block → Block) : (s.setBlock c b f).mem = s.mem := rfl
@[simp] theorem State.setBlock_cache (c b : Nat) (f : Block → Block) : (s.setBlock c b f).cache = s.cache := rfl
@[simp] theorem State.setBlock_ext (c b : Nat) (f : Block → Block) : (s.setBlock c b f).ext = s.ext := rfl
@[simp] theorem State.setBlock_dir (c b : Nat) (f : Block → Block) : (s.setBlock c b f).dir = s.dir := rfl
@[simp] theorem State.setBlock_vr (c b : Nat) (f : Block → Block) : (s.setBlock c b f).vr = s.vr := rfl
@[simp] theorem State.setBlock_pace (c b : Nat) (f : Block → Block) : (s.setBlock c b f).pace = s.pace := rfl
@[simp] theorem State.setBlock_te (c b : Nat) (f : Block → Block) : (s.setBlock c b f).te = s.te := rfl
@[simp] theorem State.setBlock_lanes (c b : Nat) (f : Block → Block) : (s.setBlock c b f).lanes = s.lanes := rfl
@[simp] theorem State.setBlock_seStatus (c b : Nat) (f : Block → Block) : (s.setBlock c b f).seStatus = s.seStatus := rfl
@[simp] theorem State.setBlock_saveStatus (c b : Nat) (f : Block → Block) : (s.setBlock c b f).saveStatus = s.saveStatus := rfl
@[simp] theorem State.setBlock_gu (c b : Nat) (f : Block → Block) : (s.setBlock c b f).gu = s.gu := rfl
@[simp] theorem State.setBlock_units (c b : Nat) (f : Block → Block) : (s.setBlock c b f).units = s.units := rfl
@[simp] theorem State.setBlock_hdl (c b : Nat) (f : Block → Block) : (s.setBlock c b f).hdl = s.hdl := rfl
@[simp] theorem State.setBlock_sw (c b : Nat) (f : Block → Block) : (s.setBlock c b f).sw = s.sw := rfl
@[simp] theorem State.setBlock_fab (c b : Nat) (f : Block → Block) : (s.setBlock c b f).fab = s.fab := rfl
@[simp] theorem State.setBlock_err (c b : Nat) (f : Block → Block) : (s.setBlock c b f).err = s.err := rfl
@[simp] theorem State.setBlock_boot (c b : Nat) (f : Block → Block) : (s.setBlock c b f).boot = s.boot := rfl
@[simp] theorem State.setBlock_mgt (c b : Nat) (f : Block → Block) : (s.setBlock c b f).mgt = s.mgt := rfl
@[simp] theorem State.setBlock_pwr (c b : Nat) (f : Block → Block) : (s.setBlock c b f).pwr = s.pwr := rfl
@[simp] theorem State.setBlock_due (c b : Nat) (f : Block → Block) : (s.setBlock c b f).due = s.due := rfl

/-! ### setStream -/
@[simp] theorem State.setStream_pending (q k : Nat) (f : Stream → Stream) : (s.setStream q k f).pending = s.pending := rfl
@[simp] theorem State.setStream_out (q k : Nat) (f : Stream → Stream) : (s.setStream q k f).out = s.out := rfl
@[simp] theorem State.setStream_free (q k : Nat) (f : Stream → Stream) : (s.setStream q k f).free = s.free := rfl
@[simp] theorem State.setStream_nextId (q k : Nat) (f : Stream → Stream) : (s.setStream q k f).nextId = s.nextId := rfl
@[simp] theorem State.setStream_now (q k : Nat) (f : Stream → Stream) : (s.setStream q k f).now = s.now := rfl
@[simp] theorem State.setStream_frac (q k : Nat) (f : Stream → Stream) : (s.setStream q k f).frac = s.frac := rfl
@[simp] theorem State.setStream_cfg (q k : Nat) (f : Stream → Stream) : (s.setStream q k f).cfg = s.cfg := rfl
@[simp] theorem State.setStream_stat (q k : Nat) (f : Stream → Stream) : (s.setStream q k f).stat = s.stat := rfl
@[simp] theorem State.setStream_xp (q k : Nat) (f : Stream → Stream) : (s.setStream q k f).xp = s.xp := rfl
@[simp] theorem State.setStream_cmds (q k : Nat) (f : Stream → Stream) : (s.setStream q k f).cmds = s.cmds := rfl
@[simp] theorem State.setStream_mem (q k : Nat) (f : Stream → Stream) : (s.setStream q k f).mem = s.mem := rfl
@[simp] theorem State.setStream_cache (q k : Nat) (f : Stream → Stream) : (s.setStream q k f).cache = s.cache := rfl
@[simp] theorem State.setStream_ext (q k : Nat) (f : Stream → Stream) : (s.setStream q k f).ext = s.ext := rfl
@[simp] theorem State.setStream_dir (q k : Nat) (f : Stream → Stream) : (s.setStream q k f).dir = s.dir := rfl
@[simp] theorem State.setStream_vr (q k : Nat) (f : Stream → Stream) : (s.setStream q k f).vr = s.vr := rfl
@[simp] theorem State.setStream_flash (q k : Nat) (f : Stream → Stream) : (s.setStream q k f).flash = s.flash := rfl
@[simp] theorem State.setStream_te (q k : Nat) (f : Stream → Stream) : (s.setStream q k f).te = s.te := rfl
@[simp] theorem State.setStream_lanes (q k : Nat) (f : Stream → Stream) : (s.setStream q k f).lanes = s.lanes := rfl
@[simp] theorem State.setStream_seStatus (q k : Nat) (f : Stream → Stream) : (s.setStream q k f).seStatus = s.seStatus := rfl
@[simp] theorem State.setStream_saveStatus (q k : Nat) (f : Stream → Stream) : (s.setStream q k f).saveStatus = s.saveStatus := rfl
@[simp] theorem State.setStream_gu (q k : Nat) (f : Stream → Stream) : (s.setStream q k f).gu = s.gu := rfl
@[simp] theorem State.setStream_units (q k : Nat) (f : Stream → Stream) : (s.setStream q k f).units = s.units := rfl
@[simp] theorem State.setStream_hdl (q k : Nat) (f : Stream → Stream) : (s.setStream q k f).hdl = s.hdl := rfl
@[simp] theorem State.setStream_sw (q k : Nat) (f : Stream → Stream) : (s.setStream q k f).sw = s.sw := rfl
@[simp] theorem State.setStream_fab (q k : Nat) (f : Stream → Stream) : (s.setStream q k f).fab = s.fab := rfl
@[simp] theorem State.setStream_err (q k : Nat) (f : Stream → Stream) : (s.setStream q k f).err = s.err := rfl
@[simp] theorem State.setStream_boot (q k : Nat) (f : Stream → Stream) : (s.setStream q k f).boot = s.boot := rfl
@[simp] theorem State.setStream_mgt (q k : Nat) (f : Stream → Stream) : (s.setStream q k f).mgt = s.mgt := rfl
@[simp] theorem State.setStream_pwr (q k : Nat) (f : Stream → Stream) : (s.setStream q k f).pwr = s.pwr := rfl
@[simp] theorem State.setStream_due (q k : Nat) (f : Stream → Stream) : (s.setStream q k f).due = s.due := rfl

/-! ### setLane -/
@[simp] theorem State.setLane_pending (l : Nat) (f : Lane → Lane) : (s.setLane l f).pending = s.pending := rfl
@[simp] theorem State.setLane_out (l : Nat) (f : Lane → Lane) : (s.setLane l f).out = s.out := rfl
@[simp] theorem State.setLane_free (l : Nat) (f : Lane → Lane) : (s.setLane l f).free = s.free := rfl
@[simp] theorem State.setLane_nextId (l : Nat) (f : Lane → Lane) : (s.setLane l f).nextId = s.nextId := rfl
@[simp] theorem State.setLane_now (l : Nat) (f : Lane → Lane) : (s.setLane l f).now = s.now := rfl
@[simp] theorem State.setLane_frac (l : Nat) (f : Lane → Lane) : (s.setLane l f).frac = s.frac := rfl
@[simp] theorem State.setLane_cfg (l : Nat) (f : Lane → Lane) : (s.setLane l f).cfg = s.cfg := rfl
@[simp] theorem State.setLane_stat (l : Nat) (f : Lane → Lane) : (s.setLane l f).stat = s.stat := rfl
@[simp] theorem State.setLane_xp (l : Nat) (f : Lane → Lane) : (s.setLane l f).xp = s.xp := rfl
@[simp] theorem State.setLane_cmds (l : Nat) (f : Lane → Lane) : (s.setLane l f).cmds = s.cmds := rfl
@[simp] theorem State.setLane_mem (l : Nat) (f : Lane → Lane) : (s.setLane l f).mem = s.mem := rfl
@[simp] theorem State.setLane_cache (l : Nat) (f : Lane → Lane) : (s.setLane l f).cache = s.cache := rfl
@[simp] theorem State.setLane_ext (l : Nat) (f : Lane → Lane) : (s.setLane l f).ext = s.ext := rfl
@[simp] theorem State.setLane_dir (l : Nat) (f : Lane → Lane) : (s.setLane l f).dir = s.dir := rfl
@[simp] theorem State.setLane_vr (l : Nat) (f : Lane → Lane) : (s.setLane l f).vr = s.vr := rfl
@[simp] theorem State.setLane_flash (l : Nat) (f : Lane → Lane) : (s.setLane l f).flash = s.flash := rfl
@[simp] theorem State.setLane_pace (l : Nat) (f : Lane → Lane) : (s.setLane l f).pace = s.pace := rfl
@[simp] theorem State.setLane_te (l : Nat) (f : Lane → Lane) : (s.setLane l f).te = s.te := rfl
@[simp] theorem State.setLane_seStatus (l : Nat) (f : Lane → Lane) : (s.setLane l f).seStatus = s.seStatus := rfl
@[simp] theorem State.setLane_saveStatus (l : Nat) (f : Lane → Lane) : (s.setLane l f).saveStatus = s.saveStatus := rfl
@[simp] theorem State.setLane_gu (l : Nat) (f : Lane → Lane) : (s.setLane l f).gu = s.gu := rfl
@[simp] theorem State.setLane_units (l : Nat) (f : Lane → Lane) : (s.setLane l f).units = s.units := rfl
@[simp] theorem State.setLane_hdl (l : Nat) (f : Lane → Lane) : (s.setLane l f).hdl = s.hdl := rfl
@[simp] theorem State.setLane_sw (l : Nat) (f : Lane → Lane) : (s.setLane l f).sw = s.sw := rfl
@[simp] theorem State.setLane_fab (l : Nat) (f : Lane → Lane) : (s.setLane l f).fab = s.fab := rfl
@[simp] theorem State.setLane_err (l : Nat) (f : Lane → Lane) : (s.setLane l f).err = s.err := rfl
@[simp] theorem State.setLane_boot (l : Nat) (f : Lane → Lane) : (s.setLane l f).boot = s.boot := rfl
@[simp] theorem State.setLane_mgt (l : Nat) (f : Lane → Lane) : (s.setLane l f).mgt = s.mgt := rfl
@[simp] theorem State.setLane_pwr (l : Nat) (f : Lane → Lane) : (s.setLane l f).pwr = s.pwr := rfl
@[simp] theorem State.setLane_due (l : Nat) (f : Lane → Lane) : (s.setLane l f).due = s.due := rfl

/-! ### setGroup -/
@[simp] theorem State.setGroup_pending (g : Nat) (f : Group → Group) : (s.setGroup g f).pending = s.pending := rfl
@[simp] theorem State.setGroup_out (g : Nat) (f : Group → Group) : (s.setGroup g f).out = s.out := rfl
@[simp] theorem State.setGroup_free (g : Nat) (f : Group → Group) : (s.setGroup g f).free = s.free := rfl
@[simp] theorem State.setGroup_nextId (g : Nat) (f : Group → Group) : (s.setGroup g f).nextId = s.nextId := rfl
@[simp] theorem State.setGroup_now (g : Nat) (f : Group → Group) : (s.setGroup g f).now = s.now := rfl
@[simp] theorem State.setGroup_frac (g : Nat) (f : Group → Group) : (s.setGroup g f).frac = s.frac := rfl
@[simp] theorem State.setGroup_cfg (g : Nat) (f : Group → Group) : (s.setGroup g f).cfg = s.cfg := rfl
@[simp] theorem State.setGroup_stat (g : Nat) (f : Group → Group) : (s.setGroup g f).stat = s.stat := rfl
@[simp] theorem State.setGroup_xp (g : Nat) (f : Group → Group) : (s.setGroup g f).xp = s.xp := rfl
@[simp] theorem State.setGroup_cmds (g : Nat) (f : Group → Group) : (s.setGroup g f).cmds = s.cmds := rfl
@[simp] theorem State.setGroup_mem (g : Nat) (f : Group → Group) : (s.setGroup g f).mem = s.mem := rfl
@[simp] theorem State.setGroup_cache (g : Nat) (f : Group → Group) : (s.setGroup g f).cache = s.cache := rfl
@[simp] theorem State.setGroup_ext (g : Nat) (f : Group → Group) : (s.setGroup g f).ext = s.ext := rfl
@[simp] theorem State.setGroup_dir (g : Nat) (f : Group → Group) : (s.setGroup g f).dir = s.dir := rfl
@[simp] theorem State.setGroup_vr (g : Nat) (f : Group → Group) : (s.setGroup g f).vr = s.vr := rfl
@[simp] theorem State.setGroup_flash (g : Nat) (f : Group → Group) : (s.setGroup g f).flash = s.flash := rfl
@[simp] theorem State.setGroup_pace (g : Nat) (f : Group → Group) : (s.setGroup g f).pace = s.pace := rfl
@[simp] theorem State.setGroup_te (g : Nat) (f : Group → Group) : (s.setGroup g f).te = s.te := rfl
@[simp] theorem State.setGroup_lanes (g : Nat) (f : Group → Group) : (s.setGroup g f).lanes = s.lanes := rfl
@[simp] theorem State.setGroup_seStatus (g : Nat) (f : Group → Group) : (s.setGroup g f).seStatus = s.seStatus := rfl
@[simp] theorem State.setGroup_saveStatus (g : Nat) (f : Group → Group) : (s.setGroup g f).saveStatus = s.saveStatus := rfl
@[simp] theorem State.setGroup_units (g : Nat) (f : Group → Group) : (s.setGroup g f).units = s.units := rfl
@[simp] theorem State.setGroup_hdl (g : Nat) (f : Group → Group) : (s.setGroup g f).hdl = s.hdl := rfl
@[simp] theorem State.setGroup_sw (g : Nat) (f : Group → Group) : (s.setGroup g f).sw = s.sw := rfl
@[simp] theorem State.setGroup_fab (g : Nat) (f : Group → Group) : (s.setGroup g f).fab = s.fab := rfl
@[simp] theorem State.setGroup_err (g : Nat) (f : Group → Group) : (s.setGroup g f).err = s.err := rfl
@[simp] theorem State.setGroup_boot (g : Nat) (f : Group → Group) : (s.setGroup g f).boot = s.boot := rfl
@[simp] theorem State.setGroup_mgt (g : Nat) (f : Group → Group) : (s.setGroup g f).mgt = s.mgt := rfl
@[simp] theorem State.setGroup_pwr (g : Nat) (f : Group → Group) : (s.setGroup g f).pwr = s.pwr := rfl
@[simp] theorem State.setGroup_due (g : Nat) (f : Group → Group) : (s.setGroup g f).due = s.due := rfl

/-! ### setUnit -/
@[simp] theorem State.setUnit_pending (u q : Nat) (f : EngUnit → EngUnit) : (s.setUnit u q f).pending = s.pending := rfl
@[simp] theorem State.setUnit_out (u q : Nat) (f : EngUnit → EngUnit) : (s.setUnit u q f).out = s.out := rfl
@[simp] theorem State.setUnit_free (u q : Nat) (f : EngUnit → EngUnit) : (s.setUnit u q f).free = s.free := rfl
@[simp] theorem State.setUnit_nextId (u q : Nat) (f : EngUnit → EngUnit) : (s.setUnit u q f).nextId = s.nextId := rfl
@[simp] theorem State.setUnit_now (u q : Nat) (f : EngUnit → EngUnit) : (s.setUnit u q f).now = s.now := rfl
@[simp] theorem State.setUnit_frac (u q : Nat) (f : EngUnit → EngUnit) : (s.setUnit u q f).frac = s.frac := rfl
@[simp] theorem State.setUnit_cfg (u q : Nat) (f : EngUnit → EngUnit) : (s.setUnit u q f).cfg = s.cfg := rfl
@[simp] theorem State.setUnit_stat (u q : Nat) (f : EngUnit → EngUnit) : (s.setUnit u q f).stat = s.stat := rfl
@[simp] theorem State.setUnit_xp (u q : Nat) (f : EngUnit → EngUnit) : (s.setUnit u q f).xp = s.xp := rfl
@[simp] theorem State.setUnit_cmds (u q : Nat) (f : EngUnit → EngUnit) : (s.setUnit u q f).cmds = s.cmds := rfl
@[simp] theorem State.setUnit_mem (u q : Nat) (f : EngUnit → EngUnit) : (s.setUnit u q f).mem = s.mem := rfl
@[simp] theorem State.setUnit_cache (u q : Nat) (f : EngUnit → EngUnit) : (s.setUnit u q f).cache = s.cache := rfl
@[simp] theorem State.setUnit_ext (u q : Nat) (f : EngUnit → EngUnit) : (s.setUnit u q f).ext = s.ext := rfl
@[simp] theorem State.setUnit_dir (u q : Nat) (f : EngUnit → EngUnit) : (s.setUnit u q f).dir = s.dir := rfl
@[simp] theorem State.setUnit_vr (u q : Nat) (f : EngUnit → EngUnit) : (s.setUnit u q f).vr = s.vr := rfl
@[simp] theorem State.setUnit_flash (u q : Nat) (f : EngUnit → EngUnit) : (s.setUnit u q f).flash = s.flash := rfl
@[simp] theorem State.setUnit_pace (u q : Nat) (f : EngUnit → EngUnit) : (s.setUnit u q f).pace = s.pace := rfl
@[simp] theorem State.setUnit_te (u q : Nat) (f : EngUnit → EngUnit) : (s.setUnit u q f).te = s.te := rfl
@[simp] theorem State.setUnit_lanes (u q : Nat) (f : EngUnit → EngUnit) : (s.setUnit u q f).lanes = s.lanes := rfl
@[simp] theorem State.setUnit_seStatus (u q : Nat) (f : EngUnit → EngUnit) : (s.setUnit u q f).seStatus = s.seStatus := rfl
@[simp] theorem State.setUnit_saveStatus (u q : Nat) (f : EngUnit → EngUnit) : (s.setUnit u q f).saveStatus = s.saveStatus := rfl
@[simp] theorem State.setUnit_gu (u q : Nat) (f : EngUnit → EngUnit) : (s.setUnit u q f).gu = s.gu := rfl
@[simp] theorem State.setUnit_hdl (u q : Nat) (f : EngUnit → EngUnit) : (s.setUnit u q f).hdl = s.hdl := rfl
@[simp] theorem State.setUnit_sw (u q : Nat) (f : EngUnit → EngUnit) : (s.setUnit u q f).sw = s.sw := rfl
@[simp] theorem State.setUnit_fab (u q : Nat) (f : EngUnit → EngUnit) : (s.setUnit u q f).fab = s.fab := rfl
@[simp] theorem State.setUnit_err (u q : Nat) (f : EngUnit → EngUnit) : (s.setUnit u q f).err = s.err := rfl
@[simp] theorem State.setUnit_boot (u q : Nat) (f : EngUnit → EngUnit) : (s.setUnit u q f).boot = s.boot := rfl
@[simp] theorem State.setUnit_mgt (u q : Nat) (f : EngUnit → EngUnit) : (s.setUnit u q f).mgt = s.mgt := rfl
@[simp] theorem State.setUnit_pwr (u q : Nat) (f : EngUnit → EngUnit) : (s.setUnit u q f).pwr = s.pwr := rfl
@[simp] theorem State.setUnit_due (u q : Nat) (f : EngUnit → EngUnit) : (s.setUnit u q f).due = s.due := rfl

/-! ### setHurdle -/
@[simp] theorem State.setHurdle_pending (h : Nat) (f : Hurdle → Hurdle) : (s.setHurdle h f).pending = s.pending := rfl
@[simp] theorem State.setHurdle_out (h : Nat) (f : Hurdle → Hurdle) : (s.setHurdle h f).out = s.out := rfl
@[simp] theorem State.setHurdle_free (h : Nat) (f : Hurdle → Hurdle) : (s.setHurdle h f).free = s.free := rfl
@[simp] theorem State.setHurdle_nextId (h : Nat) (f : Hurdle → Hurdle) : (s.setHurdle h f).nextId = s.nextId := rfl
@[simp] theorem State.setHurdle_now (h : Nat) (f : Hurdle → Hurdle) : (s.setHurdle h f).now = s.now := rfl
@[simp] theorem State.setHurdle_frac (h : Nat) (f : Hurdle → Hurdle) : (s.setHurdle h f).frac = s.frac := rfl
@[simp] theorem State.setHurdle_cfg (h : Nat) (f : Hurdle → Hurdle) : (s.setHurdle h f).cfg = s.cfg := rfl
@[simp] theorem State.setHurdle_stat (h : Nat) (f : Hurdle → Hurdle) : (s.setHurdle h f).stat = s.stat := rfl
@[simp] theorem State.setHurdle_xp (h : Nat) (f : Hurdle → Hurdle) : (s.setHurdle h f).xp = s.xp := rfl
@[simp] theorem State.setHurdle_cmds (h : Nat) (f : Hurdle → Hurdle) : (s.setHurdle h f).cmds = s.cmds := rfl
@[simp] theorem State.setHurdle_mem (h : Nat) (f : Hurdle → Hurdle) : (s.setHurdle h f).mem = s.mem := rfl
@[simp] theorem State.setHurdle_cache (h : Nat) (f : Hurdle → Hurdle) : (s.setHurdle h f).cache = s.cache := rfl
@[simp] theorem State.setHurdle_ext (h : Nat) (f : Hurdle → Hurdle) : (s.setHurdle h f).ext = s.ext := rfl
@[simp] theorem State.setHurdle_dir (h : Nat) (f : Hurdle → Hurdle) : (s.setHurdle h f).dir = s.dir := rfl
@[simp] theorem State.setHurdle_vr (h : Nat) (f : Hurdle → Hurdle) : (s.setHurdle h f).vr = s.vr := rfl
@[simp] theorem State.setHurdle_flash (h : Nat) (f : Hurdle → Hurdle) : (s.setHurdle h f).flash = s.flash := rfl
@[simp] theorem State.setHurdle_pace (h : Nat) (f : Hurdle → Hurdle) : (s.setHurdle h f).pace = s.pace := rfl
@[simp] theorem State.setHurdle_te (h : Nat) (f : Hurdle → Hurdle) : (s.setHurdle h f).te = s.te := rfl
@[simp] theorem State.setHurdle_lanes (h : Nat) (f : Hurdle → Hurdle) : (s.setHurdle h f).lanes = s.lanes := rfl
@[simp] theorem State.setHurdle_seStatus (h : Nat) (f : Hurdle → Hurdle) : (s.setHurdle h f).seStatus = s.seStatus := rfl
@[simp] theorem State.setHurdle_saveStatus (h : Nat) (f : Hurdle → Hurdle) : (s.setHurdle h f).saveStatus = s.saveStatus := rfl
@[simp] theorem State.setHurdle_gu (h : Nat) (f : Hurdle → Hurdle) : (s.setHurdle h f).gu = s.gu := rfl
@[simp] theorem State.setHurdle_units (h : Nat) (f : Hurdle → Hurdle) : (s.setHurdle h f).units = s.units := rfl
@[simp] theorem State.setHurdle_sw (h : Nat) (f : Hurdle → Hurdle) : (s.setHurdle h f).sw = s.sw := rfl
@[simp] theorem State.setHurdle_fab (h : Nat) (f : Hurdle → Hurdle) : (s.setHurdle h f).fab = s.fab := rfl
@[simp] theorem State.setHurdle_err (h : Nat) (f : Hurdle → Hurdle) : (s.setHurdle h f).err = s.err := rfl
@[simp] theorem State.setHurdle_boot (h : Nat) (f : Hurdle → Hurdle) : (s.setHurdle h f).boot = s.boot := rfl
@[simp] theorem State.setHurdle_mgt (h : Nat) (f : Hurdle → Hurdle) : (s.setHurdle h f).mgt = s.mgt := rfl
@[simp] theorem State.setHurdle_pwr (h : Nat) (f : Hurdle → Hurdle) : (s.setHurdle h f).pwr = s.pwr := rfl
@[simp] theorem State.setHurdle_due (h : Nat) (f : Hurdle → Hurdle) : (s.setHurdle h f).due = s.due := rfl

/-! ### setSwQueue -/
@[simp] theorem State.setSwQueue_pending (o c : Nat) (f : List QItem → List QItem) : (s.setSwQueue o c f).pending = s.pending := rfl
@[simp] theorem State.setSwQueue_out (o c : Nat) (f : List QItem → List QItem) : (s.setSwQueue o c f).out = s.out := rfl
@[simp] theorem State.setSwQueue_free (o c : Nat) (f : List QItem → List QItem) : (s.setSwQueue o c f).free = s.free := rfl
@[simp] theorem State.setSwQueue_nextId (o c : Nat) (f : List QItem → List QItem) : (s.setSwQueue o c f).nextId = s.nextId := rfl
@[simp] theorem State.setSwQueue_now (o c : Nat) (f : List QItem → List QItem) : (s.setSwQueue o c f).now = s.now := rfl
@[simp] theorem State.setSwQueue_frac (o c : Nat) (f : List QItem → List QItem) : (s.setSwQueue o c f).frac = s.frac := rfl
@[simp] theorem State.setSwQueue_cfg (o c : Nat) (f : List QItem → List QItem) : (s.setSwQueue o c f).cfg = s.cfg := rfl
@[simp] theorem State.setSwQueue_stat (o c : Nat) (f : List QItem → List QItem) : (s.setSwQueue o c f).stat = s.stat := rfl
@[simp] theorem State.setSwQueue_xp (o c : Nat) (f : List QItem → List QItem) : (s.setSwQueue o c f).xp = s.xp := rfl
@[simp] theorem State.setSwQueue_cmds (o c : Nat) (f : List QItem → List QItem) : (s.setSwQueue o c f).cmds = s.cmds := rfl
@[simp] theorem State.setSwQueue_mem (o c : Nat) (f : List QItem → List QItem) : (s.setSwQueue o c f).mem = s.mem := rfl
@[simp] theorem State.setSwQueue_cache (o c : Nat) (f : List QItem → List QItem) : (s.setSwQueue o c f).cache = s.cache := rfl
@[simp] theorem State.setSwQueue_ext (o c : Nat) (f : List QItem → List QItem) : (s.setSwQueue o c f).ext = s.ext := rfl
@[simp] theorem State.setSwQueue_dir (o c : Nat) (f : List QItem → List QItem) : (s.setSwQueue o c f).dir = s.dir := rfl
@[simp] theorem State.setSwQueue_vr (o c : Nat) (f : List QItem → List QItem) : (s.setSwQueue o c f).vr = s.vr := rfl
@[simp] theorem State.setSwQueue_flash (o c : Nat) (f : List QItem → List QItem) : (s.setSwQueue o c f).flash = s.flash := rfl
@[simp] theorem State.setSwQueue_pace (o c : Nat) (f : List QItem → List QItem) : (s.setSwQueue o c f).pace = s.pace := rfl
@[simp] theorem State.setSwQueue_te (o c : Nat) (f : List QItem → List QItem) : (s.setSwQueue o c f).te = s.te := rfl
@[simp] theorem State.setSwQueue_lanes (o c : Nat) (f : List QItem → List QItem) : (s.setSwQueue o c f).lanes = s.lanes := rfl
@[simp] theorem State.setSwQueue_seStatus (o c : Nat) (f : List QItem → List QItem) : (s.setSwQueue o c f).seStatus = s.seStatus := rfl
@[simp] theorem State.setSwQueue_saveStatus (o c : Nat) (f : List QItem → List QItem) : (s.setSwQueue o c f).saveStatus = s.saveStatus := rfl
@[simp] theorem State.setSwQueue_gu (o c : Nat) (f : List QItem → List QItem) : (s.setSwQueue o c f).gu = s.gu := rfl
@[simp] theorem State.setSwQueue_units (o c : Nat) (f : List QItem → List QItem) : (s.setSwQueue o c f).units = s.units := rfl
@[simp] theorem State.setSwQueue_hdl (o c : Nat) (f : List QItem → List QItem) : (s.setSwQueue o c f).hdl = s.hdl := rfl
@[simp] theorem State.setSwQueue_fab (o c : Nat) (f : List QItem → List QItem) : (s.setSwQueue o c f).fab = s.fab := rfl
@[simp] theorem State.setSwQueue_err (o c : Nat) (f : List QItem → List QItem) : (s.setSwQueue o c f).err = s.err := rfl
@[simp] theorem State.setSwQueue_boot (o c : Nat) (f : List QItem → List QItem) : (s.setSwQueue o c f).boot = s.boot := rfl
@[simp] theorem State.setSwQueue_mgt (o c : Nat) (f : List QItem → List QItem) : (s.setSwQueue o c f).mgt = s.mgt := rfl
@[simp] theorem State.setSwQueue_pwr (o c : Nat) (f : List QItem → List QItem) : (s.setSwQueue o c f).pwr = s.pwr := rfl
@[simp] theorem State.setSwQueue_due (o c : Nat) (f : List QItem → List QItem) : (s.setSwQueue o c f).due = s.due := rfl

/-! ### setPolicer -/
@[simp] theorem State.setPolicer_pending (p : Nat) (x : Policer) : (s.setPolicer p x).pending = s.pending := rfl
@[simp] theorem State.setPolicer_out (p : Nat) (x : Policer) : (s.setPolicer p x).out = s.out := rfl
@[simp] theorem State.setPolicer_free (p : Nat) (x : Policer) : (s.setPolicer p x).free = s.free := rfl
@[simp] theorem State.setPolicer_nextId (p : Nat) (x : Policer) : (s.setPolicer p x).nextId = s.nextId := rfl
@[simp] theorem State.setPolicer_now (p : Nat) (x : Policer) : (s.setPolicer p x).now = s.now := rfl
@[simp] theorem State.setPolicer_frac (p : Nat) (x : Policer) : (s.setPolicer p x).frac = s.frac := rfl
@[simp] theorem State.setPolicer_cfg (p : Nat) (x : Policer) : (s.setPolicer p x).cfg = s.cfg := rfl
@[simp] theorem State.setPolicer_stat (p : Nat) (x : Policer) : (s.setPolicer p x).stat = s.stat := rfl
@[simp] theorem State.setPolicer_xp (p : Nat) (x : Policer) : (s.setPolicer p x).xp = s.xp := rfl
@[simp] theorem State.setPolicer_cmds (p : Nat) (x : Policer) : (s.setPolicer p x).cmds = s.cmds := rfl
@[simp] theorem State.setPolicer_mem (p : Nat) (x : Policer) : (s.setPolicer p x).mem = s.mem := rfl
@[simp] theorem State.setPolicer_cache (p : Nat) (x : Policer) : (s.setPolicer p x).cache = s.cache := rfl
@[simp] theorem State.setPolicer_ext (p : Nat) (x : Policer) : (s.setPolicer p x).ext = s.ext := rfl
@[simp] theorem State.setPolicer_dir (p : Nat) (x : Policer) : (s.setPolicer p x).dir = s.dir := rfl
@[simp] theorem State.setPolicer_vr (p : Nat) (x : Policer) : (s.setPolicer p x).vr = s.vr := rfl
@[simp] theorem State.setPolicer_flash (p : Nat) (x : Policer) : (s.setPolicer p x).flash = s.flash := rfl
@[simp] theorem State.setPolicer_pace (p : Nat) (x : Policer) : (s.setPolicer p x).pace = s.pace := rfl
@[simp] theorem State.setPolicer_te (p : Nat) (x : Policer) : (s.setPolicer p x).te = s.te := rfl
@[simp] theorem State.setPolicer_lanes (p : Nat) (x : Policer) : (s.setPolicer p x).lanes = s.lanes := rfl
@[simp] theorem State.setPolicer_seStatus (p : Nat) (x : Policer) : (s.setPolicer p x).seStatus = s.seStatus := rfl
@[simp] theorem State.setPolicer_saveStatus (p : Nat) (x : Policer) : (s.setPolicer p x).saveStatus = s.saveStatus := rfl
@[simp] theorem State.setPolicer_gu (p : Nat) (x : Policer) : (s.setPolicer p x).gu = s.gu := rfl
@[simp] theorem State.setPolicer_units (p : Nat) (x : Policer) : (s.setPolicer p x).units = s.units := rfl
@[simp] theorem State.setPolicer_hdl (p : Nat) (x : Policer) : (s.setPolicer p x).hdl = s.hdl := rfl
@[simp] theorem State.setPolicer_fab (p : Nat) (x : Policer) : (s.setPolicer p x).fab = s.fab := rfl
@[simp] theorem State.setPolicer_err (p : Nat) (x : Policer) : (s.setPolicer p x).err = s.err := rfl
@[simp] theorem State.setPolicer_boot (p : Nat) (x : Policer) : (s.setPolicer p x).boot = s.boot := rfl
@[simp] theorem State.setPolicer_mgt (p : Nat) (x : Policer) : (s.setPolicer p x).mgt = s.mgt := rfl
@[simp] theorem State.setPolicer_pwr (p : Nat) (x : Policer) : (s.setPolicer p x).pwr = s.pwr := rfl
@[simp] theorem State.setPolicer_due (p : Nat) (x : Policer) : (s.setPolicer p x).due = s.due := rfl

/-! ### setGates -/
@[simp] theorem State.setGates_pending (e : Nat) (f : Gates → Gates) : (s.setGates e f).pending = s.pending := rfl
@[simp] theorem State.setGates_out (e : Nat) (f : Gates → Gates) : (s.setGates e f).out = s.out := rfl
@[simp] theorem State.setGates_free (e : Nat) (f : Gates → Gates) : (s.setGates e f).free = s.free := rfl
@[simp] theorem State.setGates_nextId (e : Nat) (f : Gates → Gates) : (s.setGates e f).nextId = s.nextId := rfl
@[simp] theorem State.setGates_now (e : Nat) (f : Gates → Gates) : (s.setGates e f).now = s.now := rfl
@[simp] theorem State.setGates_frac (e : Nat) (f : Gates → Gates) : (s.setGates e f).frac = s.frac := rfl
@[simp] theorem State.setGates_cfg (e : Nat) (f : Gates → Gates) : (s.setGates e f).cfg = s.cfg := rfl
@[simp] theorem State.setGates_stat (e : Nat) (f : Gates → Gates) : (s.setGates e f).stat = s.stat := rfl
@[simp] theorem State.setGates_xp (e : Nat) (f : Gates → Gates) : (s.setGates e f).xp = s.xp := rfl
@[simp] theorem State.setGates_cmds (e : Nat) (f : Gates → Gates) : (s.setGates e f).cmds = s.cmds := rfl
@[simp] theorem State.setGates_mem (e : Nat) (f : Gates → Gates) : (s.setGates e f).mem = s.mem := rfl
@[simp] theorem State.setGates_cache (e : Nat) (f : Gates → Gates) : (s.setGates e f).cache = s.cache := rfl
@[simp] theorem State.setGates_ext (e : Nat) (f : Gates → Gates) : (s.setGates e f).ext = s.ext := rfl
@[simp] theorem State.setGates_dir (e : Nat) (f : Gates → Gates) : (s.setGates e f).dir = s.dir := rfl
@[simp] theorem State.setGates_vr (e : Nat) (f : Gates → Gates) : (s.setGates e f).vr = s.vr := rfl
@[simp] theorem State.setGates_flash (e : Nat) (f : Gates → Gates) : (s.setGates e f).flash = s.flash := rfl
@[simp] theorem State.setGates_pace (e : Nat) (f : Gates → Gates) : (s.setGates e f).pace = s.pace := rfl
@[simp] theorem State.setGates_te (e : Nat) (f : Gates → Gates) : (s.setGates e f).te = s.te := rfl
@[simp] theorem State.setGates_lanes (e : Nat) (f : Gates → Gates) : (s.setGates e f).lanes = s.lanes := rfl
@[simp] theorem State.setGates_seStatus (e : Nat) (f : Gates → Gates) : (s.setGates e f).seStatus = s.seStatus := rfl
@[simp] theorem State.setGates_saveStatus (e : Nat) (f : Gates → Gates) : (s.setGates e f).saveStatus = s.saveStatus := rfl
@[simp] theorem State.setGates_gu (e : Nat) (f : Gates → Gates) : (s.setGates e f).gu = s.gu := rfl
@[simp] theorem State.setGates_units (e : Nat) (f : Gates → Gates) : (s.setGates e f).units = s.units := rfl
@[simp] theorem State.setGates_hdl (e : Nat) (f : Gates → Gates) : (s.setGates e f).hdl = s.hdl := rfl
@[simp] theorem State.setGates_fab (e : Nat) (f : Gates → Gates) : (s.setGates e f).fab = s.fab := rfl
@[simp] theorem State.setGates_err (e : Nat) (f : Gates → Gates) : (s.setGates e f).err = s.err := rfl
@[simp] theorem State.setGates_boot (e : Nat) (f : Gates → Gates) : (s.setGates e f).boot = s.boot := rfl
@[simp] theorem State.setGates_mgt (e : Nat) (f : Gates → Gates) : (s.setGates e f).mgt = s.mgt := rfl
@[simp] theorem State.setGates_pwr (e : Nat) (f : Gates → Gates) : (s.setGates e f).pwr = s.pwr := rfl
@[simp] theorem State.setGates_due (e : Nat) (f : Gates → Gates) : (s.setGates e f).due = s.due := rfl

/-! ### setMember -/
@[simp] theorem State.setMember_pending (d : Nat) (k : MemberKind) (e : Word32) : (s.setMember d k e).pending = s.pending := rfl
@[simp] theorem State.setMember_out (d : Nat) (k : MemberKind) (e : Word32) : (s.setMember d k e).out = s.out := rfl
@[simp] theorem State.setMember_free (d : Nat) (k : MemberKind) (e : Word32) : (s.setMember d k e).free = s.free := rfl
@[simp] theorem State.setMember_nextId (d : Nat) (k : MemberKind) (e : Word32) : (s.setMember d k e).nextId = s.nextId := rfl
@[simp] theorem State.setMember_now (d : Nat) (k : MemberKind) (e : Word32) : (s.setMember d k e).now = s.now := rfl
@[simp] theorem State.setMember_frac (d : Nat) (k : MemberKind) (e : Word32) : (s.setMember d k e).frac = s.frac := rfl
@[simp] theorem State.setMember_cfg (d : Nat) (k : MemberKind) (e : Word32) : (s.setMember d k e).cfg = s.cfg := rfl
@[simp] theorem State.setMember_stat (d : Nat) (k : MemberKind) (e : Word32) : (s.setMember d k e).stat = s.stat := rfl
@[simp] theorem State.setMember_xp (d : Nat) (k : MemberKind) (e : Word32) : (s.setMember d k e).xp = s.xp := rfl
@[simp] theorem State.setMember_cmds (d : Nat) (k : MemberKind) (e : Word32) : (s.setMember d k e).cmds = s.cmds := rfl
@[simp] theorem State.setMember_mem (d : Nat) (k : MemberKind) (e : Word32) : (s.setMember d k e).mem = s.mem := rfl
@[simp] theorem State.setMember_cache (d : Nat) (k : MemberKind) (e : Word32) : (s.setMember d k e).cache = s.cache := rfl
@[simp] theorem State.setMember_ext (d : Nat) (k : MemberKind) (e : Word32) : (s.setMember d k e).ext = s.ext := rfl
@[simp] theorem State.setMember_dir (d : Nat) (k : MemberKind) (e : Word32) : (s.setMember d k e).dir = s.dir := rfl
@[simp] theorem State.setMember_vr (d : Nat) (k : MemberKind) (e : Word32) : (s.setMember d k e).vr = s.vr := rfl
@[simp] theorem State.setMember_flash (d : Nat) (k : MemberKind) (e : Word32) : (s.setMember d k e).flash = s.flash := rfl
@[simp] theorem State.setMember_pace (d : Nat) (k : MemberKind) (e : Word32) : (s.setMember d k e).pace = s.pace := rfl
@[simp] theorem State.setMember_te (d : Nat) (k : MemberKind) (e : Word32) : (s.setMember d k e).te = s.te := rfl
@[simp] theorem State.setMember_lanes (d : Nat) (k : MemberKind) (e : Word32) : (s.setMember d k e).lanes = s.lanes := rfl
@[simp] theorem State.setMember_seStatus (d : Nat) (k : MemberKind) (e : Word32) : (s.setMember d k e).seStatus = s.seStatus := rfl
@[simp] theorem State.setMember_saveStatus (d : Nat) (k : MemberKind) (e : Word32) : (s.setMember d k e).saveStatus = s.saveStatus := rfl
@[simp] theorem State.setMember_gu (d : Nat) (k : MemberKind) (e : Word32) : (s.setMember d k e).gu = s.gu := rfl
@[simp] theorem State.setMember_units (d : Nat) (k : MemberKind) (e : Word32) : (s.setMember d k e).units = s.units := rfl
@[simp] theorem State.setMember_hdl (d : Nat) (k : MemberKind) (e : Word32) : (s.setMember d k e).hdl = s.hdl := rfl
@[simp] theorem State.setMember_sw (d : Nat) (k : MemberKind) (e : Word32) : (s.setMember d k e).sw = s.sw := rfl
@[simp] theorem State.setMember_err (d : Nat) (k : MemberKind) (e : Word32) : (s.setMember d k e).err = s.err := rfl
@[simp] theorem State.setMember_boot (d : Nat) (k : MemberKind) (e : Word32) : (s.setMember d k e).boot = s.boot := rfl
@[simp] theorem State.setMember_mgt (d : Nat) (k : MemberKind) (e : Word32) : (s.setMember d k e).mgt = s.mgt := rfl
@[simp] theorem State.setMember_pwr (d : Nat) (k : MemberKind) (e : Word32) : (s.setMember d k e).pwr = s.pwr := rfl
@[simp] theorem State.setMember_due (d : Nat) (k : MemberKind) (e : Word32) : (s.setMember d k e).due = s.due := rfl

/-! ### setServo -/
@[simp] theorem State.setServo_pending (f : Servo → Servo) : (s.setServo f).pending = s.pending := rfl
@[simp] theorem State.setServo_out (f : Servo → Servo) : (s.setServo f).out = s.out := rfl
@[simp] theorem State.setServo_free (f : Servo → Servo) : (s.setServo f).free = s.free := rfl
@[simp] theorem State.setServo_nextId (f : Servo → Servo) : (s.setServo f).nextId = s.nextId := rfl
@[simp] theorem State.setServo_now (f : Servo → Servo) : (s.setServo f).now = s.now := rfl
@[simp] theorem State.setServo_frac (f : Servo → Servo) : (s.setServo f).frac = s.frac := rfl
@[simp] theorem State.setServo_cfg (f : Servo → Servo) : (s.setServo f).cfg = s.cfg := rfl
@[simp] theorem State.setServo_stat (f : Servo → Servo) : (s.setServo f).stat = s.stat := rfl
@[simp] theorem State.setServo_xp (f : Servo → Servo) : (s.setServo f).xp = s.xp := rfl
@[simp] theorem State.setServo_cmds (f : Servo → Servo) : (s.setServo f).cmds = s.cmds := rfl
@[simp] theorem State.setServo_mem (f : Servo → Servo) : (s.setServo f).mem = s.mem := rfl
@[simp] theorem State.setServo_cache (f : Servo → Servo) : (s.setServo f).cache = s.cache := rfl
@[simp] theorem State.setServo_ext (f : Servo → Servo) : (s.setServo f).ext = s.ext := rfl
@[simp] theorem State.setServo_dir (f : Servo → Servo) : (s.setServo f).dir = s.dir := rfl
@[simp] theorem State.setServo_vr (f : Servo → Servo) : (s.setServo f).vr = s.vr := rfl
@[simp] theorem State.setServo_flash (f : Servo → Servo) : (s.setServo f).flash = s.flash := rfl
@[simp] theorem State.setServo_pace (f : Servo → Servo) : (s.setServo f).pace = s.pace := rfl
@[simp] theorem State.setServo_te (f : Servo → Servo) : (s.setServo f).te = s.te := rfl
@[simp] theorem State.setServo_lanes (f : Servo → Servo) : (s.setServo f).lanes = s.lanes := rfl
@[simp] theorem State.setServo_seStatus (f : Servo → Servo) : (s.setServo f).seStatus = s.seStatus := rfl
@[simp] theorem State.setServo_saveStatus (f : Servo → Servo) : (s.setServo f).saveStatus = s.saveStatus := rfl
@[simp] theorem State.setServo_gu (f : Servo → Servo) : (s.setServo f).gu = s.gu := rfl
@[simp] theorem State.setServo_units (f : Servo → Servo) : (s.setServo f).units = s.units := rfl
@[simp] theorem State.setServo_hdl (f : Servo → Servo) : (s.setServo f).hdl = s.hdl := rfl
@[simp] theorem State.setServo_sw (f : Servo → Servo) : (s.setServo f).sw = s.sw := rfl
@[simp] theorem State.setServo_err (f : Servo → Servo) : (s.setServo f).err = s.err := rfl
@[simp] theorem State.setServo_boot (f : Servo → Servo) : (s.setServo f).boot = s.boot := rfl
@[simp] theorem State.setServo_mgt (f : Servo → Servo) : (s.setServo f).mgt = s.mgt := rfl
@[simp] theorem State.setServo_pwr (f : Servo → Servo) : (s.setServo f).pwr = s.pwr := rfl
@[simp] theorem State.setServo_due (f : Servo → Servo) : (s.setServo f).due = s.due := rfl

/-! ### setOptical -/
@[simp] theorem State.setOptical_pending (e : Nat) (f : PortSt → PortSt) : (s.setOptical e f).pending = s.pending := rfl
@[simp] theorem State.setOptical_out (e : Nat) (f : PortSt → PortSt) : (s.setOptical e f).out = s.out := rfl
@[simp] theorem State.setOptical_free (e : Nat) (f : PortSt → PortSt) : (s.setOptical e f).free = s.free := rfl
@[simp] theorem State.setOptical_nextId (e : Nat) (f : PortSt → PortSt) : (s.setOptical e f).nextId = s.nextId := rfl
@[simp] theorem State.setOptical_now (e : Nat) (f : PortSt → PortSt) : (s.setOptical e f).now = s.now := rfl
@[simp] theorem State.setOptical_frac (e : Nat) (f : PortSt → PortSt) : (s.setOptical e f).frac = s.frac := rfl
@[simp] theorem State.setOptical_cfg (e : Nat) (f : PortSt → PortSt) : (s.setOptical e f).cfg = s.cfg := rfl
@[simp] theorem State.setOptical_stat (e : Nat) (f : PortSt → PortSt) : (s.setOptical e f).stat = s.stat := rfl
@[simp] theorem State.setOptical_xp (e : Nat) (f : PortSt → PortSt) : (s.setOptical e f).xp = s.xp := rfl
@[simp] theorem State.setOptical_cmds (e : Nat) (f : PortSt → PortSt) : (s.setOptical e f).cmds = s.cmds := rfl
@[simp] theorem State.setOptical_mem (e : Nat) (f : PortSt → PortSt) : (s.setOptical e f).mem = s.mem := rfl
@[simp] theorem State.setOptical_cache (e : Nat) (f : PortSt → PortSt) : (s.setOptical e f).cache = s.cache := rfl
@[simp] theorem State.setOptical_ext (e : Nat) (f : PortSt → PortSt) : (s.setOptical e f).ext = s.ext := rfl
@[simp] theorem State.setOptical_dir (e : Nat) (f : PortSt → PortSt) : (s.setOptical e f).dir = s.dir := rfl
@[simp] theorem State.setOptical_vr (e : Nat) (f : PortSt → PortSt) : (s.setOptical e f).vr = s.vr := rfl
@[simp] theorem State.setOptical_flash (e : Nat) (f : PortSt → PortSt) : (s.setOptical e f).flash = s.flash := rfl
@[simp] theorem State.setOptical_pace (e : Nat) (f : PortSt → PortSt) : (s.setOptical e f).pace = s.pace := rfl
@[simp] theorem State.setOptical_te (e : Nat) (f : PortSt → PortSt) : (s.setOptical e f).te = s.te := rfl
@[simp] theorem State.setOptical_lanes (e : Nat) (f : PortSt → PortSt) : (s.setOptical e f).lanes = s.lanes := rfl
@[simp] theorem State.setOptical_seStatus (e : Nat) (f : PortSt → PortSt) : (s.setOptical e f).seStatus = s.seStatus := rfl
@[simp] theorem State.setOptical_saveStatus (e : Nat) (f : PortSt → PortSt) : (s.setOptical e f).saveStatus = s.saveStatus := rfl
@[simp] theorem State.setOptical_gu (e : Nat) (f : PortSt → PortSt) : (s.setOptical e f).gu = s.gu := rfl
@[simp] theorem State.setOptical_units (e : Nat) (f : PortSt → PortSt) : (s.setOptical e f).units = s.units := rfl
@[simp] theorem State.setOptical_hdl (e : Nat) (f : PortSt → PortSt) : (s.setOptical e f).hdl = s.hdl := rfl
@[simp] theorem State.setOptical_sw (e : Nat) (f : PortSt → PortSt) : (s.setOptical e f).sw = s.sw := rfl
@[simp] theorem State.setOptical_fab (e : Nat) (f : PortSt → PortSt) : (s.setOptical e f).fab = s.fab := rfl
@[simp] theorem State.setOptical_err (e : Nat) (f : PortSt → PortSt) : (s.setOptical e f).err = s.err := rfl
@[simp] theorem State.setOptical_boot (e : Nat) (f : PortSt → PortSt) : (s.setOptical e f).boot = s.boot := rfl
@[simp] theorem State.setOptical_mgt (e : Nat) (f : PortSt → PortSt) : (s.setOptical e f).mgt = s.mgt := rfl
@[simp] theorem State.setOptical_due (e : Nat) (f : PortSt → PortSt) : (s.setOptical e f).due = s.due := rfl

/-! ### draw -/
@[simp] theorem State.draw_pending : s.draw.1.pending = s.pending := rfl
@[simp] theorem State.draw_out : s.draw.1.out = s.out := rfl
@[simp] theorem State.draw_nextId : s.draw.1.nextId = s.nextId := rfl
@[simp] theorem State.draw_now : s.draw.1.now = s.now := rfl
@[simp] theorem State.draw_frac : s.draw.1.frac = s.frac := rfl
@[simp] theorem State.draw_cfg : s.draw.1.cfg = s.cfg := rfl
@[simp] theorem State.draw_stat : s.draw.1.stat = s.stat := rfl
@[simp] theorem State.draw_xp : s.draw.1.xp = s.xp := rfl
@[simp] theorem State.draw_cmds : s.draw.1.cmds = s.cmds := rfl
@[simp] theorem State.draw_mem : s.draw.1.mem = s.mem := rfl
@[simp] theorem State.draw_cache : s.draw.1.cache = s.cache := rfl
@[simp] theorem State.draw_ext : s.draw.1.ext = s.ext := rfl
@[simp] theorem State.draw_dir : s.draw.1.dir = s.dir := rfl
@[simp] theorem State.draw_vr : s.draw.1.vr = s.vr := rfl
@[simp] theorem State.draw_flash : s.draw.1.flash = s.flash := rfl
@[simp] theorem State.draw_pace : s.draw.1.pace = s.pace := rfl
@[simp] theorem State.draw_te : s.draw.1.te = s.te := rfl
@[simp] theorem State.draw_lanes : s.draw.1.lanes = s.lanes := rfl
@[simp] theorem State.draw_seStatus : s.draw.1.seStatus = s.seStatus := rfl
@[simp] theorem State.draw_saveStatus : s.draw.1.saveStatus = s.saveStatus := rfl
@[simp] theorem State.draw_gu : s.draw.1.gu = s.gu := rfl
@[simp] theorem State.draw_units : s.draw.1.units = s.units := rfl
@[simp] theorem State.draw_hdl : s.draw.1.hdl = s.hdl := rfl
@[simp] theorem State.draw_sw : s.draw.1.sw = s.sw := rfl
@[simp] theorem State.draw_fab : s.draw.1.fab = s.fab := rfl
@[simp] theorem State.draw_err : s.draw.1.err = s.err := rfl
@[simp] theorem State.draw_boot : s.draw.1.boot = s.boot := rfl
@[simp] theorem State.draw_mgt : s.draw.1.mgt = s.mgt := rfl
@[simp] theorem State.draw_pwr : s.draw.1.pwr = s.pwr := rfl
@[simp] theorem State.draw_due : s.draw.1.due = s.due := rfl

/-! ### count, event, errRecord: one lemma says all that each may change -/

/-- A counter changes counters only. -/
theorem State.count_shape (r : Reg) (k n i : Nat) : ∃ st, s.count r k n i = { s with stat := st } := by
  unfold State.count
  dsimp only
  split
  · exact ⟨_, rfl⟩
  · exact ⟨_, rfl⟩

/-- An event changes counters and the management state only. -/
theorem State.event_shape (t : Nat) (b : List Byte) : ∃ st m, s.event t b = { s with stat := st, mgt := m } := by
  unfold State.event
  dsimp only
  split
  · obtain ⟨st, h⟩ := State.count_shape _ .hubEvtStat 0 1 0
    exact ⟨st, _, h⟩
  · obtain ⟨st, h⟩ := State.count_shape _ .hubEvtStat 2 1 0
    obtain ⟨st', h'⟩ := State.count_shape _ .hubEvtStat 0 1 0
    exact ⟨st, _, h.trans (by rw [h'])⟩

/-- An error record changes the log, counters and the management state only. -/
theorem State.errRecord_shape (r : ErrRec) :
    ∃ l o st m, s.errRecord r = { s with err := { s.err with log := l, ovf := o }, stat := st, mgt := m } := by
  have ev (x : State) (b : List Byte)
      (hx : ∃ l o st, x = { s with err := { s.err with log := l, ovf := o }, stat := st }) :
      ∃ l o st m, x.event 10 b = { s with err := { s.err with log := l, ovf := o }, stat := st, mgt := m } := by
    obtain ⟨l, o, st, rfl⟩ := hx
    obtain ⟨st', m, h⟩ := State.event_shape _ 10 b
    exact ⟨l, o, st', m, h⟩
  by_cases h : r.severity = 0
  · simp only [State.errRecord, h, if_true]
    split
    · exact ⟨_, s.err.ovf, s.stat, s.mgt, rfl⟩
    · split
      · exact ⟨_, s.err.ovf, s.stat, s.mgt, rfl⟩
      · obtain ⟨st, h⟩ := State.count_shape s .hubErrStat 7 1 0
        exact ⟨s.err.log, s.err.ovf, st, s.mgt, h⟩
  · simp only [State.errRecord, h, if_false]
    refine ev _ _ ?_
    split
    · exact ⟨_, s.err.ovf, s.stat, rfl⟩
    · split
      · exact ⟨_, s.err.ovf, s.stat, rfl⟩
      · exact ⟨_, true, s.stat, rfl⟩

@[simp] theorem State.count_pending (r : Reg) (k n i : Nat) : (s.count r k n i).pending = s.pending := by
  obtain ⟨_, h⟩ := s.count_shape r k n i; rw [h]
@[simp] theorem State.count_out (r : Reg) (k n i : Nat) : (s.count r k n i).out = s.out := by
  obtain ⟨_, h⟩ := s.count_shape r k n i; rw [h]
@[simp] theorem State.count_free (r : Reg) (k n i : Nat) : (s.count r k n i).free = s.free := by
  obtain ⟨_, h⟩ := s.count_shape r k n i; rw [h]
@[simp] theorem State.count_nextId (r : Reg) (k n i : Nat) : (s.count r k n i).nextId = s.nextId := by
  obtain ⟨_, h⟩ := s.count_shape r k n i; rw [h]
@[simp] theorem State.count_now (r : Reg) (k n i : Nat) : (s.count r k n i).now = s.now := by
  obtain ⟨_, h⟩ := s.count_shape r k n i; rw [h]
@[simp] theorem State.count_frac (r : Reg) (k n i : Nat) : (s.count r k n i).frac = s.frac := by
  obtain ⟨_, h⟩ := s.count_shape r k n i; rw [h]
@[simp] theorem State.count_cfg (r : Reg) (k n i : Nat) : (s.count r k n i).cfg = s.cfg := by
  obtain ⟨_, h⟩ := s.count_shape r k n i; rw [h]
@[simp] theorem State.count_xp (r : Reg) (k n i : Nat) : (s.count r k n i).xp = s.xp := by
  obtain ⟨_, h⟩ := s.count_shape r k n i; rw [h]
@[simp] theorem State.count_cmds (r : Reg) (k n i : Nat) : (s.count r k n i).cmds = s.cmds := by
  obtain ⟨_, h⟩ := s.count_shape r k n i; rw [h]
@[simp] theorem State.count_mem (r : Reg) (k n i : Nat) : (s.count r k n i).mem = s.mem := by
  obtain ⟨_, h⟩ := s.count_shape r k n i; rw [h]
@[simp] theorem State.count_cache (r : Reg) (k n i : Nat) : (s.count r k n i).cache = s.cache := by
  obtain ⟨_, h⟩ := s.count_shape r k n i; rw [h]
@[simp] theorem State.count_ext (r : Reg) (k n i : Nat) : (s.count r k n i).ext = s.ext := by
  obtain ⟨_, h⟩ := s.count_shape r k n i; rw [h]
@[simp] theorem State.count_dir (r : Reg) (k n i : Nat) : (s.count r k n i).dir = s.dir := by
  obtain ⟨_, h⟩ := s.count_shape r k n i; rw [h]
@[simp] theorem State.count_vr (r : Reg) (k n i : Nat) : (s.count r k n i).vr = s.vr := by
  obtain ⟨_, h⟩ := s.count_shape r k n i; rw [h]
@[simp] theorem State.count_flash (r : Reg) (k n i : Nat) : (s.count r k n i).flash = s.flash := by
  obtain ⟨_, h⟩ := s.count_shape r k n i; rw [h]
@[simp] theorem State.count_pace (r : Reg) (k n i : Nat) : (s.count r k n i).pace = s.pace := by
  obtain ⟨_, h⟩ := s.count_shape r k n i; rw [h]
@[simp] theorem State.count_te (r : Reg) (k n i : Nat) : (s.count r k n i).te = s.te := by
  obtain ⟨_, h⟩ := s.count_shape r k n i; rw [h]
@[simp] theorem State.count_lanes (r : Reg) (k n i : Nat) : (s.count r k n i).lanes = s.lanes := by
  obtain ⟨_, h⟩ := s.count_shape r k n i; rw [h]
@[simp] theorem State.count_seStatus (r : Reg) (k n i : Nat) : (s.count r k n i).seStatus = s.seStatus := by
  obtain ⟨_, h⟩ := s.count_shape r k n i; rw [h]
@[simp] theorem State.count_saveStatus (r : Reg) (k n i : Nat) : (s.count r k n i).saveStatus = s.saveStatus := by
  obtain ⟨_, h⟩ := s.count_shape r k n i; rw [h]
@[simp] theorem State.count_gu (r : Reg) (k n i : Nat) : (s.count r k n i).gu = s.gu := by
  obtain ⟨_, h⟩ := s.count_shape r k n i; rw [h]
@[simp] theorem State.count_units (r : Reg) (k n i : Nat) : (s.count r k n i).units = s.units := by
  obtain ⟨_, h⟩ := s.count_shape r k n i; rw [h]
@[simp] theorem State.count_hdl (r : Reg) (k n i : Nat) : (s.count r k n i).hdl = s.hdl := by
  obtain ⟨_, h⟩ := s.count_shape r k n i; rw [h]
@[simp] theorem State.count_sw (r : Reg) (k n i : Nat) : (s.count r k n i).sw = s.sw := by
  obtain ⟨_, h⟩ := s.count_shape r k n i; rw [h]
@[simp] theorem State.count_fab (r : Reg) (k n i : Nat) : (s.count r k n i).fab = s.fab := by
  obtain ⟨_, h⟩ := s.count_shape r k n i; rw [h]
@[simp] theorem State.count_err (r : Reg) (k n i : Nat) : (s.count r k n i).err = s.err := by
  obtain ⟨_, h⟩ := s.count_shape r k n i; rw [h]
@[simp] theorem State.count_boot (r : Reg) (k n i : Nat) : (s.count r k n i).boot = s.boot := by
  obtain ⟨_, h⟩ := s.count_shape r k n i; rw [h]
@[simp] theorem State.count_mgt (r : Reg) (k n i : Nat) : (s.count r k n i).mgt = s.mgt := by
  obtain ⟨_, h⟩ := s.count_shape r k n i; rw [h]
@[simp] theorem State.count_pwr (r : Reg) (k n i : Nat) : (s.count r k n i).pwr = s.pwr := by
  obtain ⟨_, h⟩ := s.count_shape r k n i; rw [h]
@[simp] theorem State.count_due (r : Reg) (k n i : Nat) : (s.count r k n i).due = s.due := by
  obtain ⟨_, h⟩ := s.count_shape r k n i; rw [h]
@[simp] theorem State.event_pending (t : Nat) (b : List Byte) : (s.event t b).pending = s.pending := by
  obtain ⟨_, _, h⟩ := s.event_shape t b; rw [h]
@[simp] theorem State.event_out (t : Nat) (b : List Byte) : (s.event t b).out = s.out := by
  obtain ⟨_, _, h⟩ := s.event_shape t b; rw [h]
@[simp] theorem State.event_free (t : Nat) (b : List Byte) : (s.event t b).free = s.free := by
  obtain ⟨_, _, h⟩ := s.event_shape t b; rw [h]
@[simp] theorem State.event_nextId (t : Nat) (b : List Byte) : (s.event t b).nextId = s.nextId := by
  obtain ⟨_, _, h⟩ := s.event_shape t b; rw [h]
@[simp] theorem State.event_now (t : Nat) (b : List Byte) : (s.event t b).now = s.now := by
  obtain ⟨_, _, h⟩ := s.event_shape t b; rw [h]
@[simp] theorem State.event_frac (t : Nat) (b : List Byte) : (s.event t b).frac = s.frac := by
  obtain ⟨_, _, h⟩ := s.event_shape t b; rw [h]
@[simp] theorem State.event_cfg (t : Nat) (b : List Byte) : (s.event t b).cfg = s.cfg := by
  obtain ⟨_, _, h⟩ := s.event_shape t b; rw [h]
@[simp] theorem State.event_xp (t : Nat) (b : List Byte) : (s.event t b).xp = s.xp := by
  obtain ⟨_, _, h⟩ := s.event_shape t b; rw [h]
@[simp] theorem State.event_cmds (t : Nat) (b : List Byte) : (s.event t b).cmds = s.cmds := by
  obtain ⟨_, _, h⟩ := s.event_shape t b; rw [h]
@[simp] theorem State.event_mem (t : Nat) (b : List Byte) : (s.event t b).mem = s.mem := by
  obtain ⟨_, _, h⟩ := s.event_shape t b; rw [h]
@[simp] theorem State.event_cache (t : Nat) (b : List Byte) : (s.event t b).cache = s.cache := by
  obtain ⟨_, _, h⟩ := s.event_shape t b; rw [h]
@[simp] theorem State.event_ext (t : Nat) (b : List Byte) : (s.event t b).ext = s.ext := by
  obtain ⟨_, _, h⟩ := s.event_shape t b; rw [h]
@[simp] theorem State.event_dir (t : Nat) (b : List Byte) : (s.event t b).dir = s.dir := by
  obtain ⟨_, _, h⟩ := s.event_shape t b; rw [h]
@[simp] theorem State.event_vr (t : Nat) (b : List Byte) : (s.event t b).vr = s.vr := by
  obtain ⟨_, _, h⟩ := s.event_shape t b; rw [h]
@[simp] theorem State.event_flash (t : Nat) (b : List Byte) : (s.event t b).flash = s.flash := by
  obtain ⟨_, _, h⟩ := s.event_shape t b; rw [h]
@[simp] theorem State.event_pace (t : Nat) (b : List Byte) : (s.event t b).pace = s.pace := by
  obtain ⟨_, _, h⟩ := s.event_shape t b; rw [h]
@[simp] theorem State.event_te (t : Nat) (b : List Byte) : (s.event t b).te = s.te := by
  obtain ⟨_, _, h⟩ := s.event_shape t b; rw [h]
@[simp] theorem State.event_lanes (t : Nat) (b : List Byte) : (s.event t b).lanes = s.lanes := by
  obtain ⟨_, _, h⟩ := s.event_shape t b; rw [h]
@[simp] theorem State.event_seStatus (t : Nat) (b : List Byte) : (s.event t b).seStatus = s.seStatus := by
  obtain ⟨_, _, h⟩ := s.event_shape t b; rw [h]
@[simp] theorem State.event_saveStatus (t : Nat) (b : List Byte) : (s.event t b).saveStatus = s.saveStatus := by
  obtain ⟨_, _, h⟩ := s.event_shape t b; rw [h]
@[simp] theorem State.event_gu (t : Nat) (b : List Byte) : (s.event t b).gu = s.gu := by
  obtain ⟨_, _, h⟩ := s.event_shape t b; rw [h]
@[simp] theorem State.event_units (t : Nat) (b : List Byte) : (s.event t b).units = s.units := by
  obtain ⟨_, _, h⟩ := s.event_shape t b; rw [h]
@[simp] theorem State.event_hdl (t : Nat) (b : List Byte) : (s.event t b).hdl = s.hdl := by
  obtain ⟨_, _, h⟩ := s.event_shape t b; rw [h]
@[simp] theorem State.event_sw (t : Nat) (b : List Byte) : (s.event t b).sw = s.sw := by
  obtain ⟨_, _, h⟩ := s.event_shape t b; rw [h]
@[simp] theorem State.event_fab (t : Nat) (b : List Byte) : (s.event t b).fab = s.fab := by
  obtain ⟨_, _, h⟩ := s.event_shape t b; rw [h]
@[simp] theorem State.event_err (t : Nat) (b : List Byte) : (s.event t b).err = s.err := by
  obtain ⟨_, _, h⟩ := s.event_shape t b; rw [h]
@[simp] theorem State.event_boot (t : Nat) (b : List Byte) : (s.event t b).boot = s.boot := by
  obtain ⟨_, _, h⟩ := s.event_shape t b; rw [h]
@[simp] theorem State.event_pwr (t : Nat) (b : List Byte) : (s.event t b).pwr = s.pwr := by
  obtain ⟨_, _, h⟩ := s.event_shape t b; rw [h]
@[simp] theorem State.event_due (t : Nat) (b : List Byte) : (s.event t b).due = s.due := by
  obtain ⟨_, _, h⟩ := s.event_shape t b; rw [h]
@[simp] theorem State.errRecord_pending (r : ErrRec) : (s.errRecord r).pending = s.pending := by
  obtain ⟨_, _, _, _, h⟩ := s.errRecord_shape r; rw [h]
@[simp] theorem State.errRecord_out (r : ErrRec) : (s.errRecord r).out = s.out := by
  obtain ⟨_, _, _, _, h⟩ := s.errRecord_shape r; rw [h]
@[simp] theorem State.errRecord_free (r : ErrRec) : (s.errRecord r).free = s.free := by
  obtain ⟨_, _, _, _, h⟩ := s.errRecord_shape r; rw [h]
@[simp] theorem State.errRecord_nextId (r : ErrRec) : (s.errRecord r).nextId = s.nextId := by
  obtain ⟨_, _, _, _, h⟩ := s.errRecord_shape r; rw [h]
@[simp] theorem State.errRecord_now (r : ErrRec) : (s.errRecord r).now = s.now := by
  obtain ⟨_, _, _, _, h⟩ := s.errRecord_shape r; rw [h]
@[simp] theorem State.errRecord_frac (r : ErrRec) : (s.errRecord r).frac = s.frac := by
  obtain ⟨_, _, _, _, h⟩ := s.errRecord_shape r; rw [h]
@[simp] theorem State.errRecord_cfg (r : ErrRec) : (s.errRecord r).cfg = s.cfg := by
  obtain ⟨_, _, _, _, h⟩ := s.errRecord_shape r; rw [h]
@[simp] theorem State.errRecord_xp (r : ErrRec) : (s.errRecord r).xp = s.xp := by
  obtain ⟨_, _, _, _, h⟩ := s.errRecord_shape r; rw [h]
@[simp] theorem State.errRecord_cmds (r : ErrRec) : (s.errRecord r).cmds = s.cmds := by
  obtain ⟨_, _, _, _, h⟩ := s.errRecord_shape r; rw [h]
@[simp] theorem State.errRecord_mem (r : ErrRec) : (s.errRecord r).mem = s.mem := by
  obtain ⟨_, _, _, _, h⟩ := s.errRecord_shape r; rw [h]
@[simp] theorem State.errRecord_cache (r : ErrRec) : (s.errRecord r).cache = s.cache := by
  obtain ⟨_, _, _, _, h⟩ := s.errRecord_shape r; rw [h]
@[simp] theorem State.errRecord_ext (r : ErrRec) : (s.errRecord r).ext = s.ext := by
  obtain ⟨_, _, _, _, h⟩ := s.errRecord_shape r; rw [h]
@[simp] theorem State.errRecord_dir (r : ErrRec) : (s.errRecord r).dir = s.dir := by
  obtain ⟨_, _, _, _, h⟩ := s.errRecord_shape r; rw [h]
@[simp] theorem State.errRecord_vr (r : ErrRec) : (s.errRecord r).vr = s.vr := by
  obtain ⟨_, _, _, _, h⟩ := s.errRecord_shape r; rw [h]
@[simp] theorem State.errRecord_flash (r : ErrRec) : (s.errRecord r).flash = s.flash := by
  obtain ⟨_, _, _, _, h⟩ := s.errRecord_shape r; rw [h]
@[simp] theorem State.errRecord_pace (r : ErrRec) : (s.errRecord r).pace = s.pace := by
  obtain ⟨_, _, _, _, h⟩ := s.errRecord_shape r; rw [h]
@[simp] theorem State.errRecord_te (r : ErrRec) : (s.errRecord r).te = s.te := by
  obtain ⟨_, _, _, _, h⟩ := s.errRecord_shape r; rw [h]
@[simp] theorem State.errRecord_lanes (r : ErrRec) : (s.errRecord r).lanes = s.lanes := by
  obtain ⟨_, _, _, _, h⟩ := s.errRecord_shape r; rw [h]
@[simp] theorem State.errRecord_seStatus (r : ErrRec) : (s.errRecord r).seStatus = s.seStatus := by
  obtain ⟨_, _, _, _, h⟩ := s.errRecord_shape r; rw [h]
@[simp] theorem State.errRecord_saveStatus (r : ErrRec) : (s.errRecord r).saveStatus = s.saveStatus := by
  obtain ⟨_, _, _, _, h⟩ := s.errRecord_shape r; rw [h]
@[simp] theorem State.errRecord_gu (r : ErrRec) : (s.errRecord r).gu = s.gu := by
  obtain ⟨_, _, _, _, h⟩ := s.errRecord_shape r; rw [h]
@[simp] theorem State.errRecord_units (r : ErrRec) : (s.errRecord r).units = s.units := by
  obtain ⟨_, _, _, _, h⟩ := s.errRecord_shape r; rw [h]
@[simp] theorem State.errRecord_hdl (r : ErrRec) : (s.errRecord r).hdl = s.hdl := by
  obtain ⟨_, _, _, _, h⟩ := s.errRecord_shape r; rw [h]
@[simp] theorem State.errRecord_sw (r : ErrRec) : (s.errRecord r).sw = s.sw := by
  obtain ⟨_, _, _, _, h⟩ := s.errRecord_shape r; rw [h]
@[simp] theorem State.errRecord_fab (r : ErrRec) : (s.errRecord r).fab = s.fab := by
  obtain ⟨_, _, _, _, h⟩ := s.errRecord_shape r; rw [h]
@[simp] theorem State.errRecord_boot (r : ErrRec) : (s.errRecord r).boot = s.boot := by
  obtain ⟨_, _, _, _, h⟩ := s.errRecord_shape r; rw [h]
@[simp] theorem State.errRecord_pwr (r : ErrRec) : (s.errRecord r).pwr = s.pwr := by
  obtain ⟨_, _, _, _, h⟩ := s.errRecord_shape r; rw [h]
@[simp] theorem State.errRecord_due (r : ErrRec) : (s.errRecord r).due = s.due := by
  obtain ⟨_, _, _, _, h⟩ := s.errRecord_shape r; rw [h]
@[simp] theorem State.errRecord_stopped (r : ErrRec) : (s.errRecord r).err.stopped = s.err.stopped := by
  obtain ⟨_, _, _, _, h⟩ := s.errRecord_shape r; rw [h]

end Sys2Proof.Machine
end

