-- ==== Sys2Proof/Laws/Tables.lean ====
section
/-! SUPPORT. Reading a sparse table after a write, and that every table operation keeps the canonical form. -/

namespace Sys2Proof.Machine

variable {α : Type}

/-! ### The order of the keys -/

theorem tsorted_le {t : Table α} {a b : Nat} (h : tsorted b t = true) (hab : a ≤ b) : tsorted a t = true := by
  cases t with
  | nil => rfl
  | cons e t => simp only [tsorted, Bool.and_eq_true, decide_eq_true_eq] at h ⊢; exact ⟨by omega, h.2⟩

theorem tsorted_terase {t : Table α} {lo k : Nat} (h : tsorted lo t = true) : tsorted lo (terase t k) = true := by
  induction t generalizing lo with
  | nil => rfl
  | cons e t ih =>
    simp only [tsorted, Bool.and_eq_true, decide_eq_true_eq] at h
    simp only [terase]
    split
    · exact tsorted_le h.2 (by omega)
    · simp only [tsorted, Bool.and_eq_true, decide_eq_true_eq]; exact ⟨h.1, ih h.2⟩

theorem tsorted_tinsert {t : Table α} {lo k : Nat} {v : α} (h : tsorted lo t = true) (hk : lo ≤ k) :
    tsorted lo (tinsert t k v) = true := by
  induction t generalizing lo with
  | nil => simp [tinsert, tsorted, hk]
  | cons e t ih =>
    simp only [tsorted, Bool.and_eq_true, decide_eq_true_eq] at h
    simp only [tinsert]
    split
    · simp only [tsorted, Bool.and_eq_true, decide_eq_true_eq]; exact ⟨hk, by omega, h.2⟩
    · split
      · subst k; simp only [tsorted, Bool.and_eq_true, decide_eq_true_eq]; exact h
      · simp only [tsorted, Bool.and_eq_true, decide_eq_true_eq]; exact ⟨h.1, ih h.2 (by omega)⟩

theorem tsorted_tset [DecidableEq α] {d v : α} {t : Table α} {k : Nat} (h : tsorted 0 t = true) :
    tsorted 0 (tset d t k v) = true := by
  unfold tset
  split
  · exact tsorted_terase h
  · exact tsorted_tinsert h (Nat.zero_le _)

/-! ### No entry equals what an unlisted key reads as -/

theorem mem_terase {t : Table α} {k : Nat} {e : Nat × α} (h : e ∈ terase t k) : e ∈ t := by
  induction t with
  | nil => exact h
  | cons a t ih =>
    simp only [terase] at h
    split at h
    · exact List.mem_cons_of_mem _ h
    · rcases List.mem_cons.1 h with rfl | h
      · exact List.mem_cons_self
      · exact List.mem_cons_of_mem _ (ih h)

theorem mem_tinsert {t : Table α} {k : Nat} {v : α} {e : Nat × α} (h : e ∈ tinsert t k v) : e = (k, v) ∨ e ∈ t := by
  induction t with
  | nil => exact .inl (List.mem_singleton.1 h)
  | cons a t ih =>
    simp only [tinsert] at h
    split at h
    · rcases List.mem_cons.1 h with h | h
      · exact .inl h
      · exact .inr h
    · split at h
      · rcases List.mem_cons.1 h with h | h
        · exact .inl h
        · exact .inr (List.mem_cons_of_mem _ h)
      · rcases List.mem_cons.1 h with h | h
        · exact .inr (h ▸ List.mem_cons_self)
        · exact (ih h).imp_right (List.mem_cons_of_mem _)

/-- A write keeps the canonical form. -/
theorem twf_tset [DecidableEq α] {d v : α} {t : Table α} {k : Nat} (h : twf d t = true) : twf d (tset d t k v) = true := by
  simp only [twf, Bool.and_eq_true, List.all_eq_true, Bool.not_eq_true', decide_eq_false_iff_not] at h ⊢
  refine ⟨tsorted_tset h.1, fun e he => ?_⟩
  unfold tset at he
  split at he
  · exact h.2 e (mem_terase he)
  · rcases mem_tinsert he with rfl | he
    · assumption
    · exact h.2 e he

theorem twf_tmod [DecidableEq α] {d : α} {t : Table α} {k : Nat} {f : α → α} (h : twf d t = true) :
    twf d (tmod d t k f) = true := twf_tset h

/-- Dropping entries keeps the canonical form. -/
theorem tsorted_filter {t : Table α} {lo : Nat} (p : Nat × α → Bool) (h : tsorted lo t = true) :
    tsorted lo (t.filter p) = true := by
  induction t generalizing lo with
  | nil => rfl
  | cons e t ih =>
    simp only [tsorted, Bool.and_eq_true, decide_eq_true_eq] at h
    simp only [List.filter]
    split
    · simp only [tsorted, Bool.and_eq_true, decide_eq_true_eq]; exact ⟨h.1, ih h.2⟩
    · exact tsorted_le (ih h.2) (by omega)

theorem twf_filter [DecidableEq α] {d : α} {t : Table α} (p : Nat × α → Bool) (h : twf d t = true) :
    twf d (t.filter p) = true := by
  simp only [twf, Bool.and_eq_true, List.all_eq_true] at h ⊢
  exact ⟨tsorted_filter p h.1, fun e he => h.2 e (List.mem_filter.1 he).1⟩

/-! ### Reading after a write -/

theorem tget_terase_ne {d : α} {t : Table α} {k k' : Nat} (h : k' ≠ k) : tget d (terase t k) k' = tget d t k' := by
  induction t with
  | nil => rfl
  | cons e t ih =>
    simp only [terase]
    split
    · subst k; simp [tget, h]
    · simp only [tget]; split <;> [rfl; exact ih]

theorem tget_of_lt {d : α} {t : Table α} {lo k : Nat} (h : tsorted lo t = true) (hk : k < lo) : tget d t k = d := by
  induction t generalizing lo with
  | nil => rfl
  | cons e t ih =>
    simp only [tsorted, Bool.and_eq_true, decide_eq_true_eq] at h
    simp only [tget]
    rw [if_neg (by omega)]
    exact ih h.2 (by omega)

theorem tget_terase_same {d : α} {t : Table α} {lo k : Nat} (h : tsorted lo t = true) : tget d (terase t k) k = d := by
  induction t generalizing lo with
  | nil => rfl
  | cons e t ih =>
    simp only [tsorted, Bool.and_eq_true, decide_eq_true_eq] at h
    simp only [terase]
    split
    · exact tget_of_lt h.2 (by omega)
    · simp only [tget]; rw [if_neg (by assumption)]; exact ih h.2

theorem tget_tinsert_same {d v : α} {t : Table α} {k : Nat} : tget d (tinsert t k v) k = v := by
  induction t with
  | nil => simp [tinsert, tget]
  | cons e t ih =>
    simp only [tinsert]
    split
    · simp [tget]
    · split
      · simp [tget]
      · simp only [tget]; rw [if_neg (by assumption)]; exact ih

theorem tget_tinsert_ne {d v : α} {t : Table α} {k k' : Nat} (h : k' ≠ k) : tget d (tinsert t k v) k' = tget d t k' := by
  induction t with
  | nil => simp [tinsert, tget, h]
  | cons e t ih =>
    simp only [tinsert]
    split
    · simp [tget, h]
    · split
      · subst k; simp [tget, h]
      · simp only [tget]; split <;> [rfl; exact ih]

/-- A key reads as what was written at it. -/
theorem tget_tset_same [DecidableEq α] {d v : α} {t : Table α} {k : Nat} (h : tsorted 0 t = true) :
    tget d (tset d t k v) k = v := by
  unfold tset
  split
  · next hv => rw [tget_terase_same h, hv]
  · exact tget_tinsert_same

/-- Every other key reads as before. -/
theorem tget_tset_ne [DecidableEq α] {d v : α} {t : Table α} {k k' : Nat} (h : k' ≠ k) :
    tget d (tset d t k v) k' = tget d t k' := by
  unfold tset
  split
  · exact tget_terase_ne h
  · exact tget_tinsert_ne h

theorem twf_sorted [DecidableEq α] {d : α} {t : Table α} (h : twf d t = true) : tsorted 0 t = true := by
  simp only [twf, Bool.and_eq_true] at h; exact h.1

/-! ### Sets of numbers -/

theorem ssorted_le {t : List Nat} {a b : Nat} (h : ssorted b t = true) (hab : a ≤ b) : ssorted a t = true := by
  cases t with
  | nil => rfl
  | cons e t => simp only [ssorted, Bool.and_eq_true, decide_eq_true_eq] at h ⊢; exact ⟨by omega, h.2⟩

theorem ssorted_sinsert {t : List Nat} {lo k : Nat} (h : ssorted lo t = true) (hk : lo ≤ k) :
    ssorted lo (sinsert k t) = true := by
  induction t generalizing lo with
  | nil => simp [sinsert, ssorted, hk]
  | cons e t ih =>
    have h' := h
    simp only [ssorted, Bool.and_eq_true, decide_eq_true_eq] at h
    simp only [sinsert]
    split
    · simp only [ssorted, Bool.and_eq_true, decide_eq_true_eq]; exact ⟨hk, by omega, h.2⟩
    · split
      · exact h'
      · simp only [ssorted, Bool.and_eq_true, decide_eq_true_eq]; exact ⟨h.1, ih h.2 (by omega)⟩

theorem ssorted_filter {t : List Nat} {lo : Nat} (p : Nat → Bool) (h : ssorted lo t = true) :
    ssorted lo (t.filter p) = true := by
  induction t generalizing lo with
  | nil => rfl
  | cons e t ih =>
    simp only [ssorted, Bool.and_eq_true, decide_eq_true_eq] at h
    simp only [List.filter]
    split
    · simp only [ssorted, Bool.and_eq_true, decide_eq_true_eq]; exact ⟨h.1, ih h.2⟩
    · exact ssorted_le (ih h.2) (by omega)

theorem ssorted_serase {t : List Nat} {k : Nat} (h : ssorted 0 t = true) : ssorted 0 (serase k t) = true :=
  ssorted_filter _ h

end Sys2Proof.Machine
end

