-- ==== Sys2Proof/Laws/Memory.lean ====
section
/-! SUPPORT. Reading memory after a write, what meeting a sector may change, and that every operation that
touches memory keeps its canonical form. -/

namespace Sys2Proof.Machine

/-! ### Bytes -/

theorem Memory.put_marks (m : Memory) (a : Nat) (bs : List Byte) :
    (m.put a bs).poison = m.poison ∧ (m.put a bs).flawed = m.flawed ∧ (m.put a bs).broken = m.broken := by
  induction bs generalizing m a with
  | nil => exact ⟨rfl, rfl, rfl⟩
  | cons b bs ih => exact ih _ _

theorem Memory.put_twf {m : Memory} (a : Nat) (bs : List Byte) (h : twf Memory.blank m.hbm = true) :
    twf Memory.blank (m.put a bs).hbm = true := by
  induction bs generalizing m a with
  | nil => exact h
  | cons b bs ih => exact ih _ (twf_tset h)

/-- A byte outside the bytes stored reads as before. -/
theorem Memory.byte_put_out (m : Memory) (a : Nat) (bs : List Byte) {x : Nat} (h : x < a ∨ a + bs.length ≤ x) :
    (m.put a bs).byte x = m.byte x := by
  induction bs generalizing m a with
  | nil => rfl
  | cons b bs ih =>
    simp only [List.length_cons] at h
    simp only [Memory.put]
    rw [ih _ _ (by omega)]
    exact tget_tset_ne (by omega)

/-- A stored byte reads as it was stored. -/
theorem Memory.byte_put_in {m : Memory} (a : Nat) (bs : List Byte) (h : twf Memory.blank m.hbm = true) {i : Nat}
    (hi : i < bs.length) : (m.put a bs).byte (a + i) = bs[i] := by
  induction bs generalizing m a i with
  | nil => simp at hi
  | cons b bs ih =>
    simp only [Memory.put]
    cases i with
    | zero =>
      rw [Memory.byte_put_out _ _ _ (by omega)]
      exact tget_tset_same (twf_sorted h)
    | succ i =>
      have := ih (m := { m with hbm := tset Memory.blank m.hbm a b }) (a := a + 1) (twf_tset h) (i := i) (by simpa using hi)
      simpa [Nat.add_assoc, Nat.add_comm 1 i] using this

theorem Memory.wf_iff (m : Memory) : m.wf = true ↔ twf Memory.blank m.hbm = true ∧ ssorted 0 m.poison = true
    ∧ ssorted 0 m.flawed = true ∧ ssorted 0 m.broken = true := by
  simp [Memory.wf, and_assoc]

theorem Memory.wf_put {m : Memory} (a : Nat) (bs : List Byte) (h : m.wf = true) : (m.put a bs).wf = true := by
  obtain ⟨h1, h2, h3⟩ := m.put_marks a bs
  rw [Memory.wf_iff] at h ⊢
  rw [h1, h2, h3]
  exact ⟨Memory.put_twf _ _ h.1, h.2⟩

/-! ### States of units -/

@[simp] theorem State.setQuad_mem (s : State) (q : Nat) (h : Health) : (s.setQuad q h).mem = s.mem := by
  simp only [State.setQuad]
  split
  · rfl
  · split <;> simp

@[simp] theorem State.setStack_mem (s : State) (n : Nat) (h : Health) : (s.setStack n h).mem = s.mem := by
  simp only [State.setStack]
  split
  · rfl
  · split <;> split <;> simp

/-! ### Sectors -/

/-- What meeting a sector may do to memory: it is corrected, or marked, and no byte changes. -/
theorem State.meetSector_mem (s : State) (sc off : Nat) :
    (s.meetSector sc off).mem = s.mem
    ∨ (s.meetSector sc off).mem = { s.mem with flawed := serase sc s.mem.flawed }
    ∨ (s.meetSector sc off).mem = { s.mem with broken := serase sc s.mem.broken, flawed := serase sc s.mem.flawed
                                               poison := sinsert sc s.mem.poison } := by
  simp only [State.meetSector]
  split
  · exact .inl rfl
  · split
    · refine .inr (.inr ?_)
      split <;> simp
    · split
      · refine .inr (.inl ?_)
        split <;> simp
      · exact .inl rfl

theorem State.meetSector_hbm (s : State) (sc off : Nat) : (s.meetSector sc off).mem.hbm = s.mem.hbm := by
  rcases s.meetSector_mem sc off with h | h | h <;> rw [h]

theorem State.meetSector_wf {s : State} (sc off : Nat) (h : s.mem.wf = true) : (s.meetSector sc off).mem.wf = true := by
  rw [Memory.wf_iff] at h
  rcases s.meetSector_mem sc off with e | e | e <;> rw [e, Memory.wf_iff]
  · exact h
  · exact ⟨h.1, h.2.1, ssorted_serase h.2.2.1, h.2.2.2⟩
  · exact ⟨h.1, ssorted_sinsert h.2.1 (Nat.zero_le _), ssorted_serase h.2.2.1, ssorted_serase h.2.2.2⟩

/-- A property of memory that each step of a fold keeps, the fold keeps. -/
theorem foldl_mem {β : Type} (P : Memory → Prop) (f : State → β → State) (hf : ∀ s x, P s.mem → P (f s x).mem)
    (xs : List β) (s : State) (h : P s.mem) : P (xs.foldl f s).mem := by
  induction xs generalizing s with
  | nil => exact h
  | cons x xs ih => exact ih _ (hf _ _ h)

theorem State.readHbm_wf {s : State} (a n off : Nat) (h : s.mem.wf = true) : (s.readHbm a n off).1.mem.wf = true :=
  foldl_mem (·.wf = true) _ (fun _ _ => State.meetSector_wf _ _) _ _ h

/-- A read changes no byte. -/
theorem State.readHbm_hbm (s : State) (a n off : Nat) : (s.readHbm a n off).1.mem.hbm = s.mem.hbm :=
  foldl_mem (·.hbm = s.mem.hbm) _ (fun _ _ h => (State.meetSector_hbm _ _ _).trans h) _ _ rfl

theorem Memory.wf_clear {m : Memory} (sc : Nat) (h : m.wf = true) :
    ({ m with poison := serase sc m.poison, flawed := serase sc m.flawed, broken := serase sc m.broken } : Memory).wf
      = true := by
  rw [Memory.wf_iff] at h ⊢
  exact ⟨h.1, ssorted_serase h.2.1, ssorted_serase h.2.2.1, ssorted_serase h.2.2.2⟩

/-- What a write does to memory: the bytes go in; before that, sectors lose or gain marks. -/
theorem State.writeHbm_mem (s : State) (a : Nat) (bs : List Byte) (off : Nat) :
    ∃ m : Memory, (s.writeHbm a bs off).mem = m.put a bs ∧ m.hbm = s.mem.hbm ∧ (s.mem.wf = true → m.wf = true) := by
  refine ⟨_, rfl, ?_, fun h => ?_⟩
  · refine foldl_mem (·.hbm = s.mem.hbm) _ (fun t x h => ?_) _ _ rfl
    split
    · exact h
    · exact (State.meetSector_hbm _ _ _).trans h
  · refine foldl_mem (·.wf = true) _ (fun t x h => ?_) _ _ h
    split
    · exact Memory.wf_clear _ h
    · exact State.meetSector_wf _ _ h

theorem State.writeHbm_wf {s : State} (a : Nat) (bs : List Byte) (off : Nat) (h : s.mem.wf = true) :
    (s.writeHbm a bs off).mem.wf = true := by
  obtain ⟨m, e, _, hm⟩ := s.writeHbm_mem a bs off
  rw [e]; exact Memory.wf_put _ _ (hm h)

/-- The stored bytes read as stored, every other as before. -/
theorem State.writeHbm_byte {s : State} (a : Nat) (bs : List Byte) (off x : Nat) (h : s.mem.wf = true) :
    (s.writeHbm a bs off).mem.byte x =
      if _ : a ≤ x ∧ x < a + bs.length then bs[x - a] else s.mem.byte x := by
  obtain ⟨m, e, hb, hm⟩ := s.writeHbm_mem a bs off
  rw [e]
  split
  · next hx =>
    have := Memory.byte_put_in (m := m) a bs ((Memory.wf_iff _).1 (hm h)).1 (i := x - a) (by omega)
    rwa [Nat.add_sub_cancel' hx.1] at this
  · next hx =>
    rw [Memory.byte_put_out _ _ _ (by omega)]
    simp only [Memory.byte, hb]

theorem State.markSector_wf {s : State} (k : Nat) (h : s.mem.wf = true) : (s.markSector k).mem.wf = true := by
  simp only [State.markSector]
  rw [Memory.wf_iff] at h ⊢
  exact ⟨h.1, ssorted_sinsert h.2.1 (Nat.zero_le _), h.2.2⟩

/-! ### Runs, zero fill, scrubbing, injection -/

@[simp] theorem State.nandRead_mem (s : State) (p : Nat) : (s.nandRead p).mem = s.mem := by
  simp only [State.nandRead]
  split
  · rfl
  · exact State.setBlock_mem _ _ _ _

@[simp] theorem State.readPage_mem (s : State) (p : Nat) : (s.readPage p).mem = s.mem := by
  rw [State.readPage, State.nandRead_mem, State.count_mem]

@[simp] theorem State.writePage_mem (s : State) (o : Nat) (bs : List Byte) (marks : List Nat) :
    (s.writePage o bs marks).mem = s.mem := by
  simp only [State.writePage]
  split
  · exact State.nandRead_mem _ _
  · rfl

theorem State.readLoc_wf {s : State} (l : Loc) (n off : Nat) (h : s.mem.wf = true) : (s.readLoc l n off).1.mem.wf = true := by
  cases l with
  | hbm a => exact State.readHbm_wf _ _ _ h
  | fls o =>
    simp only [State.readLoc]
    split
    · exact h
    · simpa using h

theorem State.writeLoc_wf {s : State} (l : Loc) (bs : List Byte) (marks : List Nat) (off : Nat) (h : s.mem.wf = true) :
    (s.writeLoc l bs marks off).mem.wf = true := by
  cases l with
  | hbm a => exact foldl_mem (·.wf = true) _ (fun _ _ => State.markSector_wf _) _ _ (State.writeHbm_wf _ _ _ h)
  | fls o => simpa [State.writeLoc] using h

theorem State.readRuns_wf (rs : List (Loc × Nat × Nat)) {s : State} (h : s.mem.wf = true) :
    (s.readRuns rs).1.mem.wf = true := by
  induction rs generalizing s with
  | nil => exact h
  | cons r rs ih => exact ih (State.readLoc_wf _ _ _ h)

theorem State.writeRuns_wf (rs : List (Loc × Nat × Nat)) {s : State} (bs : List Byte) (marks : List Nat)
    (h : s.mem.wf = true) : (s.writeRuns rs bs marks).mem.wf = true := by
  induction rs generalizing s bs marks with
  | nil => exact h
  | cons r rs ih =>
    refine ih _ _ ?_
    split
    · exact h
    · exact State.writeLoc_wf _ _ _ _ h

theorem Memory.wf_filter {m : Memory} (p : Host.Cell → Bool) (q : Nat → Bool) (h : m.wf = true) :
    ({ hbm := m.hbm.filter p, poison := m.poison.filter q, flawed := m.flawed.filter q
       broken := m.broken.filter q } : Memory).wf = true := by
  rw [Memory.wf_iff] at h ⊢
  exact ⟨twf_filter _ h.1, ssorted_filter _ h.2.1, ssorted_filter _ h.2.2.1, ssorted_filter _ h.2.2.2⟩

theorem State.zeroBack_wf {s : State} (n k : Nat) (h : s.mem.wf = true) : (s.zeroBack n k).mem.wf = true := by
  simp only [State.zeroBack]
  split
  · exact Memory.wf_filter _ _ h
  · split <;> exact h

theorem State.scrubWaits_wf {s : State} (sc : Nat) (h : s.mem.wf = true) : (s.scrubWaits sc).mem.wf = true := by
  have h' := (Memory.wf_iff _).1 h
  exact (Memory.wf_iff _).2 ⟨h'.1, h'.2.1, ssorted_sinsert h'.2.2.1 (Nat.zero_le _), h'.2.2.2⟩

theorem State.scrubMeet_wf {s : State} (sc found : Nat) (h : s.mem.wf = true) : (s.scrubMeet sc found).mem.wf = true := by
  have h' := (Memory.wf_iff _).1 h
  have ins (p : Prop) [Decidable p] (l : List Nat) (hl : ssorted 0 l = true) :
      ssorted 0 (if p then sinsert sc l else l) = true := by
    split
    · exact ssorted_sinsert hl (Nat.zero_le _)
    · exact hl
  simp only [State.scrubMeet]
  split
  · exact h
  · have last (b : Bool) (t : State) (h : t.mem.wf = true) :
        (if found = 3 then t.count .hubErrStat 5 else if b then t.scrubWaits sc else t).mem.wf = true := by
      split
      · rw [State.count_mem]; exact h
      · split
        · exact State.scrubWaits_wf _ h
        · exact h
    exact last _ _ (State.meetSector_wf _ _ ((Memory.wf_iff _).2 ⟨h'.1, h'.2.1, ins _ _ h'.2.2.1, ins _ _ h'.2.2.2⟩))

@[simp] theorem State.scrubTurn_mem (s : State) (stack : Nat) : (s.scrubTurn stack).mem = s.mem := by
  simp only [State.scrubTurn]
  split
  · rw [State.count_mem]
  · rfl

theorem State.scrubRead_wf {s : State} (stack sector found : Nat) (h : s.mem.wf = true) :
    (s.scrubRead stack sector found).mem.wf = true := by
  simp only [State.scrubRead]
  split
  · exact h
  · rw [State.scrubTurn_mem]; exact State.scrubMeet_wf _ _ h

theorem State.inject_wf {s : State} (v : Word) (h : s.mem.wf = true) : (s.inject v).mem.wf = true := by
  have h' := (Memory.wf_iff _).1 h
  simp only [State.inject]
  split
  · exact h
  · split
    · exact h
    · split
      · exact h
      · split
        · exact h
        · split
          · exact (Memory.wf_iff _).2 ⟨h'.1, h'.2.1, ssorted_sinsert h'.2.2.1 (Nat.zero_le _), h'.2.2.2⟩
          · split
            · exact (Memory.wf_iff _).2 ⟨h'.1, h'.2.1, h'.2.2.1, ssorted_sinsert h'.2.2.2 (Nat.zero_le _)⟩
            · exact h

end Sys2Proof.Machine
end

