-- ==== Sys2Proof/Laws/Switch.lean ====
section
/-! SUPPORT. What the cells of the switch buffer add up to as frames enter and leave its queues (R437 to R440), and
the one lemma of each operation of the switch: it keeps the buffer's bound and leaves the rest of the state. -/

namespace Sys2Proof.Machine

/-- The cells that the frames of a queue of kind p hold. -/
def cellSum (p : QItem → Bool) (q : List QItem) : Nat := ((q.filter p).map (·.cells)).sum

/-- The cells of kind p over a table of queues. -/
def tableSum (p : QItem → Bool) (t : Table (List QItem)) : Nat := cellSum p (t.flatMap (·.2))

@[simp] theorem cellSum_nil (p : QItem → Bool) : cellSum p [] = 0 := rfl

@[simp] theorem cellSum_append (p : QItem → Bool) (a b : List QItem) : cellSum p (a ++ b) = cellSum p a + cellSum p b := by
  simp [cellSum]

theorem cellSum_single (p : QItem → Bool) (x : QItem) : cellSum p [x] = if p x then x.cells else 0 := by
  unfold cellSum; split <;> simp_all

@[simp] theorem tableSum_nil (p : QItem → Bool) : tableSum p [] = 0 := rfl

@[simp] theorem tableSum_cons (p : QItem → Bool) (e : Nat × List QItem) (t : Table (List QItem)) :
    tableSum p (e :: t) = cellSum p e.2 + tableSum p t := by
  simp [tableSum]

theorem tableSum_terase (p : QItem → Bool) (t : Table (List QItem)) (k : Nat) :
    tableSum p (terase t k) + cellSum p (tget [] t k) = tableSum p t := by
  induction t with
  | nil => simp [terase, tget]
  | cons e t ih =>
    obtain ⟨a, q⟩ := e
    simp only [terase, tget]
    split
    · simp [Nat.add_comm]
    · simp only [tableSum_cons]; omega

theorem tableSum_tinsert (p : QItem → Bool) (t : Table (List QItem)) (k : Nat) (q : List QItem) {lo : Nat}
    (h : tsorted lo t = true) :
    tableSum p (tinsert t k q) + cellSum p (tget [] t k) = tableSum p t + cellSum p q := by
  induction t generalizing lo with
  | nil => simp [tinsert, tget]
  | cons e t ih =>
    obtain ⟨a, r⟩ := e
    simp only [tsorted, Bool.and_eq_true, decide_eq_true_eq] at h
    simp only [tinsert, tget]
    split
    · rename_i hk
      have : k ≠ a := by omega
      simp only [tableSum_cons, this, if_false, tget_of_lt h.2 (show k < a + 1 by omega)]
      simp [Nat.add_comm]
    · split
      · simp only [tableSum_cons]; omega
      · have := ih h.2
        simp only [tableSum_cons]; omega

/-- A queue changes: the table's cells change by the difference. -/
theorem tableSum_tset (p : QItem → Bool) (t : Table (List QItem)) (k : Nat) (q : List QItem) (h : tsorted 0 t = true) :
    tableSum p (tset [] t k q) + cellSum p (tget [] t k) = tableSum p t + cellSum p q := by
  unfold tset
  split
  · rename_i hq; subst hq; simpa using tableSum_terase p t k
  · exact tableSum_tinsert p t k q h

theorem cellSum_erase_le (p : QItem → Bool) (q : List QItem) (x : QItem) : cellSum p (q.erase x) ≤ cellSum p q := by
  induction q with
  | nil => simp
  | cons y q ih =>
    rw [List.erase_cons]
    have e (a : QItem) (l : List QItem) : cellSum p (a :: l) = cellSum p [a] + cellSum p l := by
      rw [← cellSum_append]; rfl
    split
    · rw [e y q]; omega
    · rw [e y (q.erase x), e y q]; omega

theorem State.sharedUsed_eq (s : State) : s.sharedUsed = tableSum (fun x => !x.hdrm) s.sw.queues := rfl
theorem State.hdrmUsed_eq (s : State) : s.hdrmUsed = tableSum (fun x => x.hdrm) s.sw.queues := rfl

theorem mem_flatMap_tset {q : List QItem} {t : Table (List QItem)} {k : Nat} {x : QItem}
    (h : x ∈ (tset [] t k q).flatMap (·.2)) : x ∈ q ∨ x ∈ t.flatMap (·.2) := by
  simp only [List.mem_flatMap] at h ⊢
  obtain ⟨e, he, hx⟩ := h
  unfold tset at he
  split at he
  · exact .inr ⟨e, mem_terase he, hx⟩
  · rcases mem_tinsert he with h1 | h1
    · subst h1; exact .inl hx
    · exact .inr ⟨e, h1, hx⟩

theorem mem_flatMap_tget {t : Table (List QItem)} {k : Nat} {x : QItem} (h : x ∈ tget [] t k) : x ∈ t.flatMap (·.2) := by
  induction t with
  | nil => simp [tget] at h
  | cons e t ih =>
    obtain ⟨a, q⟩ := e
    simp only [tget] at h
    simp only [List.flatMap_cons, List.mem_append]
    split at h
    · exact .inl h
    · exact .inr (ih h)

/-! ### What an operation of the switch keeps -/

/-- The buffer goes on to fit, and only the switch, counters and what leaves the device differ. -/
structure State.Switches (s t : State) : Prop where
  fits : s.BufferFits → t.BufferFits
  rest : ∃ sw st o, t = { s with sw := sw, stat := st, out := o }

theorem State.Switches.refl (s : State) : s.Switches s := ⟨id, s.sw, s.stat, s.out, rfl⟩

theorem State.Switches.due {s t : State} (h : s.Switches t) : t.due = s.due := by
  obtain ⟨_, _, _, rfl⟩ := h.rest; rfl

theorem State.Switches.pending {s t : State} (h : s.Switches t) : t.pending = s.pending := by
  obtain ⟨_, _, _, rfl⟩ := h.rest; rfl

theorem State.Switches.trans {s t u : State} (h : s.Switches t) (k : t.Switches u) : s.Switches u := by
  refine ⟨fun x => k.fits (h.fits x), ?_⟩
  obtain ⟨_, _, _, rfl⟩ := h.rest
  obtain ⟨a, b, c, rfl⟩ := k.rest
  exact ⟨a, b, c, rfl⟩

/-- BufferFits speaks of the queues alone. -/
theorem State.BufferFits.of_queues {s t : State} (h : s.BufferFits) (e : t.sw.queues = s.sw.queues) : t.BufferFits := by
  refine ⟨?_, ?_, ?_⟩
  · rw [State.sharedUsed_eq, State.hdrmUsed_eq, e]; exact h.fits
  · unfold Switch.items; rw [e]; exact h.cells
  · rw [e]; exact h.once

/-- What leaves the queues as they are. -/
theorem State.Switches.of_queues {s t : State} (e : t.sw.queues = s.sw.queues)
    (h : ∃ sw st o, t = { s with sw := sw, stat := st, out := o }) : s.Switches t :=
  ⟨fun k => k.of_queues e, h⟩

theorem State.switches_out (s : State) (o : List Out) : s.Switches { s with out := o } :=
  .of_queues rfl ⟨s.sw, s.stat, o, rfl⟩

theorem State.switches_sw (s : State) {w : Switch} (h : w.queues = s.sw.queues) : s.Switches { s with sw := w } :=
  .of_queues h ⟨w, s.stat, s.out, rfl⟩

theorem State.switches_count (s : State) (r : Reg) (k n i : Nat) : s.Switches (s.count r k n i) := by
  obtain ⟨st, h⟩ := s.count_shape r k n i
  exact .of_queues (by simp) ⟨s.sw, st, s.out, h⟩

theorem State.switches_foldl {α : Type} {f : State → α → State} (hf : ∀ (s : State) (a : α), s.Switches (f s a)) (l : List α) (s : State) :
    s.Switches (l.foldl f s) := by
  induction l generalizing s with
  | nil => exact .refl s
  | cons a l ih => exact (hf s a).trans (ih _)

theorem State.switches_swPause (s : State) (i c : Nat) (q : BitVec 16) : s.Switches (s.swPause i c q) := by
  unfold State.swPause
  split
  · exact .refl s
  · exact (s.switches_out _).trans (State.switches_count _ _ _ _ _)

theorem State.switches_afterEnqueue (s : State) (i c : Nat) : s.Switches (s.afterEnqueue i c) := by
  unfold State.afterEnqueue; dsimp only
  split
  · exact .refl s
  · exact ((s.switches_swPause _ _ _).trans (State.switches_count _ _ _ _ _)).trans (State.switches_sw _ rfl)

theorem State.switches_setHeld (s : State) (i c : Nat) (l : List (Nat × EthFrame)) : s.Switches (s.setHeld i c l) :=
  .of_queues rfl ⟨_, _, _, rfl⟩

/-- A queue changes: its new frames have their cells, and no more of them are taken than the buffer has. -/
theorem State.switches_setSwQueue (s : State) (o c : Nat) (f : List QItem → List QItem)
    (h1 : ∀ x ∈ f (s.swQueue o c), x.cells = cellsOf x.frame.len ∨ x ∈ s.swQueue o c)
    (h2 : s.sharedUsed + s.hdrmUsed ≤ 196608 →
      s.sharedUsed + s.hdrmUsed + cellSum (fun x => !x.hdrm) (f (s.swQueue o c)) + cellSum (fun x => x.hdrm) (f (s.swQueue o c))
        ≤ 196608 + cellSum (fun x => !x.hdrm) (s.swQueue o c) + cellSum (fun x => x.hdrm) (s.swQueue o c)) :
    s.Switches (s.setSwQueue o c f) := by
  refine ⟨fun k => ?_, _, s.stat, s.out, rfl⟩
  have e1 := tableSum_tset (fun x => !x.hdrm) s.sw.queues (8 * o + c) (f (s.swQueue o c)) k.once
  have e2 := tableSum_tset (fun x => x.hdrm) s.sw.queues (8 * o + c) (f (s.swQueue o c)) k.once
  have a := h2 k.fits
  refine ⟨?_, ?_, tsorted_tset k.once⟩
  · rw [State.sharedUsed_eq, State.hdrmUsed_eq] at a ⊢
    change tableSum _ (tset [] s.sw.queues (8 * o + c) (f (s.swQueue o c))) +
      tableSum _ (tset [] s.sw.queues (8 * o + c) (f (s.swQueue o c))) ≤ _
    change _ + cellSum _ (s.swQueue o c) = _ at e1
    change _ + cellSum _ (s.swQueue o c) = _ at e2
    omega
  · intro x hx
    rcases mem_flatMap_tset hx with h | h
    · rcases h1 x h with h | h
      · exact h
      · exact k.cells x (mem_flatMap_tget h)
    · exact k.cells x h

theorem State.switches_erase (s : State) (o c : Nat) (x : QItem) : s.Switches (s.setSwQueue o c (·.erase x)) := by
  refine s.switches_setSwQueue o c _ (fun y hy => .inr (List.mem_of_mem_erase hy)) (fun a => ?_)
  have := cellSum_erase_le (fun x => !x.hdrm) (s.swQueue o c) x
  have := cellSum_erase_le (fun x => x.hdrm) (s.swQueue o c) x
  omega

/-- A frame enters a queue whose part of the buffer has room for it. -/
theorem State.switches_enqueue (s : State) (o : Nat) (x : QItem) (hc : x.cells = cellsOf x.frame.len)
    (hr : x.cells ≤ s.sharedFree ∨ (x.hdrm = true ∧ x.cells ≤ s.hdrmFree)) : s.Switches (s.enqueue o x) := by
  have room : s.sharedUsed + s.hdrmUsed ≤ 196608 → s.sharedUsed + s.hdrmUsed + x.cells ≤ 196608 := by
    simp only [State.sharedFree, State.hdrmFree] at hr; omega
  have put (t : State) (y : QItem) (ht : t.sw.queues = s.sw.queues) (hy : y.cells = x.cells) (hl : y.frame.len = x.frame.len)
      : t.Switches (t.setSwQueue o x.cls (· ++ [y])) := by
    refine t.switches_setSwQueue o _ _ (fun z hz => ?_) (fun a => ?_)
    · simp only [List.mem_append, List.mem_singleton] at hz
      rcases hz with h | h
      · exact .inr h
      · subst h; exact .inl (by rw [hy, hl]; exact hc)
    · simp only [cellSum_append, cellSum_single, hy]
      rw [State.sharedUsed_eq, State.hdrmUsed_eq, ht, ← State.sharedUsed_eq, ← State.hdrmUsed_eq] at a ⊢
      have := room a
      cases y.hdrm <;> simp <;> omega
  unfold State.enqueue; dsimp only
  split
  · exact (s.switches_count _ _ _ _).trans (put _ _ (by simp) rfl rfl)
  · exact put _ _ rfl rfl rfl

theorem State.switches_mirrorCopy (s : State) (e : EthFrame) : s.Switches (s.mirrorCopy e) := by
  unfold State.mirrorCopy; dsimp only
  repeat' split
  all_goals first
    | exact .refl s
    | exact s.switches_count _ _ _ _
    | (rename_i h
       simp only [Bool.or_eq_true, decide_eq_true_eq, not_or] at h
       exact s.switches_enqueue _ _ rfl (.inl (by dsimp only; omega)))

theorem State.switches_mirrorIn (s : State) (i : Nat) (e : EthFrame) : s.Switches (s.mirrorIn i e) := by
  unfold State.mirrorIn; dsimp only
  generalize (s.mirEn && _ && _ : Bool) = b
  split
  · exact s.switches_mirrorCopy _
  · exact .refl s

theorem State.switches_admitFrame (s : State) (i o : Nat) (e : EthFrame) (y : Bool) : s.Switches (s.admitFrame i o e y) := by
  unfold State.admitFrame State.mustWait; dsimp only
  have fin {x : QItem} (h : s.Switches (s.enqueue o x)) : s.Switches ((s.enqueue o x).afterEnqueue i (frameCls e)) :=
    h.trans (State.switches_afterEnqueue _ _ _)
  repeat' split
  all_goals first
    | exact s.switches_setHeld _ _ _
    | exact s.switches_count _ _ _ _
    | (rename_i h
       simp only [Bool.or_eq_true, decide_eq_true_eq, not_or, bne_iff_ne, ne_eq] at h
       exact s.switches_enqueue _ _ rfl (.inl (by dsimp only [State.itemOf]; omega)))
    | (rename_i h
       simp only [Bool.or_eq_true, decide_eq_true_eq, not_or] at h
       exact fin (s.switches_enqueue _ _ rfl (.inl (by dsimp only [State.itemOf]; omega))))
    | (rename_i h
       exact fin (s.switches_enqueue _ _ rfl (.inr ⟨rfl, by dsimp only [State.itemOf]; omega⟩)))
    | (rename_i h _
       simp only [Bool.or_eq_true, decide_eq_true_eq, not_or] at h
       exact fin (s.switches_enqueue _ _ rfl (.inl (by dsimp only [State.itemOf]; omega))))

theorem State.switches_goOnAt (k n : Nat) (s : State) : s.Switches (State.goOnAt k n s) := by
  induction n generalizing s with
  | zero => exact .refl s
  | succ n ih =>
    unfold State.goOnAt
    split
    · exact .refl s
    · split
      · exact .refl s
      · rename_i o e rest _ h
        simp only [State.mustWait, Bool.or_eq_true, decide_eq_true_eq, not_or] at h
        refine ((s.switches_setHeld _ _ _).trans (State.switches_enqueue _ _ _ rfl (.inl ?_))).trans (ih _)
        change cellsOf e.len ≤ s.sharedFree
        omega

theorem State.switches_afterDequeue (s : State) : s.Switches s.afterDequeue := by
  unfold State.afterDequeue; dsimp only
  refine State.Switches.trans ?_ (State.switches_foldl (fun t a => State.switches_goOnAt _ _ t) _ _)
  exact (State.switches_foldl (fun s p => s.switches_swPause _ _ _) _ _).trans (State.switches_sw _ rfl)

theorem State.switches_sweepGo (n : Nat) (s : State) : s.Switches (State.sweepGo n s) := by
  induction n generalizing s with
  | zero => exact .refl s
  | succ n ih =>
    unfold State.sweepGo
    split
    · exact .refl s
    · refine (State.Switches.trans (State.switches_foldl (fun t h => ?_) _ _) (State.switches_afterDequeue _)).trans (ih _)
      exact (t.switches_erase _ _ _).trans (State.switches_count _ _ _ _ _)

theorem State.switches_sweep (s : State) : s.Switches s.sweep := State.switches_sweepGo _ s

theorem State.switches_launch (s : State) (e : EthFrame) : s.Switches (s.launch e) := by
  unfold State.launch
  split
  · exact s.switches_count _ _ _ _
  · exact (s.switches_admitFrame _ _ _ _).trans (State.switches_sweep _)

theorem State.switches_setPolicer (s : State) (p : Nat) (x : Policer) : s.Switches (s.setPolicer p x) :=
  .of_queues rfl ⟨_, _, _, rfl⟩

theorem State.switches_meter (s : State) (r : Option Nat) (e : EthFrame) : s.Switches (s.meter r e).1 := by
  unfold State.meter State.police; dsimp only
  repeat' split
  all_goals first
    | exact .refl s
    | exact s.switches_setPolicer _ _

theorem State.switches_policed (s : State) (i o : Nat) (e : EthFrame) : s.Switches (s.policed i o e) := by
  unfold State.policed; dsimp only
  refine (s.switches_meter (s.flowRule i e) e).trans ?_
  split
  · exact State.switches_count _ _ _ _ _
  · exact State.switches_admitFrame _ _ _ _ _

theorem State.switches_takeFrame (s : State) (o c : Nat) (x : QItem) : s.Switches (s.takeFrame o c x) := by
  unfold State.takeFrame; dsimp only
  refine State.Switches.trans (State.Switches.trans ?_ (State.switches_afterDequeue _)) (State.switches_sweep _)
  refine (s.switches_erase o c x).trans ?_
  exact State.switches_sw _ rfl

theorem State.switches_sendOut (s : State) (o : Nat) (x : QItem) : s.Switches (s.sendOut o x) := by
  unfold State.sendOut; dsimp only
  have h : s.Switches (State.count { s with out := s.out ++ [.frame o (s.asSent o x)] } .swStat 1) :=
    (s.switches_out _).trans (State.switches_count _ _ _ _ _)
  split
  · exact h.trans (State.switches_mirrorCopy _ _)
  · exact h

theorem State.switches_serveOutput (s : State) (o : Nat) : s.Switches (s.serveOutput o).1 := by
  unfold State.serveOutput; dsimp only
  split
  · exact .refl s
  · split
    · exact s.switches_sweep
    · split
      · exact s.switches_sweep.trans (State.switches_takeFrame _ _ _ _)
      · exact (s.switches_sweep.trans (State.switches_takeFrame _ _ _ _)).trans (State.switches_sendOut _ _ _)

end Sys2Proof.Machine
end

