-- ==== Sys2Proof/Laws/Ops.lean ====
section
/-! SUPPORT. What sending, acknowledging and taking a message may change, and the one lemma of every
request: what it does when it is taken, refused or dropped. -/

namespace Sys2Proof.Machine

/-! ### Effects of the transport alone -/

/-- Nothing becomes due. -/
theorem State.OnlyTransport.of_quiet {s t : State}
    (h : ∃ xp sw st o fr tx q, t = { s with xp := xp, sw := sw, stat := st, out := o, free := fr
                                            dir := { s.dir with txns := tx }, mgt := { s.mgt with queue := q } }) :
    s.OnlyTransport t := by
  obtain ⟨xp, sw, st, o, fr, tx, q, rfl⟩ := h
  exact ⟨xp, sw, st, o, fr, tx, q, [], by simp, by simp⟩

theorem State.OnlyTransport.refl (s : State) : s.OnlyTransport s := .of_quiet ⟨_, _, _, _, _, _, _, rfl⟩

theorem State.OnlyTransport.trans {s t u : State} (h : s.OnlyTransport t) (g : t.OnlyTransport u) :
    s.OnlyTransport u := by
  obtain ⟨_, _, _, _, _, _, _, l, hl, rfl⟩ := h
  obtain ⟨a, b, c, d, e, f, g, m, hm, rfl⟩ := g
  refine ⟨a, b, c, d, e, f, g, l ++ m, fun x hx => ?_, by simp⟩
  rcases List.mem_append.1 hx with h | h
  · exact hl x h
  · exact hm x h

/-- A queued command and what it finds due stay in front. -/
theorem State.OnlyTransport.pending {s t : State} (h : s.OnlyTransport t) : t.pending = s.pending := by
  obtain ⟨_, _, _, _, _, _, _, _, _, rfl⟩ := h; rfl

theorem State.Switches.only {s t : State} (h : s.Switches t) : s.OnlyTransport t := by
  obtain ⟨sw, st, o, rfl⟩ := h.rest
  exact .of_quiet ⟨s.xp, sw, st, o, s.free, s.dir.txns, s.mgt.queue, rfl⟩

theorem State.only_owe (s : State) {d : Due} (h : d = .tagFree ∨ ∃ c, d = .hdlSent c) : s.OnlyTransport (s.owe d) :=
  ⟨_, _, _, _, _, _, _, [d], by simpa using h, rfl⟩

theorem State.only_count (s : State) (r : Reg) (k n i : Nat) : s.OnlyTransport (s.count r k n i) :=
  (s.switches_count r k n i).only

theorem State.only_setSess (s : State) (n : Nat) (f : Session → Session) : s.OnlyTransport (s.setSess n f) :=
  .of_quiet ⟨_, _, _, _, _, _, _, rfl⟩

theorem State.only_setRx (s : State) (n c : Nat) (f : RxStream → RxStream) : s.OnlyTransport (s.setRx n c f) :=
  s.only_setSess _ _

theorem State.only_setTx (s : State) (n c : Nat) (f : TxStream → TxStream) : s.OnlyTransport (s.setTx n c f) :=
  s.only_setSess _ _

/-- A message that leaves only enters the switch. -/
theorem State.switches_sendTo (s : State) (ep : Word32) (ip : IpAddr) (p : BitVec 16) (m : Msg) :
    s.Switches (s.sendTo ep ip p m) := by
  unfold State.sendTo
  split
  · exact .refl s
  · split
    · exact .refl s
    · exact s.switches_launch _

theorem State.only_emit (s : State) (n : Nat) (p : BitVec 16) (m : Msg) : s.OnlyTransport (s.emit n p m) :=
  (s.switches_sendTo _ _ _ _).only

@[simp] theorem State.emit_due (s : State) (n : Nat) (p : BitVec 16) (m : Msg) : (s.emit n p m).due = s.due :=
  (s.switches_sendTo _ _ _ _).due
@[simp] theorem State.emit_pending (s : State) (n : Nat) (p : BitVec 16) (m : Msg) : (s.emit n p m).pending = s.pending :=
  (s.switches_sendTo _ _ _ _).pending
@[simp] theorem State.sendBare_due (s : State) (n c : Nat) (t : Byte) (a : Bool) : (s.sendBare n c t a).due = s.due :=
  State.emit_due _ _ _ _
@[simp] theorem State.sendBare_pending (s : State) (n c : Nat) (t : Byte) (a : Bool) :
    (s.sendBare n c t a).pending = s.pending := State.emit_pending _ _ _ _

theorem State.only_stampReq (s : State) (n : Nat) (m : Msg) : s.OnlyTransport (s.stampReq n m) := by
  have sent (k : ReqKind) : s.OnlyTransport (s.countSent k) := by
    unfold State.countSent
    split
    · exact s.only_count _ _ _ _
    · exact s.only_count _ _ _ _
    · split
      · exact s.only_count _ _ _ _
      · exact .refl s
    · exact s.only_owe (.inr ⟨_, rfl⟩)
    · exact .refl s
  unfold State.stampReq; dsimp only
  split
  · exact .refl s
  · split
    · exact (sent _).trans (.of_quiet ⟨_, _, _, _, _, _, _, rfl⟩)
    · exact .of_quiet ⟨_, _, _, _, _, _, _, rfl⟩

theorem State.only_transmit (s : State) (n c : Nat) (m : Msg) : s.OnlyTransport (s.transmit n c m) := by
  unfold State.transmit; dsimp only
  exact ((((s.only_stampReq n m).trans (State.only_setTx _ _ _ _)).trans (State.only_setRx _ _ _ _)).trans
    (State.only_count _ _ _ _ _)).trans (State.only_emit _ _ _ _)

theorem State.only_pump (n c f : Nat) (s : State) : s.OnlyTransport (State.pump n c f s) := by
  induction f generalizing s with
  | zero => exact .refl s
  | succ f ih =>
    simp only [State.pump]
    split
    · exact .refl s
    · split
      · exact ((s.only_setTx _ _ _).trans (State.only_transmit _ _ _ _)).trans (ih _)
      · exact .refl s

theorem State.only_sendSeq (s : State) (n c : Nat) (t : Byte) (h : Hdr) (p : List Byte) (x : Option Nat) :
    s.OnlyTransport (s.sendSeq n c t h p x) := by
  simp only [State.sendSeq]
  split
  · exact (s.only_setTx _ _ _).trans (State.only_pump _ _ _ _)
  · exact .refl s

theorem State.only_sendBare (s : State) (n c : Nat) (t : Byte) (a : Bool) : s.OnlyTransport (s.sendBare n c t a) :=
  (s.only_setRx _ _ _).trans (State.only_emit _ _ _ _)

theorem State.only_sendCpl (s : State) (o : Origin) (st : Byte) (p : List Byte) (nc a : Bool) :
    s.OnlyTransport (s.sendCpl o st p nc a) := by
  simp only [State.sendCpl]
  split
  · exact s.only_sendSeq _ _ _ _ _ _
  · exact s.only_count _ _ _ _

theorem State.only_ackEffects (s : State) (n i c : Nat) (qs : List Word32) : s.OnlyTransport (s.ackEffects n i c qs) := by
  have grants (t : State) (d : List Txn) (h : t = { s with dir := { s.dir with txns := d } }) : s.OnlyTransport t :=
    .of_quiet ⟨s.xp, s.sw, s.stat, s.out, s.free, d, s.mgt.queue, h⟩
  simp only [State.ackEffects]
  split
  · split
    · exact .of_quiet ⟨_, _, _, _, _, _, _, rfl⟩
    · refine State.OnlyTransport.trans ?_ (State.only_count _ _ _ _ _)
      exact .of_quiet ⟨_, _, _, _, _, _, _, rfl⟩
  · exact grants _ _ rfl

theorem State.only_gotAck (s : State) (n c : Nat) (a : Word32) (e : Bool) : s.OnlyTransport (s.gotAck n c a e) := by
  have ece : s.OnlyTransport (if e then s.gotEce n c else s) := by
    split
    · simp only [State.gotEce]
      split
      · exact .refl s
      · exact s.only_setTx _ _ _
    · exact .refl s
  simp only [State.gotAck]
  generalize (if e then s.gotEce n c else s) = u at ece ⊢
  split
  · exact ece
  · exact ((ece.trans (State.only_setTx _ _ _ _)).trans (State.only_ackEffects _ _ _ _ _)).trans (State.only_pump _ _ _ _)

theorem State.only_discard (s : State) : s.OnlyTransport s.discard := s.only_count _ _ _ _

theorem State.only_answerUnknown (s : State) (f : Frame) : s.OnlyTransport (s.answerUnknown f) := by
  unfold State.answerUnknown State.draw
  dsimp only
  repeat' split
  all_goals first
    | exact .refl s
    | (refine State.OnlyTransport.trans ?_ (State.switches_sendTo _ _ _ _ _).only
       exact .of_quiet ⟨_, _, _, _, _, _, _, rfl⟩)

/-- Row 2 drops a message with an effect of the transport alone. -/
theorem State.row2_done {s t : State} {f : Frame} (h : s.row2 f = .done t) : s.OnlyTransport t := by
  simp only [State.row2] at h
  split at h
  · cases h; exact s.only_answerUnknown f
  · split at h
    · split at h <;> cases h; exact s.only_discard
    · split at h <;> cases h; exact s.only_discard
    · cases h; exact .refl s
    · cases h; exact s.only_answerUnknown f
    · cases h; exact s.only_answerUnknown f

theorem State.only_noteCe (s : State) (n : Nat) (f : Frame) : s.OnlyTransport (s.noteCe n f) := by
  unfold State.noteCe
  dsimp only
  generalize hu : (if f.ce then s.count .hubRvtStat 6 else s) = u
  have hsu : s.OnlyTransport u := by
    subst hu; split
    · exact s.only_count _ _ _ _
    · exact .refl s
  refine hsu.trans ?_
  split
  · exact u.only_setRx _ _ _
  · split
    · split
      · exact u.only_setRx _ _ _
      · exact .refl u
    · exact .refl u

theorem State.only_answerAckreq (s : State) (n i : Nat) (f : Frame) : s.OnlyTransport (s.answerAckreq n i f) := by
  unfold State.answerAckreq; dsimp only
  split
  · exact s.only_sendBare _ _ _ _
  · exact .refl s

/-- Row 3, whether the message is in order or not, has an effect of the transport alone. -/
theorem State.row3_only {s t : State} {n : Nat} {f : Frame} (h : s.row3 n f = .inOrder t ∨ s.row3 n f = .done t) :
    s.OnlyTransport t := by
  simp only [State.row3] at h
  refine (s.only_noteCe n f).trans ?_
  generalize s.noteCe n f = v at h
  split at h
  · rcases h with h | h <;> cases h
    exact ((v.only_setRx _ _ _).trans (State.only_count _ _ _ _ _)).trans (State.only_gotAck _ _ _ _ _)
  · split at h
    · rcases h with h | h
      · cases h
      · simp only [Row3.done.injEq] at h
        subst h
        refine State.OnlyTransport.trans ?_ (State.only_answerAckreq _ _ _ _)
        repeat' split
        all_goals first
          | exact .refl _
          | exact ((State.only_setRx _ _ _ _).trans (State.only_count _ _ _ _ _)).trans (State.only_sendBare _ _ _ _ _)
    · split at h <;> rcases h with h | h <;> cases h
      · exact v.only_discard
      · exact (State.only_count _ _ _ _ _).trans (State.only_sendBare _ _ _ _ _)

theorem State.only_countRefusal (s : State) (u q op : Nat) : s.OnlyTransport (s.countRefusal u q op) := by
  unfold State.countRefusal
  split
  · exact .refl s
  · split
    all_goals first
      | exact s.only_count _ _ _ _
      | exact .refl s

/-! ### Unsequenced messages -/

/-- A session that receives a message is the one that it names, and can receive. -/
theorem State.row2_sess {s : State} {f : Frame} {n : Nat} (h : s.row2 f = .sess n) : f.hdr.dstSess.toNat = n ∧ s.stands n = true := by
  simp only [State.row2] at h
  split at h
  · cases h
  · rename_i hn
    split at h
    all_goals first
      | (cases h; done)
      | (rename_i ho
         split at h <;> cases h
         exact ⟨rfl, by simp only [State.stands, ho]; simp; omega⟩)

/-- One that arrives with nothing wrong in it is taken. -/
theorem State.bare_control {s : State} {typ : Byte} {f : Frame} {pay n : Nat} (h : Control s typ f pay n) :
    s.bare typ f pay = (s.unsequenced n f, some n) := by
  obtain ⟨hl, hw, hs, ⟨hv, hv'⟩, ⟨hb, ho, hst⟩, he, h7⟩ := h
  obtain ⟨hn, hstands⟩ := State.row2_sess hs
  have h1 : (typ = 0x03 && !s.stands f.hdr.dstSess.toNat) = false := by rw [hn, hstands]; simp
  have h2 : (!s.verOn f.hdr || f.hdr.ver != (s.sess n).ver || ctlBad f pay || (f.hdr.status != 0 && typ != 0x05)
      || ((s.sess n).ver = 1 && f.hdr.epoch != 0) || ctlOdd f.hdr) = false := by
    rcases hst with hst | hst <;> by_cases hx : (s.sess n).ver = 1 <;> simp_all
  simp only [State.bare, hl, hw, h1, hs, h2, h7, Bool.not_true, Bool.false_eq_true, if_false]
  rfl

theorem State.only_unsequenced (s : State) (n : Nat) (f : Frame) : s.OnlyTransport (s.unsequenced n f) := by
  unfold State.unsequenced
  refine State.OnlyTransport.trans (State.OnlyTransport.trans ?_ (State.only_gotAck _ _ _ _ _)) (State.only_answerAckreq _ _ _ _)
  split
  · exact s.only_count _ _ _ _
  · exact .refl s

/-! ### Requests -/

/-- A request that is taken has its command's effect on the state that rows 1 to 3 leave. -/
theorem State.withRequest_takes {s : State} {typ : Byte} {f : Frame} {fo : FlagsOk} {parse : State → Nat → Parse}
    {body : State → Origin → State} {n : Nat} {r : State} (h : s.Takes typ f fo (parse r n) n r) :
    s.withRequest typ f fo parse body =
      (body r (r.originOf n typ f.hdr)).answerAckreq n (r.originOf n typ f.hdr).inc f := by
  have hp := h.passes
  simp only [State.withRequest, h.listens, h.whole, h.sess, h.order, hp]
  simp [stOk, stFenced]

/-- A request that is not taken changes only what the transport keeps (R35). -/
theorem State.withRequest_cases (s : State) (typ : Byte) (f : Frame) (fo : FlagsOk) (parse : State → Nat → Parse)
    (body : State → Origin → State) :
    s.OnlyTransport (s.withRequest typ f fo parse body) ∨
    ∃ n r, s.OnlyTransport r ∧ s.withRequest typ f fo parse body =
      (body r (r.originOf n typ f.hdr)).answerAckreq n (r.originOf n typ f.hdr).inc f := by
  simp only [State.withRequest]
  split
  · exact .inl (.refl s)
  · split
    · exact .inl s.only_discard
    · split
      · next h => exact .inl (State.row2_done h)
      · split
        · next h => exact .inl (State.row3_only (.inr h))
        · next n _ _ r h =>
          have hr := State.row3_only (.inl h)
          by_cases hs : r.stage1 n f.hdr fo { parse r n with odd := (parse r n).odd || r.notHere typ } = stOk
          · refine .inr ⟨n, r, hr, ?_⟩
            simp [hs, stOk, stFenced]
          · refine .inl (hr.trans ?_)
            rw [if_neg hs]
            refine State.OnlyTransport.trans ?_ (State.only_answerAckreq _ n _ f)
            refine State.OnlyTransport.trans ?_ (State.only_sendCpl _ _ _ _ _ _)
            have fenced (p : Prop) [Decidable p] : r.OnlyTransport (if p then r.count .fabStat 0 else r) := by
              split
              · exact r.only_count _ _ _ _
              · exact .refl r
            split
            · exact (fenced _).trans (State.only_countRefusal _ _ _ _)
            · exact fenced _

end Sys2Proof.Machine
end

