-- ==== Sys2Proof/WellFormed.lean ====
section
/-! DEFINITION. Which commands are well formed: what no sender can mean is named. The meanings are
total and do not ask for it; statements may. -/

namespace Sys2Proof

/-- What is wrong with a command. -/
inductive Bad where
  /-- a session number that is not 0 to 81,919 (R87) -/
  | session
  /-- a traffic class that is not 0 to 7 (R95) -/
  | cls
  /-- a requester tag that is not 0 to 16,383 (R109) -/
  | tag
  /-- a payload that no UDP datagram holds (R82) -/
  | payload
  /-- a switch port that is not 0 to 37 (R432) -/
  | port
  /-- a frame length that no Ethernet frame has (the buffer rules before R437) -/
  | frameLen
  /-- a device line past the 47-bit offset space (R46) -/
  | line
  /-- a page of no region or of no flash user space (R200, R237) -/
  | page
  /-- a policer that is not 0 to 1,022 (R444) -/
  | policer
  /-- a count that no SMBus block carries (R535) -/
  | count
  /-- temperatures that are not eight dies and sixteen stacks (R567) -/
  | sensors
  /-- a NAND population that names no block or page (R235) -/
  | nand
deriving DecidableEq, Repr

/-- The frame of a message row. -/
def Frame.check (f : Frame) : Option Bad :=
  if 65535 < f.payload.length then some .payload else none

def EthFrame.check (port : Nat) (e : EthFrame) : Option Bad :=
  if 37 < port then some .port
  else if e.len < 64 ∨ 9238 < e.len then some .frameLen
  else none

/-- The frame that a message row takes. -/
def Instr.frame? : Instr → Option Frame
  | .rvtOpen f | .rvtAccept f | .rvtClose f | .rvtAck f | .rvtNak f | .memRead f _ | .memWrite f _
  | .memAtomic f | .memSignal f | .memFence f | .memDrain f | .mgRead f _ | .mgWrite f _ | .ptInval f
  | .rvtCpl f | .cacheFlush f | .cacheInval f | .cohReadS f | .cohReadE f | .cohUpgrade f | .cohWb f
  | .cohEvict f | .cohRecallAnswer f | .cohRecallReceived f | .vrOpen f | .vrPublish f | .vrRelease f
  | .paceStart f | .paceStop f | .tileMove f | .flashSync f | .teRun f | .sqOpen f | .sqArm f
  | .sqSetlen f | .sqOffer f | .sqQuery f | .sqClose f | .batonOffer f | .batonData f | .batonCommit f
  | .batonRelease f | .batonQuery f | .seQuery f | .guGather f | .guScatter f | .guHeat f | .hdlAlloc f
  | .hdlFree f | .hdlUpdate f | .hdlRead f | .hdlWatch f | .hdlSave f | .hdlRestore f | .hdlPeer f
  | .secAttest f => some f
  | _ => none

/-- The first thing wrong with a command; `none` when it is well formed. -/
def Instr.check (i : Instr) : Option Bad :=
  match i.frame? with
  | some f => f.check
  | none =>
    match i with
    | .ackDelayExpiry n c | .retxTimerExpiry n c =>
      if 81919 < n then some .session else if 7 < c then some .cls else none
    | .openingTimeout n | .sessionDrained n | .sessAbort n _ => if 81919 < n then some .session else none
    | .recallTimeout t | .borrowTimeout t | .hdlPeerTimeout t => if 16383 < t then some .tag else none
    | .frameReceive p e _ => e.check p
    | .pfcPauseRepeat p _ | .outputService p | .pauseFrameReceive p _ _ | .pauseQuantaExpiry p _ =>
      if 37 < p then some .port else none
    | .ecEvict _ l => if 2 ^ 56 ≤ l then some .line else none
    | .parkedRequestStart l => if 2 ^ 40 ≤ l then some .line else none
    | .vrFold _ p => if 2 ^ 35 ≤ p then some .page else none
    | .flashRefresh p _ _ => if 2 ^ 35 ≤ p then some .page else none
    | .swPolRate p _ => if 1022 < p then some .policer else none
    | .smbRead n _ _ _ | .smbWrite n _ _ _ _ => if n ≤ 255 then none else some .count
    | .throttleEval x => if x.die.length = 8 ∧ x.stk.length = 16 then none else some .sensors
    | .perstRise _ _ _ _ n => if n.blocks = 0 ∨ n.blockPages = 0 then some .nand else none
    | _ => none

/-- A command is well formed. -/
def Instr.wf (i : Instr) : Bool := i.check.isNone

end Sys2Proof
end

