-- ==== Sys2Proof/Tests/Slice0.lean ====
section
/-! SUPPORT. The model's own tests: what the checks of well-formedness refuse, small tests of single steps, and
for each statement with hypotheses a concrete state and operands that meet them together (`witness_…`). -/

namespace Sys2Proof.Tests
open Sys2Proof Sys2Proof.Machine
set_option Elab.async false
set_option linter.unusedVariables false

/-! ### Small states and messages -/

/-- A device that has started and is a member of its fabric, with device 5 beside it. -/
def up : State :=
  { State.reset with
    boot := { State.reset.boot with phase := .running }
    fab := { State.reset.fab with state := .member, members := [(5, { kind := .member, set_ := true })] } }

/-- The registers of s written, fields whole. -/
def regs (s : State) (ws : List (RegAt × Nat)) : State :=
  ws.foldl (fun s w => s.putAt w.1 (BitVec.ofNat 64 w.2)) s

/-- `up` with an OPEN session 5 of device 5, an OPEN session 65,536 of the host at endpoint 65,536, which is also a
manager, and context 1 of that host with a segment for reads, writes and atomics over offsets from 0. -/
def live : State :=
  let u := regs up [({ reg := .hubCtxCfg, i := 1 }, 1), ({ reg := .hubCtxOwner, i := 1 }, 0x10000),
    ({ reg := .hubSegLen, i := 1 }, 0x10000), ({ reg := .hubSegAttr, i := 1 }, 0xF), ({ reg := .hubRvtMgr }, 0xFFFFFFFF00010000),
    ({ reg := .fabId }, 0x10000)]
  let open_ (ep : Nat) : Session :=
    { state := .open, ver := 2, peerEp := BitVec.ofNat 32 ep, ip := .v6 1, rx := freshRx 0 }
  { u with xp := { u.xp with sessions := [(5, open_ 5), (65536, open_ 65536)] } }

/-- The message of type typ with header h and payload p on session n, whole, from the endpoint of that number. -/
def msg (typ : Byte) (n : Nat) (h : Hdr) (p : List Byte) : Frame :=
  let h := { h with dstSess := BitVec.ofNat 32 n, srcEp := if n = 0 then h.srcEp else BitVec.ofNat 32 n, payLen := BitVec.ofNat 16 p.length }
  { hdr := h, payload := p, udpPort := 0x5A71, srcIp := .v6 1
    crc := crc32c (h.bytes typ ++ p) }

/-- n zero bytes. -/
def zeros (n : Nat) : List Byte := List.replicate n 0

/-- The state that rows 1 to 3 leave for f. -/
def seen (s : State) (n : Nat) (f : Frame) : State := match s.row3 n f with | .inOrder r => r | .done r => r

def sessNo : Row2 → Option Nat | .sess n => some n | .done _ => none
def ordered : Row3 → Bool | .inOrder _ => true | .done _ => false

theorem sess_of {r : Row2} {n : Nat} (h : sessNo r = some n) : r = .sess n := by
  cases r <;> simp_all [sessNo]

theorem seen_of {s : State} {n : Nat} {f : Frame} (h : ordered (s.row3 n f) = true) : s.row3 n f = .inOrder (seen s n f) := by
  unfold seen; cases hr : s.row3 n f <;> simp_all [ordered]

theorem fst_eq {α β : Type} {x : α × β} {b : β} (h : x.2 = b) : x = (x.1, b) := by cases x; simp_all

/-- f arrives on session n, as a test. -/
def arrives (s : State) (typ : Byte) (f : Frame) (n : Nat) : Bool :=
  s.due = [] && !s.err.stopped && s.listens && !s.row1Bad typ f && sessNo (s.row2 f) = some n && ordered (s.row3 n f)

theorem arrives_of {s : State} {typ : Byte} {f : Frame} {n : Nat} (h : arrives s typ f n = true) :
    s.Arrives typ f n (seen s n f) := by
  simp only [arrives, Bool.and_eq_true, Bool.not_eq_true', decide_eq_true_eq] at h
  obtain ⟨⟨⟨⟨⟨h0, h1⟩, h2⟩, h3⟩, h4⟩, h5⟩ := h
  exact ⟨⟨h0, h1⟩, h2, h3, sess_of h4, seen_of h5⟩

/-- f is taken on session n, from its arrival and the rest of stage 1. -/
theorem takes_of {s : State} {typ : Byte} {f : Frame} {fo : FlagsOk} {p : Parse} {n : Nat} (h : arrives s typ f n = true)
    (h' : (seen s n f).stage1 n f.hdr fo { p with odd := p.odd || (seen s n f).notHere typ } = stOk) :
    s.Takes typ f fo p n (seen s n f) := { arrives_of h with passes := h' }

/-- f is an unsequenced message that is taken, as a test. -/
def control (s : State) (typ : Byte) (f : Frame) (pay n : Nat) : Bool :=
  s.listens && !s.row1Bad typ f && sessNo (s.row2 f) = some n && s.verOn f.hdr && f.hdr.ver = (s.sess n).ver && !ctlBad f pay
    && !ctlOdd f.hdr && (f.hdr.status = 0 || typ = 0x05) && ((s.sess n).ver != 1 || f.hdr.epoch = 0) && !s.row7 n f.hdr

theorem control_of {s : State} {typ : Byte} {f : Frame} {pay n : Nat} (h : control s typ f pay n = true) :
    Control s typ f pay n := by
  simp only [control, Bool.and_eq_true, Bool.or_eq_true, Bool.not_eq_true', decide_eq_true_eq, bne_iff_ne] at h
  obtain ⟨⟨⟨⟨⟨⟨⟨⟨⟨h0, h1⟩, h2⟩, h3⟩, h4⟩, h5⟩, h6⟩, h7⟩, h8⟩, h9⟩ := h
  exact ⟨h0, h1, sess_of h2, ⟨h3, h4⟩, ⟨h5, h6, h7⟩, ⟨fun h => h8.resolve_left fun k => k h, h9⟩⟩

/-- Who a test command came from. -/
def org : Origin :=
  { sess := 65536, inc := 0, cls := 0, seq := 0, tag := 0, ctxField := 1, typ := 0x10, peer := 0x10000, gfa := false }

/-- `live` with a Lane of quadrant 0. -/
def withLane (x : Lane) : State := { live with lanes := [(0, x)] }
/-- A configuration: BF16, 1 layer, 1 head, dimension 16. -/
def laneConfig : List Byte := [2, 0, 1, 0, 1, 1, 16, 0] ++ zeros 10
/-- A Lane that receives an image of 64 bytes on session 5. -/
def receivingLane : Lane := { state := .receiving, config := laneConfig, cap := 1, offLen := 1, sess := 5, got := [(0, zeros 64)] }
/-- `live` with group 0, whose one member is device 5, and a buffer for its parts. -/
def heatState : State := regs live [({ reg := .guGrpCfg }, 0x100000001), ({ reg := .guGrpMember }, 5 * 2 ^ 46 + 1),
  ({ reg := .guCfg }, 0x1000), ({ reg := .hubExtLen }, 0x10000)]
/-- `live` with a domain. -/
def withDomain (d : Nat) (st : DomState) : State := { live with dir := { live.dir with domains := [(d, { state := st })] } }
/-- That Lane, its cache in an extent of quadrant 0. -/
def receiving : State :=
  { regs live [({ reg := .hubExtLen }, 0x10000), ({ reg := .hubExtCtl }, 0x80)] with
    ext := { live.ext with ext := [(0, { state := .active })] }, lanes := [(0, receivingLane)] }

/-- `live` with extent n of 64 KiB in a state, HUB_EXT_CTL ctl. -/
def withExt (n : Nat) (st : ExtState) (ctl : Nat) : State :=
  { regs live [({ reg := .hubExtLen, i := n }, 0x10000), ({ reg := .hubExtCtl, i := n }, ctl)] with
    ext := { live.ext with ext := [(n, { state := st })] } }
/-- `live` with region n in a state, its slot 0 published at Lap 0. -/
def withRegion (n : Nat) (st : RegionState) : State :=
  { live with vr := { live.vr with regions := [(n, { state := st, slots := [(0, { published := true, lap := 0 })] })] } }
/-- Extent 0 local to quadrant 0, the first 64 KiB of it region 65,535 or region 0, with a pool in extent 1. -/
def poolState (ctl : Nat) (st : RegionState) : State :=
  { regs (withExt 0 .active ctl) [({ reg := .vrRegLen, i := 65535 }, 0x10000), ({ reg := .vrRegLen }, 0x10000), ({ reg := .vrPool }, 1)] with
    vr := { live.vr with pools := [(0, { attached := true })], regions := (withRegion 0 st).vr.regions
                         pages := [{ region := 0, slot := 0, published := true, lap := 0, page := 0, ext := 1, place := 0 }] } }

/-- A tray of one block a channel. -/
def tray (blocks : Nat) : NandPop :=
  { chOk := BitVec.allOnes 32, targets := 8, pageKib := 16, spareKib := 2, suspend := true, rawCap := 4, ratedPe := 3000
    blocks := blocks, blockPages := 4 }
/-- Extent 0 holds the map of a flash tier of 64 MiB. -/
def flashState : State :=
  { regs (withExt 0 .active 0) [({ reg := .hubExtLen }, 2 ^ 26)] with flash := { live.flash with pop := some (tray 1) } }
/-- `live` with the tier READY and blocks. -/
def readyFlash (n : Nat) (bs : Table Block) : State :=
  { live with flash := { live.flash with state := .ready, pop := some (tray n), blocks := bs } }
/-- A READY tier of two blocks a channel, with a valid page in block 0 of channel 5, which has been read n times. -/
def nandState (n : Nat) : State :=
  { readyFlash 2 [(5 * 2 ^ 20, { used := 1, reads := n })] with
    flash := { (readyFlash 2 [(5 * 2 ^ 20, { used := 1, reads := n })]).flash with nand := [(5, { valid := true })] } }
/-- `live`, late, with one request of the device's own. -/
def requested (k : ReqKind) : State :=
  { live with now := 2 ^ 40, xp := { live.xp with reqs := [(3, { kind := k, sess := 5, inc := 0, since := 0, peer := 0 })] } }
/-- An engine command 7 of unit u. -/
def engine (u : Nat) (op : Byte) (ph : Phase := .none) : Eng :=
  { unit := u, quad := 0, queue := 0, op := op, body := zeros 32, opnds := [{ gfa := 0, len := 4096, rd := true, wr := true }], phase := ph }
def engCmd (e : Eng) (id : Nat := 7) : Cmd := { id := id, src := .hurdle, body := .eng e }
/-- `live`, late, with engine commands. -/
def working (cs : List Cmd) : State := { regs live [({ reg := .qdCtxCfg }, 0x1000)] with now := 2 ^ 40, cmds := cs }
/-- A local extent for the Lanes of quadrant 0. -/
def laneState (x : Lane) (cs : List Cmd) : State := { withExt 0 .active 0x80 with lanes := [(0, x)], cmds := cs, now := 2 ^ 40 }
/-- e, which has read line 0: the bytes d, then zeros. -/
def fetched (e : Eng) (d : List Byte) (bad : BitVec 64 := 0) : Eng :=
  { e with fetched := [{ line := 0, data := d ++ zeros (128 - d.length), poison := bad }] }
/-- Extent 0, local to quadrant 0, and e as command 7. -/
def staging (e : Eng) : State := { withExt 0 .active 0x80 with cmds := [engCmd e] }
/-- A PACE_START of 64 KiB from a schedule of one entry, d. -/
def paceStart (d : List Byte) (bad : BitVec 64 := 0) : Eng :=
  { fetched (engine 5 1) d bad with opnds := [⟨0, 16, true, true⟩, ⟨0, 0x10000, true, true⟩, ⟨0, 0x10000, true, true⟩] }
/-- A TILE_MOVE of one tile that is in progress. -/
def tileMove (next : Nat) (issued : Bool) : Eng :=
  { engine 5 3 (.move next false) with body := zeros 4 ++ leBytes 4 1 ++ zeros 24, issued := issued
                                       opnds := [⟨0, 0x10000, true, true⟩, ⟨0x10000, 0x10000, true, true⟩] }
/-- `live` with the flash tier READY and the writes that syncs wait for. -/
def syncing (l : List (Nat × List Nat)) : State := { live with flash := { live.flash with state := .ready, syncs := l } }
/-- A TE_RUN of one entry that it has read. -/
def teRun (d : List Byte) (bad : BitVec 64 := 0) : Eng :=
  { fetched (engine 1 1) d bad with body := zeros 4 ++ [1, 0] ++ zeros 26 }
/-- A TE_ACC of the one element at offset 0 and the one at offset 64. -/
def accEntry : List Byte :=
  let view (o : Nat) : List Byte := leBytes 4 o ++ leBytes 4 64 ++ [1, 0, 1, 0, 1] ++ zeros 7
  [5, 0, 0, 0] ++ view 0 ++ view 64 ++ zeros 20

/-- `working` with unit 1 of quadrant 0 in a state. -/
def unitState (st : UnitState) (cs : List Cmd) : State := { working cs with units := [(unitKey 1 0, { state := st })] }
/-- A Scatter command that has begun. -/
def scatter (r : GuRun) : Eng := { engine 4 2 (.gu r) with body := [2, 3] ++ zeros 30, started := true }
/-- `live` with Hurdles and command 7. -/
def hurdleState (op : Byte) (hs : Table Hurdle) (quota : Nat := 1) : State :=
  { regs live [({ reg := .hubTenQuota }, quota)] with cmds := [engCmd (engine 7 op)], hdl := { hdl := hs } }
/-- Every Hurdle, allocated by tenant 1. -/
def allHurdles : Table Hurdle := (List.range' 0 16384).map fun i => (i, { alloc := true, tenant := 1 })

theorem tget_range' {α : Type} {d v : α} {n lo k : Nat} (h : lo ≤ k) (h' : k < lo + n) :
    tget d ((List.range' lo n).map fun i => (i, v)) k = v := by
  induction n generalizing lo with
  | zero => omega
  | succ n ih =>
    by_cases e : lo = k
    · subst e; simp [List.range'_succ, tget]
    · rw [List.range'_succ, List.map_cons]
      have := ih (lo := lo + 1) (by omega) (by omega)
      simp only [tget]; split <;> simp_all

theorem no_hurdle_free (op : Byte) :
    (leastBelow 16384 fun i => !((hurdleState op allHurdles).hurdle i).alloc) = none := by
  simp only [leastBelow, List.find?_eq_none, List.mem_range]
  intro i hi
  have h : (hurdleState op allHurdles).hurdle i = { alloc := true, tenant := 1 } :=
    tget_range' (Nat.zero_le _) (by omega)
  simp [h]

theorem no_hurdle_held (op : Byte) : (hurdleState op allHurdles).hurdlesHeld 0 = 0 := by
  show allHurdles.countP _ = 0
  rw [List.countP_eq_zero]
  intro x hx
  simp only [allHurdles, List.mem_map] at hx
  obtain ⟨i, -, rfl⟩ := hx
  simp

/-- `live` with links on ports 0 and 4, and device 2 behind port 4. -/
def wired : State :=
  { regs live [({ reg := .fabRt, i := 2 }, 0x10004)] with
    pwr := { live.pwr with ports := [(0, { conn := true, link := 1 }), (1, { conn := true, link := 1 })] } }
/-- A frame of 100 bytes for a device. -/
def frameTo (d : Nat) : EthFrame := { src := .v6 1, dst := .v6 (BitVec.ofNat 128 d), len := 100 }
/-- A frame for device 2 in a queue. -/
def one : QItem := { input := 0, cls := 0, tenant := 0, frame := frameTo 2, cells := 1, hdrm := false, start := 0, finish := 0 }
/-- `wired` with `one` in the queue of class 0 of an output. -/
def queued (o : Nat) : State := { wired with sw := { wired.sw with queues := [(8 * o, [one])] } }
/-- A buffer: SW_BUF_CFG, SW_PFC_THR and the limits of port 4's class 0. -/
def buffer (cfg thr q : Nat) : State :=
  regs wired [({ reg := .swBufCfg }, cfg), ({ reg := .swPfcThr }, thr), ({ reg := .swQCfg, i := 4 }, q)]

/-- A frame in the hub's queue that carries an RVT_ACK. -/
def carrying : QItem :=
  { one with frame := { frameTo 0 with body := .rvt { typ := 0x04, hdr := {}, payload := [], crc := 0, lensOk := true } } }
def brought : State := { wired with sw := { wired.sw with queues := [(8 * 32, [carrying])] } }
/-- A dirty line of device 5's. -/
def dirtyLine : State :=
  { live with cache := { ec := [((0, 5 * 2 ^ 40), { data := [], valid := 0, dirty := 1, poison := 0 })] } }
/-- A flush (0xF0) or invalidation (0xF1) that awaits the commands ids. -/
def flushing (op : Byte) (ids : List Nat) : Eng := { engine 1 op (.cache ids) with issued := true }
/-- Region 0 in extent 0 to query, and a scratch extent of n bytes. -/
def searching (n : Nat) : State :=
  regs (poolState 0x80 .ready) [({ reg := .seCfg }, 0x1002), ({ reg := .hubExtLen, i := 2 }, n)]
def query : Eng := { engine 3 1 with binds := [{ mode := .read }] }
/-- A gather of one row, whose header is sound for n rows and whose index is 0. -/
def gathering (n : Byte) (bad : BitVec 64 := 0) : Eng :=
  { fetched (engine 4 1 (.gu { hdr := zeros 8 ++ [n] ++ zeros 55 })) [] bad with
    body := zeros 4 ++ [1] ++ zeros 27, opnds := [⟨0, 4096, true, true⟩, ⟨0, 4, true, true⟩] }
/-- `hurdleState` with e as command 7. -/
def hurdleDoes (e : Eng) (hs : Table Hurdle) (quota : Nat := 1) : State := { hurdleState e.op hs quota with cmds := [engCmd e] }
/-- An HDL_SAVE or HDL_RESTORE of Hurdle 0 whose record has n bytes. -/
def recordCmd (op : Byte) (n : Nat) : Eng :=
  { engine 7 op with body := zeros 8 ++ leBytes 8 n ++ zeros 8 ++ [1] ++ zeros 7, opnds := [⟨0, n, true, true⟩] }
/-- The record of Hurdle 0, allocated, without watches. -/
def oneRecord : List Byte := [0x7D, 0x4A, 1, 0, 0, 0, 1, 0] ++ zeros 16 ++ [1] ++ zeros 7
/-- As many watches as the device may hold. -/
def fullWatches : State :=
  { hurdleState 5 [(0, { alloc := true })] (2 ^ 32) with
    hdl := { hdl := [(0, { alloc := true })]
             watches := List.replicate 65536 { n := 0, hurdle := 0, cond := 0, target := 0, to_ := .cmd 9, tenant := 1, since := 0, timeout := 1 } } }

theorem full_watches_held : fullWatches.watchesHeld 0 = 0 := by
  have : (fullWatches.hdl.watches.countP fun w => w.tenant = 0) = 0 := by
    rw [List.countP_eq_zero]; intro w hw
    rw [List.eq_of_mem_replicate hw]; decide
  unfold State.watchesHeld
  rw [this]; decide +kernel

theorem triple_eq {α β γ : Type} (x : α × β × γ) : x = (x.1, x.2.1, x.2.2) := rfl

/-- A neighbour's LLDP frame. -/
def lldp (ttl : BitVec 16) (info : Option (List Byte)) : LldpFrame := { srcMac := 0, ttl := ttl, info := info, oui := 0, subtype := 1 }
/-- `wired` with a neighbour at port 0. -/
def neighboured : State := { wired with fab := { wired.fab with nbr := [(0, { valid := true })] } }
/-- `live` with another membership. -/
def inState (x : MembState) : State := { live with fab := { live.fab with state := x } }
/-- `wired`, late, with a PTP source: threshold 1 µs, port 0. -/
def timed (x : Servo) : State :=
  { regs wired [({ reg := .fabPtpCfg }, 2 ^ 32 + 1000)] with now := 2 ^ 40, fab := { wired.fab with servo := { x with source := some 0 } } }
def sync (origin arrival : Nat) : PtpSync :=
  { port := 0, domain := 0, mapping := 0, source := 0, origin := origin, arrival := arrival, seqId := 0 }

/-- A tier 0 extent, with or without error injection. -/
def injectable : State := regs (withExt 0 .active 0) [({ reg := .hubErrCfg }, 2 ^ 40)]
/-- An image of one byte is being written, its digest d. -/
def writing (d : List Byte) : State :=
  { live with boot := { live.boot with updState := .writing, updLen := 1, updImage := [0], updDigest := d } }
theorem writing_digest (d : List Byte) (h : d = digest64 [0] := by rfl) :
    digest64 (writing d).boot.updImage = (writing d).boot.updDigest := h.symm

/-- `live` with `n` records of one kind in its error log. -/
def logged (n : Nat) (sev : Byte := 1) : State :=
  { live with err := { live.err with log := List.replicate n { type := 2, severity := sev, die := 0 } } }
/-- `live` with power good. -/
def powered (x : Power := { pwrgd := true }) : State := { live with pwr := x }

/-! ### A state and operands for each statement with hypotheses, clause by clause -/

theorem witness_EmptyQueuePassesTime :
  (∃ s : State, s.pending = [] ∧ s.fab.servo.slewLeft = 0 ∧ s.fab.servo.ppm = 0) :=
  ⟨up, rfl, rfl, rfl⟩

theorem witness_StoppedDeviceAcceptsNothing :
  (∃ (c : Instr) (s : State), s.err.stopped = true ∧ actsStopped c = false) :=
  ⟨.flashProgramDone, { up with err := { up.err with stopped := true } }, (by decide +kernel), rfl⟩

theorem witness_DamagedMessageIsOnlyCounted :
  (∃ (c : Instr) (typ : Byte) (f : Frame) (s : State), s.Ready ∧ s.listens = true ∧ (s.starting = true → typ ≠ 0x02) ∧
    messageOf c = some (typ, f) ∧ s.row1Bad typ f = true) :=
  ⟨.memRead (msg 0x11 65536 {} []) .none, 0x10, msg 0x11 65536 {} [], live, ⟨rfl, rfl⟩, (by decide +kernel), (by decide +kernel), rfl, (by decide +kernel)⟩

theorem witness_ReceiverKeepsTheOrder :
  (∃ (c : Instr) (typ : Byte) (f : Frame) (s : State) (n : Nat), s.Ready ∧ s.listens = true ∧ messageOf c = some (typ,
    f) ∧ 0x10 ≤ typ ∧ s.row1Bad typ f = false ∧ s.row2 f = .sess n ∧
    let r := s.rxOf n f.hdr.cls
    let d := (f.hdr.seq - r.expected).toNat
    d = 0) ∧
  (∃ (c : Instr) (typ : Byte) (f : Frame) (s : State) (n : Nat), s.Ready ∧ s.listens = true ∧ messageOf c = some
    (typ, f) ∧ 0x10 ≤ typ ∧ s.row1Bad typ f = false ∧ s.row2 f = .sess n ∧
    let r := s.rxOf n f.hdr.cls
    let d := (f.hdr.seq - r.expected).toNat
    1 ≤ d ∧ d ≤ 65535 ∧ (∀ t, r.lastNak = some t → s.rtoInit ≤ s.now - t)) ∧
  (∃ (c : Instr) (typ : Byte) (f : Frame) (s : State) (n : Nat), s.Ready ∧ s.listens = true ∧ messageOf c = some
    (typ, f) ∧ 0x10 ≤ typ ∧ s.row1Bad typ f = false ∧ s.row2 f = .sess n ∧
    let r := s.rxOf n f.hdr.cls
    let d := (f.hdr.seq - r.expected).toNat
    ∃ t, 1 ≤ d ∧ d ≤ 65535 ∧ r.lastNak = some t ∧ s.now - t < s.rtoInit) ∧
  (∃ (c : Instr) (typ : Byte) (f : Frame) (s : State) (n : Nat), s.Ready ∧ s.listens = true ∧ messageOf c = some
    (typ, f) ∧ 0x10 ≤ typ ∧ s.row1Bad typ f = false ∧ s.row2 f = .sess n ∧
    let r := s.rxOf n f.hdr.cls
    let d := (f.hdr.seq - r.expected).toNat
    65536 ≤ d ∧ d ≤ 2 ^ 31) ∧
  (∃ (c : Instr) (typ : Byte) (f : Frame) (s : State) (n : Nat), s.Ready ∧ s.listens = true ∧ messageOf c = some
    (typ, f) ∧ 0x10 ≤ typ ∧ s.row1Bad typ f = false ∧ s.row2 f = .sess n ∧
    let r := s.rxOf n f.hdr.cls
    let d := (f.hdr.seq - r.expected).toNat
    2 ^ 31 < d) :=
  ⟨⟨.memFence (msg 0x14 65536 { seq := 0 } []), 0x14, msg 0x14 65536 { seq := 0 } [], live, 65536, ⟨rfl, rfl⟩, (by decide +kernel), rfl, (by decide +kernel), (by decide +kernel), sess_of (by decide +kernel), (by decide +kernel)⟩,
   ⟨.memFence (msg 0x14 65536 { seq := 65535 } []), 0x14, msg 0x14 65536 { seq := 65535 } [], live, 65536, ⟨rfl, rfl⟩, (by decide +kernel), rfl, (by decide +kernel), (by decide +kernel), sess_of (by decide +kernel), (by decide +kernel), (by decide +kernel), fun t h => by cases h⟩,
   ⟨.memFence (msg 0x14 65536 { seq := 1 } []), 0x14, msg 0x14 65536 { seq := 1 } [], (live.setRx 65536 0 fun x => { x with lastNak := some 0 }), 65536, ⟨rfl, rfl⟩, (by decide +kernel), rfl, (by decide +kernel), (by decide +kernel), sess_of (by decide +kernel), 0, (by decide +kernel), (by decide +kernel), (by decide +kernel), (by decide +kernel)⟩,
   ⟨.memFence (msg 0x14 65536 { seq := 0x80000000 } []), 0x14, msg 0x14 65536 { seq := 0x80000000 } [], live, 65536, ⟨rfl, rfl⟩, (by decide +kernel), rfl, (by decide +kernel), (by decide +kernel), sess_of (by decide +kernel), (by decide +kernel), (by decide +kernel)⟩,
   ⟨.memFence (msg 0x14 65536 { seq := 0xFFFFFFFF } []), 0x14, msg 0x14 65536 { seq := 0xFFFFFFFF } [], live, 65536, ⟨rfl, rfl⟩, (by decide +kernel), rfl, (by decide +kernel), (by decide +kernel), sess_of (by decide +kernel), (by decide +kernel)⟩⟩

theorem witness_SessionsOpen :
  (∃ (s : State) (f : Frame) (v : Nat), s.Ready ∧ s.listens = true ∧ s.row1Bad 0x01 f = false ∧ s.familyOn f.srcIp =
    true ∧ f.hdr.dstSess = 0 ∧ f.hdr.ver = 1 ∧ f.hdr.status = 0 ∧ ctlBad f 16 = false ∧ zeroAt f.payload 2 2 = true ∧
    zeroAt f.payload 12 4 = true ∧ ctlOdd f.hdr = false ∧ s.commonVer (field f.payload 0 1) (field f.payload 1 1)
    (f.hdr.srcEp.toNat < 65536) = some v ∧ (s.starting = true ∨ s.epochFences { f.hdr with ver := BitVec.ofNat 8 v }
    (s.isMgr f.hdr.srcEp) = false) ∧
    let isn := BitVec.ofNat 32 (field f.payload 8 4)
    let peer := BitVec.ofNat 32 (field f.payload 4 4)
    let same (n : Nat) : Prop := (s.sess n).opener = false ∧ (s.sess n).openSess = peer ∧ (s.sess n).openIsn = isn ∧
      ((s.sess n).state = .open ∨ (s.sess n).state = .closing)
    ∃ n, s.sessOf f.hdr.srcEp.toNat = some n ∧ same n) ∧
  (∃ (s : State) (f : Frame) (v : Nat), s.Ready ∧ s.listens = true ∧ s.row1Bad 0x01 f = false ∧ s.familyOn f.srcIp =
    true ∧ f.hdr.dstSess = 0 ∧ f.hdr.ver = 1 ∧ f.hdr.status = 0 ∧ ctlBad f 16 = false ∧ zeroAt f.payload 2 2 = true ∧
    zeroAt f.payload 12 4 = true ∧ ctlOdd f.hdr = false ∧ s.commonVer (field f.payload 0 1) (field f.payload 1 1)
    (f.hdr.srcEp.toNat < 65536) = some v ∧ (s.starting = true ∨ s.epochFences { f.hdr with ver := BitVec.ofNat 8 v }
    (s.isMgr f.hdr.srcEp) = false) ∧
    let isn := BitVec.ofNat 32 (field f.payload 8 4)
    let peer := BitVec.ofNat 32 (field f.payload 4 4)
    let same (n : Nat) : Prop := (s.sess n).opener = false ∧ (s.sess n).openSess = peer ∧ (s.sess n).openIsn = isn ∧
      ((s.sess n).state = .open ∨ (s.sess n).state = .closing)
    ∃ n, s.sessOf f.hdr.srcEp.toNat = some n ∧ (¬ same n)) ∧
  (∃ (s : State) (f : Frame) (v : Nat), s.Ready ∧ s.listens = true ∧ s.row1Bad 0x01 f = false ∧ s.familyOn f.srcIp =
    true ∧ f.hdr.dstSess = 0 ∧ f.hdr.ver = 1 ∧ f.hdr.status = 0 ∧ ctlBad f 16 = false ∧ zeroAt f.payload 2 2 = true ∧
    zeroAt f.payload 12 4 = true ∧ ctlOdd f.hdr = false ∧ s.commonVer (field f.payload 0 1) (field f.payload 1 1)
    (f.hdr.srcEp.toNat < 65536) = some v ∧ (s.starting = true ∨ s.epochFences { f.hdr with ver := BitVec.ofNat 8 v }
    (s.isMgr f.hdr.srcEp) = false) ∧ ∃ n, s.sessOf f.hdr.srcEp.toNat = none ∧ s.freeSess f.hdr.srcEp.toNat = some n) ∧
  (∃ (s : State) (f : Frame) (n : Nat), s.Ready ∧ s.serving = true ∧ s.idValid = true ∧ s.row1Bad 0x02 f = false ∧ n
    < 81920 ∧ f.hdr.dstSess.toNat = n ∧ (s.sess n).state = .opening ∧ (s.sess n).ip = f.srcIp ∧ f.hdr.ver = 1 ∧
    ctlBad f 16 = false ∧ zeroAt f.payload 1 3 = true ∧ zeroAt f.payload 12 4 = true ∧ ctlOdd f.hdr = false ∧
    f.hdr.status = stOk ∧ field f.payload 0 1 = 2 ∧ 2 ≤ bits (s.hub .hubRvtCfg) 17 16) ∧
  (∃ (s : State) (f : Frame) (n : Nat), s.Ready ∧ s.serving = true ∧ s.idValid = true ∧ s.row1Bad 0x02 f = false ∧ n
    < 81920 ∧ f.hdr.dstSess.toNat = n ∧ (s.sess n).state = .opening ∧ (s.sess n).ip = f.srcIp ∧ f.hdr.ver = 1 ∧
    ctlBad f 16 = false ∧ zeroAt f.payload 1 3 = true ∧ zeroAt f.payload 12 4 = true ∧ ctlOdd f.hdr = false ∧
    f.hdr.status ≠ stOk) :=
  ⟨⟨live.setSess 65536 fun x => { x with opener := false }, msg 0x01 0 { ver := 1, srcEp := 0x10000 } ([1, 2] ++ zeros 14), 2, ⟨rfl, rfl⟩, (by decide +kernel), (by decide +kernel), (by decide +kernel), (by decide +kernel), (by decide +kernel), (by decide +kernel), (by decide +kernel), (by decide +kernel), (by decide +kernel), (by decide +kernel), (by decide +kernel), .inr (by decide +kernel), 65536, (by decide +kernel), (by decide +kernel)⟩,
   ⟨live.setSess 65536 fun x => { x with opener := false }, msg 0x01 0 { ver := 1, srcEp := 0x10000 } ([1, 2] ++ [0, 0, 1] ++ zeros 11), 2, ⟨rfl, rfl⟩, (by decide +kernel), (by decide +kernel), (by decide +kernel), (by decide +kernel), (by decide +kernel), (by decide +kernel), (by decide +kernel), (by decide +kernel), (by decide +kernel), (by decide +kernel), (by decide +kernel), .inr (by decide +kernel), 65536, (by decide +kernel), (by decide +kernel)⟩,
   ⟨live, msg 0x01 0 { ver := 1, srcEp := 0x10007 } ([1, 2] ++ zeros 14), 2, ⟨rfl, rfl⟩, (by decide +kernel), (by decide +kernel), (by decide +kernel), (by decide +kernel), (by decide +kernel), (by decide +kernel), (by decide +kernel), (by decide +kernel), (by decide +kernel), (by decide +kernel), (by decide +kernel), .inr (by decide +kernel), 65537, (by decide +kernel), (by decide +kernel)⟩,
   ⟨live.setSess 5 fun x => { x with state := .opening }, msg 0x02 5 { ver := 1, status := 0 } ([2] ++ zeros 15), 5, ⟨rfl, rfl⟩, (by decide +kernel), (by decide +kernel), (by decide +kernel), (by decide +kernel), (by decide +kernel), (by decide +kernel), (by decide +kernel), (by decide +kernel), (by decide +kernel), (by decide +kernel), (by decide +kernel), (by decide +kernel), (by decide +kernel), (by decide +kernel)⟩,
   ⟨live.setSess 5 fun x => { x with state := .opening }, msg 0x02 5 { ver := 1, status := 5 } ([2] ++ zeros 15), 5, ⟨rfl, rfl⟩, (by decide +kernel), (by decide +kernel), (by decide +kernel), (by decide +kernel), (by decide +kernel), (by decide +kernel), (by decide +kernel), (by decide +kernel), (by decide +kernel), (by decide +kernel), (by decide +kernel), (by decide +kernel)⟩⟩

theorem witness_SessionsEnd :
  (∃ (s : State) (n : Nat) (f : Frame), s.Ready ∧ Control s 0x03 f 4 n ∧ field f.payload 0 4 = 0) ∧
  (∃ (s : State) (n : Nat) (f : Frame), s.Ready ∧ Control s 0x03 f 4 n ∧ (field f.payload 0 4 = 1 ∨ field f.payload 0
    4 = 2)) ∧
  (∃ (s : State) (n : Nat) (f : Frame), s.Ready ∧ Control s 0x03 f 4 n ∧ 2 < field f.payload 0 4) ∧
  (∃ (s : State) (n : Nat) (f : Frame), s.Ready ∧ ∃ (v : Word), n < 81920 ∧ s.reaches { reg := .hubSessCtl, i := n }
    = true ∧ ((s.sess n).state = .open ∨ (s.sess n).state = .closing)) ∧
  (∃ (s : State) (n : Nat) (f : Frame), s.Ready ∧ (s.sess n).state = .opening ∧ s.rtoMax ≤ s.now - (s.sess n).since) ∧
  (∃ (s : State) (n : Nat) (f : Frame), s.Ready ∧ s.sessCmds n (s.sess n).inc = [] ∧ (s.sess n).state = .closing ∧
    (((s.sess n).tx.all fun t => t.2.unacked.isEmpty && t.2.waiting.isEmpty) = true)) ∧
  (∃ (s : State) (n : Nat) (f : Frame), s.Ready ∧ s.sessCmds n (s.sess n).inc = [] ∧ (s.sess n).state = .failed) :=
  ⟨⟨live, 65536, msg 0x03 65536 {} (zeros 4), ⟨rfl, rfl⟩, control_of (by decide +kernel), (by decide +kernel)⟩,
   ⟨live, 65536, msg 0x03 65536 {} ([2, 0, 0, 0]), ⟨rfl, rfl⟩, control_of (by decide +kernel), (by decide +kernel)⟩,
   ⟨live, 65536, msg 0x03 65536 {} ([3, 0, 0, 0]), ⟨rfl, rfl⟩, control_of (by decide +kernel), (by decide +kernel)⟩,
   ⟨live, 65536, msg 0x03 65536 {} (zeros 4), ⟨rfl, rfl⟩, 0, (by decide +kernel), (by decide +kernel), (by decide +kernel)⟩,
   ⟨{ live.setSess 5 fun x => { x with state := .opening } with now := 2 ^ 40 }, 5, msg 0x03 65536 {} (zeros 4), ⟨rfl, rfl⟩, (by decide +kernel), (by decide +kernel)⟩,
   ⟨live.setSess 5 fun x => { x with state := .closing }, 5, msg 0x03 65536 {} (zeros 4), ⟨rfl, rfl⟩, (by decide +kernel), (by decide +kernel), (by decide +kernel)⟩,
   ⟨live.setSess 5 fun x => { x with state := .failed }, 5, msg 0x03 65536 {} (zeros 4), ⟨rfl, rfl⟩, (by decide +kernel), (by decide +kernel)⟩⟩

theorem witness_StreamTimersComplete :
  (∃ (s : State) (n c : Nat), s.Ready ∧ ∃ t, (s.rxOf n c).ackDue = some t ∧ ((s.sess n).state = .open ∨ (s.sess
    n).state = .closing) ∧ s.ackDelay ≤ s.now - t) ∧
  (∃ (s : State) (n c : Nat), s.Ready ∧ ∃ t m ms, (s.txOf n c).armed = some t ∧ (s.txOf n c).unacked = m :: ms ∧
    (s.txOf n c).rto ≤ s.now - t ∧ (s.txOf n c).expiries + 1 ≤ s.retxLimit) ∧
  (∃ (s : State) (n c : Nat), s.Ready ∧ ∃ t m ms, (s.txOf n c).armed = some t ∧ (s.txOf n c).unacked = m :: ms ∧
    (s.txOf n c).rto ≤ s.now - t ∧ s.retxLimit < (s.txOf n c).expiries + 1) :=
  ⟨⟨{ (live.setRx 5 0 fun x => { x with ackDue := some 0 }) with now := 2 ^ 40 }, 5, 0, ⟨rfl, rfl⟩, 0, (by decide +kernel), (by decide +kernel), (by decide +kernel)⟩,
   ⟨{ (live.setTx 5 0 fun x => { x with armed := some 0, rto := 100, expiries := 0, unacked := [⟨0x10, {}, [], none⟩] }) with now := 100 }, 5, 0, ⟨rfl, rfl⟩, 0, _, _, (by decide +kernel), rfl, (by decide +kernel), (by decide +kernel)⟩,
   ⟨{ (live.setTx 5 0 fun x => { x with armed := some 0, rto := 100, expiries := 15, unacked := [⟨0x10, {}, [], none⟩] }) with now := 100 }, 5, 0, ⟨rfl, rfl⟩, 0, _, _, (by decide +kernel), rfl, (by decide +kernel), (by decide +kernel)⟩⟩

theorem witness_AcknowledgementsComplete :
  (∃ (s : State) (f : Frame) (n : Nat), s.Ready ∧ Control s 0x04 f 0 n) ∧
  (∃ (s : State) (f : Frame) (n : Nat), s.Ready ∧ Control s 0x05 f 0 n) :=
  ⟨⟨live, msg 0x04 65536 {} ([]), 65536, ⟨rfl, rfl⟩, control_of (by decide +kernel)⟩,
   ⟨live, msg 0x05 65536 {} ([]), 65536, ⟨rfl, rfl⟩, control_of (by decide +kernel)⟩⟩

theorem witness_OtherMessagesComplete :
  (∃ (s : State) (f : Frame) (n : Nat) (r : State), s.Arrives 0x15 f n r ∧ r.verOn f.hdr = true ∧ (r.headerBad n
    { f.hdr with status := 0 } {} || f.hdr.addr != 0 || f.hdr.opLen != 0) = false ∧ (r.notHere 0x15 || flagsOdd
    { f.hdr with flags := f.hdr.flags &&& ~~~(BitVec.ofNat 16 8) } {}) = false ∧ r.row7 n f.hdr = false ∧ ∃ (c :
    Instr), (c = .rvtCpl f ∨ c = .cohRecallAnswer f)) ∧
  (∃ (s : State) (f : Frame) (n : Nat) (r : State), s.Takes 0x22 f {}
    { bad := parseLen f.hdr 0 || f.hdr.addr.toNat % 2 ^ 21 != 0, odd := !r.ctxMode f.hdr.context } n r ∧
    let o := r.originOf n 0x22 f.hdr
    r.quietCheck o = stOk) ∧
  (∃ (s : State) (f : Frame) (n : Nat) (r : State), s.Arrives 0x46 f n r ∧ r.stage1 n f.hdr { gfaReq := true }
    { bad := f.hdr.opLen != 128 || f.hdr.payLen != 8 || !zeroAt f.payload 1 7, odd := true } = stUnsupported) ∧
  (∃ (s : State) (f : Frame) (n : Nat) (r : State), ∃ i e, s.Ready ∧ s.serving = true ∧ s.evtEn = true ∧
    s.err.restarting = false ∧ (s.sess s.evtSess).state = .open ∧ ((s.mgt.queue.findIdx? fun x => !x.outOn s.evtSess
    (s.sess s.evtSess).inc) = some i) ∧ s.mgt.queue[i]? = some e) :=
  ⟨⟨live, msg 0x15 5 {} [], 5, seen live 5 (msg 0x15 5 {} []), arrives_of (by decide +kernel), (by decide +kernel), (by decide +kernel), (by decide +kernel), (by decide +kernel), .rvtCpl (msg 0x15 5 {} []), .inl rfl⟩,
   ⟨regs live [({ reg := .hubCtxCfg, i := 1 }, 3)], msg 0x22 65536 { ctx := 1, opLen := 1 } [], 65536, seen (regs live [({ reg := .hubCtxCfg, i := 1 }, 3)]) 65536 (msg 0x22 65536 { ctx := 1, opLen := 1 } []), takes_of (by decide +kernel) (by decide +kernel), (by decide +kernel)⟩,
   ⟨live, msg 0x46 5 { flags := 0x804, opLen := 128 } (zeros 8), 5, seen live 5 (msg 0x46 5 { flags := 0x804, opLen := 128 } (zeros 8)), arrives_of (by decide +kernel), (by decide +kernel)⟩,
   ⟨{ regs live [({ reg := .hubRvtEvt }, 0x30000)] with mgt := { live.mgt with queue := [{ type := 1, seq := 0, time := 0, body := [] }] } }, msg 0x15 5 {} [], 5, live, 0, { type := 1, seq := 0, time := 0, body := [] }, ⟨rfl, rfl⟩, (by decide +kernel), (by decide +kernel), (by decide +kernel), (by decide +kernel), (by decide +kernel), (by decide +kernel)⟩⟩

theorem witness_MemoryMessagesAreAccepted :
  (∃ (s : State) (f : Frame) (n : Nat) (r t : State) (g : Nat),
    let o (typ : Byte) := r.originOf n typ f.hdr
    let len := f.hdr.opLen.toNat
    s.Takes 0x10 f { gfa := true, vol := true } { bad := parseLen f.hdr 0 } n r ∧ ∃ (u : Upset), u ≠ .header ∧
      (r.applyUpset u).err.stopped = false ∧ (r.applyUpset u).stage2 (o 0x10) f.hdr.addr.toNat len { r := true } =
      (t, .inr g)) ∧
  (∃ (s : State) (f : Frame) (n : Nat) (r t : State) (g : Nat), s.Takes 0x10 f { gfa := true, vol := true }
    { bad := parseLen f.hdr 0 } n r) ∧
  (∃ (s : State) (f : Frame) (n : Nat) (r t : State) (g : Nat),
    let o (typ : Byte) := r.originOf n typ f.hdr
    let len := f.hdr.opLen.toNat
    s.Takes 0x11 f { gfa := true } { bad := parseLen f.hdr len } n r ∧ ∃ (u : Upset), u ≠ .header ∧ (r.applyUpset
      u).err.stopped = false ∧ (r.applyUpset u).stage2 (o 0x11) f.hdr.addr.toNat len { w := true } = (t, .inr g)) ∧
  (∃ (s : State) (f : Frame) (n : Nat) (r t : State) (g : Nat),
    let len := f.hdr.opLen.toNat
    s.Takes 0x11 f { gfa := true } { bad := parseLen f.hdr len } n r) ∧
  (∃ (s : State) (f : Frame) (n : Nat) (r t : State) (g : Nat),
    let o (typ : Byte) := r.originOf n typ f.hdr
    let len := f.hdr.opLen.toNat
    ∃ (p : Parse), s.Takes 0x12 f { gfa := true } p n r ∧ p =
      { bad := !(len = 4 || len = 8) || f.hdr.addr.toNat % len != 0 || f.hdr.payLen != 24 || !zeroAt f.payload 1 7 || (len = 4 && (!zeroAt f.payload 12 4 || !zeroAt f.payload 20 4)) || (field f.payload 0 1 != 0x0A && !zeroAt f.payload 16 8), odd := field f.payload 0 1 = 0 || 0x0B < field f.payload 0 1 || (field f.payload 0 1 = 0x0B && len = 8) }
      ∧ r.stage2 (o 0x12) f.hdr.addr.toNat len { a := true } = (t, .inr g)) ∧
  (∃ (s : State) (f : Frame) (n : Nat) (r t : State) (g : Nat),
    let o (typ : Byte) := r.originOf n typ f.hdr
    ∃ (p : Parse), s.Takes 0x13 f { gfa := true, unord := true } p n r ∧ p =
      { bad := f.hdr.opLen != 8 || f.hdr.addr.toNat % 8 != 0 || f.hdr.payLen != 16 || !zeroAt f.payload 1 7, odd := field f.payload 0 1 = 0 || 2 < field f.payload 0 1 }
      ∧ r.stage2 (o 0x13) f.hdr.addr.toNat 8 { w := true } = (t, .inr g)) :=
  ⟨⟨live, msg 0x10 65536 { ctx := 1, opLen := 4096, addr := 0 } ([]), 65536, seen live 65536 (msg 0x10 65536 { ctx := 1, opLen := 4096, addr := 0 } ([])), (((seen live 65536 (msg 0x10 65536 { ctx := 1, opLen := 4096, addr := 0 } ([]))).applyUpset .none).stage2 ((seen live 65536 (msg 0x10 65536 { ctx := 1, opLen := 4096, addr := 0 } ([]))).originOf 65536 0x10 (msg 0x10 65536 { ctx := 1, opLen := 4096, addr := 0 } ([])).hdr) 0 4096 { r := true }).1, 0, takes_of (by decide +kernel) (by decide +kernel), .none, nofun, (by decide +kernel), fst_eq (by decide +kernel)⟩,
   ⟨live, msg 0x10 65536 { ctx := 1, opLen := 1 } [], 65536, seen live 65536 (msg 0x10 65536 { ctx := 1, opLen := 1 } []), live, 0, takes_of (by decide +kernel) (by decide +kernel)⟩,
   ⟨live, msg 0x11 65536 { ctx := 1, opLen := 8, addr := 0xFFF8 } (zeros 8), 65536, seen live 65536 (msg 0x11 65536 { ctx := 1, opLen := 8, addr := 0xFFF8 } (zeros 8)), (((seen live 65536 (msg 0x11 65536 { ctx := 1, opLen := 8, addr := 0xFFF8 } (zeros 8))).applyUpset .none).stage2 ((seen live 65536 (msg 0x11 65536 { ctx := 1, opLen := 8, addr := 0xFFF8 } (zeros 8))).originOf 65536 0x11 (msg 0x11 65536 { ctx := 1, opLen := 8, addr := 0xFFF8 } (zeros 8)).hdr) 0xFFF8 8 { w := true }).1, 0xFFF8, takes_of (by decide +kernel) (by decide +kernel), .none, nofun, (by decide +kernel), fst_eq (by decide +kernel)⟩,
   ⟨live, msg 0x11 65536 { ctx := 1, opLen := 1 } [0], 65536, seen live 65536 (msg 0x11 65536 { ctx := 1, opLen := 1 } [0]), live, 0, takes_of (by decide +kernel) (by decide +kernel)⟩,
   ⟨live, msg 0x12 65536 { ctx := 1, opLen := 8, addr := 8 } ([0x0A] ++ zeros 23), 65536, seen live 65536 (msg 0x12 65536 { ctx := 1, opLen := 8, addr := 8 } ([0x0A] ++ zeros 23)), (((seen live 65536 (msg 0x12 65536 { ctx := 1, opLen := 8, addr := 8 } ([0x0A] ++ zeros 23)))).stage2 ((seen live 65536 (msg 0x12 65536 { ctx := 1, opLen := 8, addr := 8 } ([0x0A] ++ zeros 23))).originOf 65536 0x12 (msg 0x12 65536 { ctx := 1, opLen := 8, addr := 8 } ([0x0A] ++ zeros 23)).hdr) 8 8 { a := true }).1, 8, _, takes_of (by decide +kernel) (by decide +kernel), rfl, fst_eq (by decide +kernel)⟩,
   ⟨live, msg 0x13 65536 { ctx := 1, opLen := 8, addr := 8 } ([1] ++ zeros 15), 65536, seen live 65536 (msg 0x13 65536 { ctx := 1, opLen := 8, addr := 8 } ([1] ++ zeros 15)), (((seen live 65536 (msg 0x13 65536 { ctx := 1, opLen := 8, addr := 8 } ([1] ++ zeros 15)))).stage2 ((seen live 65536 (msg 0x13 65536 { ctx := 1, opLen := 8, addr := 8 } ([1] ++ zeros 15))).originOf 65536 0x13 (msg 0x13 65536 { ctx := 1, opLen := 8, addr := 8 } ([1] ++ zeros 15)).hdr) 8 8 { w := true }).1, 8, _, takes_of (by decide +kernel) (by decide +kernel), rfl, fst_eq (by decide +kernel)⟩⟩

theorem witness_FencesAndDrains :
  (∃ (s : State) (f : Frame) (n : Nat) (r : State), s.Takes 0x14 f { allCls := true }
    { bad := f.hdr.addr != 0 || f.hdr.opLen != 0 || f.hdr.payLen.toNat != (if f.hdr.allCls then 32 else 0) } n r ∧
    let o := r.originOf n 0x14 f.hdr
    r.quietCheck o = stOk) ∧
  (∃ (s : State) (f : Frame) (n : Nat) (r : State), s.Takes 0x40 f {}
    { bad := f.hdr.addr != 0 || f.hdr.opLen != 0 || f.hdr.payLen != 0, odd := r.v1 n } n r ∧
    let o := r.originOf n 0x40 f.hdr
    r.quietCheck o = stOk) ∧
  (∃ (s : State) (id : Nat) (c : Cmd) (o : Origin), s.Ready ∧ s.findCmd id = some c ∧ c.src = .msg o ∧ ∃ upto, c.body
    = .fence upto ∧ (s.sessLive o.sess o.inc = false ∨ s.fenceDone id o upto = true)) ∧
  (∃ (s : State) (id : Nat) (c : Cmd) (o : Origin), s.Ready ∧ s.findCmd id = some c ∧ c.src = .msg o ∧ ∃ ids, c.body
    = .drain ids ∧ ((s.cmds.any fun c => ids.contains c.id) = false)) ∧
  (∃ (s : State) (id : Nat) (c : Cmd) (o : Origin), s.Ready ∧ s.findCmd id = some c ∧ c.src = .msg o ∧ ∃ a, c.body =
    .held a ∧ s.signalWaits o = false) :=
  ⟨⟨live, msg 0x14 65536 { ctx := 1, flags := 0x100 } (zeros 32), 65536, seen (live) 65536 (msg 0x14 65536 { ctx := 1, flags := 0x100 } (zeros 32)), takes_of (by decide +kernel) (by decide +kernel), (by decide +kernel)⟩,
   ⟨live, msg 0x40 65536 { ctx := 1 } [], 65536, seen (live) 65536 (msg 0x40 65536 { ctx := 1 } []), takes_of (by decide +kernel) (by decide +kernel), (by decide +kernel)⟩,
   ⟨{ live with cmds := [{ id := 7, src := .msg org, ctx := 1, body := .fence [] }] }, 7, { id := 7, src := .msg org, ctx := 1, body := .fence [] }, org, ⟨rfl, rfl⟩, (by decide +kernel), rfl, [], rfl, (by decide +kernel)⟩,
   ⟨{ live with cmds := [{ id := 7, src := .msg org, ctx := 1, body := .drain [3] }] }, 7, { id := 7, src := .msg org, ctx := 1, body := .drain [3] }, org, ⟨rfl, rfl⟩, (by decide +kernel), rfl, [3], rfl, (by decide +kernel)⟩,
   ⟨{ live with cmds := [{ id := 7, src := .msg org, ctx := 1, body := .held { kind := .signal, gfa := 0, len := 8 } }] }, 7, { id := 7, src := .msg org, ctx := 1, body := .held { kind := .signal, gfa := 0, len := 8 } }, org, ⟨rfl, rfl⟩, (by decide +kernel), rfl, { kind := .signal, gfa := 0, len := 8 }, rfl, (by decide +kernel)⟩⟩

theorem witness_DataAccessesAct :
  (∃ (s : State) (id : Nat) (a : Access) (p : Part) (k home off : Nat), s.mem.wf = true ∧ s.quadDead home = false ∧
    s.stackDead (k / 2 ^ 36) = false ∧ 0 < p.len ∧ (s.readHbm k p.len off).2.2 = false ∧ a.hurt = none ∧ a.marks = []
    ∧ ∃ x, (x < k ∨ k + p.len ≤ x)) ∧
  (∃ (s : State) (id : Nat) (a : Access) (p : Part) (k home off : Nat), s.mem.wf = true ∧ s.quadDead home = false ∧
    s.stackDead (k / 2 ^ 36) = false ∧ 0 < p.len ∧ (s.readHbm k p.len off).2.2 = false ∧ a.hurt = none ∧ a.marks = []
    ∧ a.kind = .read) ∧
  (∃ (s : State) (id : Nat) (a : Access) (p : Part) (k home off : Nat), s.mem.wf = true ∧ s.quadDead home = false ∧
    s.stackDead (k / 2 ^ 36) = false ∧ 0 < p.len ∧ (s.readHbm k p.len off).2.2 = false ∧ a.hurt = none ∧ a.marks = []
    ∧ a.kind = .write ∧ (a.mask ≠ none → p.pos + p.len ≤ 128) ∧ ∃ i, i < p.len ∧ p.pos + i < a.data.length) ∧
  (∃ (s : State) (id : Nat) (a : Access) (p : Part) (k home off : Nat), s.mem.wf = true ∧ s.quadDead home = false ∧
    s.stackDead (k / 2 ^ 36) = false ∧ 0 < p.len ∧ (s.readHbm k p.len off).2.2 = false ∧ a.hurt = none ∧ a.marks = []
    ∧ a.kind = .signal ∧ p.len = 8 ∧ a.aop = 1) ∧
  (∃ (s : State) (id : Nat) (a : Access) (p : Part) (k home off : Nat), s.mem.wf = true ∧ s.quadDead home = false ∧
    s.stackDead (k / 2 ^ 36) = false ∧ 0 < p.len ∧ (s.readHbm k p.len off).2.2 = false ∧ a.hurt = none ∧ a.marks = []
    ∧ a.kind = .signal ∧ p.len = 8 ∧ a.aop = 2) ∧
  (∃ (s : State) (id : Nat) (a : Access) (p : Part) (k home off : Nat), s.mem.wf = true ∧ s.quadDead home = false ∧
    s.stackDead (k / 2 ^ 36) = false ∧ 0 < p.len ∧ (s.readHbm k p.len off).2.2 = false ∧ a.hurt = none ∧ a.marks = []
    ∧ a.kind = .atomic ∧ (p.len = 4 ∨ p.len = 8) ∧ 1 ≤ a.aop.toNat ∧ a.aop.toNat ≤ 0x0B ∧ a.aop = 0x01) ∧
  (∃ (s : State) (id : Nat) (a : Access) (p : Part) (k home off : Nat), s.mem.wf = true ∧ s.quadDead home = false ∧
    s.stackDead (k / 2 ^ 36) = false ∧ 0 < p.len ∧ (s.readHbm k p.len off).2.2 = false ∧ a.hurt = none ∧ a.marks = []
    ∧ a.kind = .atomic ∧ (p.len = 4 ∨ p.len = 8) ∧ 1 ≤ a.aop.toNat ∧ a.aop.toNat ≤ 0x0B ∧ a.aop = 0x02) ∧
  (∃ (s : State) (id : Nat) (a : Access) (p : Part) (k home off : Nat), s.mem.wf = true ∧ s.quadDead home = false ∧
    s.stackDead (k / 2 ^ 36) = false ∧ 0 < p.len ∧ (s.readHbm k p.len off).2.2 = false ∧ a.hurt = none ∧ a.marks = []
    ∧ a.kind = .atomic ∧ (p.len = 4 ∨ p.len = 8) ∧ 1 ≤ a.aop.toNat ∧ a.aop.toNat ≤ 0x0B ∧ a.aop = 0x03) ∧
  (∃ (s : State) (id : Nat) (a : Access) (p : Part) (k home off : Nat), s.mem.wf = true ∧ s.quadDead home = false ∧
    s.stackDead (k / 2 ^ 36) = false ∧ 0 < p.len ∧ (s.readHbm k p.len off).2.2 = false ∧ a.hurt = none ∧ a.marks = []
    ∧ a.kind = .atomic ∧ (p.len = 4 ∨ p.len = 8) ∧ 1 ≤ a.aop.toNat ∧ a.aop.toNat ≤ 0x0B ∧ a.aop = 0x04) ∧
  (∃ (s : State) (id : Nat) (a : Access) (p : Part) (k home off : Nat), s.mem.wf = true ∧ s.quadDead home = false ∧
    s.stackDead (k / 2 ^ 36) = false ∧ 0 < p.len ∧ (s.readHbm k p.len off).2.2 = false ∧ a.hurt = none ∧ a.marks = []
    ∧ a.kind = .atomic ∧ (p.len = 4 ∨ p.len = 8) ∧ 1 ≤ a.aop.toNat ∧ a.aop.toNat ≤ 0x0B ∧ a.aop = 0x05) ∧
  (∃ (s : State) (id : Nat) (a : Access) (p : Part) (k home off : Nat), s.mem.wf = true ∧ s.quadDead home = false ∧
    s.stackDead (k / 2 ^ 36) = false ∧ 0 < p.len ∧ (s.readHbm k p.len off).2.2 = false ∧ a.hurt = none ∧ a.marks = []
    ∧ a.kind = .atomic ∧ (p.len = 4 ∨ p.len = 8) ∧ 1 ≤ a.aop.toNat ∧ a.aop.toNat ≤ 0x0B ∧ a.aop = 0x06) ∧
  (∃ (s : State) (id : Nat) (a : Access) (p : Part) (k home off : Nat), s.mem.wf = true ∧ s.quadDead home = false ∧
    s.stackDead (k / 2 ^ 36) = false ∧ 0 < p.len ∧ (s.readHbm k p.len off).2.2 = false ∧ a.hurt = none ∧ a.marks = []
    ∧ a.kind = .atomic ∧ (p.len = 4 ∨ p.len = 8) ∧ 1 ≤ a.aop.toNat ∧ a.aop.toNat ≤ 0x0B ∧ a.aop = 0x07) ∧
  (∃ (s : State) (id : Nat) (a : Access) (p : Part) (k home off : Nat), s.mem.wf = true ∧ s.quadDead home = false ∧
    s.stackDead (k / 2 ^ 36) = false ∧ 0 < p.len ∧ (s.readHbm k p.len off).2.2 = false ∧ a.hurt = none ∧ a.marks = []
    ∧ a.kind = .atomic ∧ (p.len = 4 ∨ p.len = 8) ∧ 1 ≤ a.aop.toNat ∧ a.aop.toNat ≤ 0x0B ∧ a.aop = 0x08) ∧
  (∃ (s : State) (id : Nat) (a : Access) (p : Part) (k home off : Nat), s.mem.wf = true ∧ s.quadDead home = false ∧
    s.stackDead (k / 2 ^ 36) = false ∧ 0 < p.len ∧ (s.readHbm k p.len off).2.2 = false ∧ a.hurt = none ∧ a.marks = []
    ∧ a.kind = .atomic ∧ (p.len = 4 ∨ p.len = 8) ∧ 1 ≤ a.aop.toNat ∧ a.aop.toNat ≤ 0x0B ∧ a.aop = 0x09) ∧
  (∃ (s : State) (id : Nat) (a : Access) (p : Part) (k home off : Nat), s.mem.wf = true ∧ s.quadDead home = false ∧
    s.stackDead (k / 2 ^ 36) = false ∧ 0 < p.len ∧ (s.readHbm k p.len off).2.2 = false ∧ a.hurt = none ∧ a.marks = []
    ∧ a.kind = .atomic ∧ (p.len = 4 ∨ p.len = 8) ∧ 1 ≤ a.aop.toNat ∧ a.aop.toNat ≤ 0x0B ∧ a.aop = 0x0A) ∧
  (∃ (s : State) (id : Nat) (a : Access) (p : Part) (k home off : Nat), s.mem.wf = true ∧ s.quadDead home = false ∧
    s.stackDead (k / 2 ^ 36) = false ∧ 0 < p.len ∧ (s.readHbm k p.len off).2.2 = false ∧ a.hurt = none ∧ a.marks = []
    ∧ a.kind = .atomic ∧ (p.len = 4 ∨ p.len = 8) ∧ 1 ≤ a.aop.toNat ∧ a.aop.toNat ≤ 0x0B ∧ a.aop = 0x0B) :=
  ⟨⟨up, 7, { kind := .read, gfa := 0, len := 8 }, { pos := 0, len := 8, dev := 0, off := 0, st := .parked }, 64, 0, 64, (by decide +kernel), (by decide +kernel), (by decide +kernel), (by decide +kernel), (by decide +kernel), rfl, rfl, 72, .inr (by decide +kernel)⟩,
   ⟨up, 7, { kind := .read, gfa := 0, len := 8 }, { pos := 0, len := 8, dev := 0, off := 0, st := .parked }, 64, 0, 64, (by decide +kernel), (by decide +kernel), (by decide +kernel), (by decide +kernel), (by decide +kernel), rfl, rfl, rfl⟩,
   ⟨up, 7, { kind := .write, gfa := 0, len := 2, data := [1, 2], mask := some 2 }, { pos := 0, len := 2, dev := 0, off := 0, st := .parked }, 64, 0, 64, (by decide +kernel), (by decide +kernel), (by decide +kernel), (by decide +kernel), (by decide +kernel), rfl, rfl, rfl, fun _ => (by decide +kernel), 1, (by decide +kernel), (by decide +kernel)⟩,
   ⟨up, 7, { kind := .signal, gfa := 0, len := 8, aop := 1 }, { pos := 0, len := 8, dev := 0, off := 0, st := .parked }, 64, 0, 64, (by decide +kernel), (by decide +kernel), (by decide +kernel), (by decide +kernel), (by decide +kernel), rfl, rfl, rfl, rfl, rfl⟩,
   ⟨up, 7, { kind := .signal, gfa := 0, len := 8, aop := 2 }, { pos := 0, len := 8, dev := 0, off := 0, st := .parked }, 64, 0, 64, (by decide +kernel), (by decide +kernel), (by decide +kernel), (by decide +kernel), (by decide +kernel), rfl, rfl, rfl, rfl, rfl⟩,
   ⟨up, 7, { kind := .atomic, gfa := 0, len := 8, aop := 1 }, { pos := 0, len := 8, dev := 0, off := 0, st := .parked }, 64, 0, 64, (by decide +kernel), (by decide +kernel), (by decide +kernel), (by decide +kernel), (by decide +kernel), rfl, rfl, rfl, (by decide +kernel), (by decide +kernel), (by decide +kernel), rfl⟩,
   ⟨up, 7, { kind := .atomic, gfa := 0, len := 8, aop := 2 }, { pos := 0, len := 8, dev := 0, off := 0, st := .parked }, 64, 0, 64, (by decide +kernel), (by decide +kernel), (by decide +kernel), (by decide +kernel), (by decide +kernel), rfl, rfl, rfl, (by decide +kernel), (by decide +kernel), (by decide +kernel), rfl⟩,
   ⟨up, 7, { kind := .atomic, gfa := 0, len := 8, aop := 3 }, { pos := 0, len := 8, dev := 0, off := 0, st := .parked }, 64, 0, 64, (by decide +kernel), (by decide +kernel), (by decide +kernel), (by decide +kernel), (by decide +kernel), rfl, rfl, rfl, (by decide +kernel), (by decide +kernel), (by decide +kernel), rfl⟩,
   ⟨up, 7, { kind := .atomic, gfa := 0, len := 8, aop := 4 }, { pos := 0, len := 8, dev := 0, off := 0, st := .parked }, 64, 0, 64, (by decide +kernel), (by decide +kernel), (by decide +kernel), (by decide +kernel), (by decide +kernel), rfl, rfl, rfl, (by decide +kernel), (by decide +kernel), (by decide +kernel), rfl⟩,
   ⟨up, 7, { kind := .atomic, gfa := 0, len := 8, aop := 5 }, { pos := 0, len := 8, dev := 0, off := 0, st := .parked }, 64, 0, 64, (by decide +kernel), (by decide +kernel), (by decide +kernel), (by decide +kernel), (by decide +kernel), rfl, rfl, rfl, (by decide +kernel), (by decide +kernel), (by decide +kernel), rfl⟩,
   ⟨up, 7, { kind := .atomic, gfa := 0, len := 8, aop := 6 }, { pos := 0, len := 8, dev := 0, off := 0, st := .parked }, 64, 0, 64, (by decide +kernel), (by decide +kernel), (by decide +kernel), (by decide +kernel), (by decide +kernel), rfl, rfl, rfl, (by decide +kernel), (by decide +kernel), (by decide +kernel), rfl⟩,
   ⟨up, 7, { kind := .atomic, gfa := 0, len := 8, aop := 7 }, { pos := 0, len := 8, dev := 0, off := 0, st := .parked }, 64, 0, 64, (by decide +kernel), (by decide +kernel), (by decide +kernel), (by decide +kernel), (by decide +kernel), rfl, rfl, rfl, (by decide +kernel), (by decide +kernel), (by decide +kernel), rfl⟩,
   ⟨up, 7, { kind := .atomic, gfa := 0, len := 8, aop := 8 }, { pos := 0, len := 8, dev := 0, off := 0, st := .parked }, 64, 0, 64, (by decide +kernel), (by decide +kernel), (by decide +kernel), (by decide +kernel), (by decide +kernel), rfl, rfl, rfl, (by decide +kernel), (by decide +kernel), (by decide +kernel), rfl⟩,
   ⟨up, 7, { kind := .atomic, gfa := 0, len := 8, aop := 9 }, { pos := 0, len := 8, dev := 0, off := 0, st := .parked }, 64, 0, 64, (by decide +kernel), (by decide +kernel), (by decide +kernel), (by decide +kernel), (by decide +kernel), rfl, rfl, rfl, (by decide +kernel), (by decide +kernel), (by decide +kernel), rfl⟩,
   ⟨up, 7, { kind := .atomic, gfa := 0, len := 8, aop := 10 }, { pos := 0, len := 8, dev := 0, off := 0, st := .parked }, 64, 0, 64, (by decide +kernel), (by decide +kernel), (by decide +kernel), (by decide +kernel), (by decide +kernel), rfl, rfl, rfl, (by decide +kernel), (by decide +kernel), (by decide +kernel), rfl⟩,
   ⟨up, 7, { kind := .atomic, gfa := 0, len := 4, aop := 11 }, { pos := 0, len := 4, dev := 0, off := 0, st := .parked }, 64, 0, 64, (by decide +kernel), (by decide +kernel), (by decide +kernel), (by decide +kernel), (by decide +kernel), rfl, rfl, rfl, (by decide +kernel), (by decide +kernel), (by decide +kernel), rfl⟩⟩

theorem witness_ManagementAccessesComplete :
  (∃ (s : State) (f : Frame) (n : Nat) (r : State) (bad : Option Nat), s.Takes 0x20 f {} (mgParse f.hdr 0) n r ∧
    r.mgStage2 (r.originOf n 0x20 f.hdr) = stOk) ∧
  (∃ (s : State) (f : Frame) (n : Nat) (r : State) (bad : Option Nat), s.Takes 0x21 f {} (mgParse f.hdr (8 *
    f.hdr.opLen.toNat)) n r ∧ r.mgStage2 (r.originOf n 0x21 f.hdr) = stOk) ∧
  (∃ (bad : Option Nat) (n k off : Nat) (s : State) (bs : List Byte) (a : RegAt), s.regHere off = some a ∧
    s.blockFailed a = false ∧ bad ≠ some k) ∧
  (∃ (bad : Option Nat) (n k off : Nat) (s : State) (bs : List Byte) (a : RegAt), s.regHere off = some a ∧
    s.blockFailed a = false ∧ bad = some k) ∧
  (∃ (bad : Option Nat) (n k off : Nat) (s : State) (bs : List Byte), s.regHere off = none) :=
  ⟨⟨live, msg 0x20 65536 { opLen := 64 } ([]), 65536, seen live 65536 (msg 0x20 65536 { opLen := 64 } ([])), none, takes_of (by decide +kernel) (by decide +kernel), (by decide +kernel)⟩,
   ⟨live, msg 0x21 65536 { opLen := 1 } (zeros 8), 65536, seen live 65536 (msg 0x21 65536 { opLen := 1 } (zeros 8)), none, takes_of (by decide +kernel) (by decide +kernel), (by decide +kernel)⟩,
   ⟨none, 0, 0, 0x1000, up, [], (regAt? 0x1000).getD { reg := .hubLock }, (by decide +kernel), (by decide +kernel), nofun⟩,
   ⟨some 0, 0, 0, 0x1000, up, [], (regAt? 0x1000).getD { reg := .hubLock }, (by decide +kernel), (by decide +kernel), rfl⟩,
   ⟨none, 0, 0, 4, up, [], (by decide +kernel)⟩⟩

theorem witness_EngineCommandsAreAccepted :
  (∃ (c : Instr) (f : Frame) (s : State) (n : Nat) (r t : State) (y : UnitForm) (os : List Opnd), messageOf c = some
    (0x30, f) ∧
    let u := f.hdr.addr.toNat % 256
    let sel := f.hdr.addr.toNat / 256 % 256
    let op := BitVec.ofNat 8 (field f.payload 0 1)
    let o := r.originOf n 0x30 f.hdr
    let ctx := o.ctxField.toNat % 4096
    s.Takes 0x30 f {}
      { bad := f.hdr.opLen != 0 || 2 ^ 32 ≤ f.hdr.addr.toNat, odd := r.v1 n, body := r.engBody f.hdr f.payload } n r
      ∧ r.unitForm u = some y ∧ r.ctxCheck o = stOk ∧ r.transOps ctx (if isCommon op then commonOps f.payload else
      y.operands f.payload) = (t, some os) ∧
    let q := if sel = 0xFF then (if u ≤ 5 then t.routeTo ((os.getD (y.route f.payload) ⟨0, 0, false, false⟩).gfa)
      else 0xFF) else sel
    (t.unit u q).state = .enabled ∧ t.overLimit o = false) :=
  ⟨.hdlAlloc (msg 0x30 65536 { ctx := 1, addr := 0xFF07 } ([1] ++ zeros 31)), msg 0x30 65536 { ctx := 1, addr := 0xFF07 } ([1] ++ zeros 31), live, 65536, seen (live) 65536 (msg 0x30 65536 { ctx := 1, addr := 0xFF07 } ([1] ++ zeros 31)), seen (live) 65536 (msg 0x30 65536 { ctx := 1, addr := 0xFF07 } ([1] ++ zeros 31)), hurdleForm 0, [], rfl, takes_of (by decide +kernel) (by decide +kernel), rfl, (by decide +kernel), (by decide +kernel), (by decide +kernel), (by decide +kernel)⟩

theorem witness_CoherenceRequestsAreAccepted :
  (∃ (s : State) (f : Frame) (n : Nat) (r t : State) (g : Nat) (typ : Byte) (k : CohKind) (p : Perm) (c : Instr), (c,
    typ, k, p) ∈ [(Instr.cohReadS f, (0x41 : Byte), CohKind.readS, ({ r := true } : Perm)), (.cohReadE f, 0x42,
    .readE, { r := true, w := true }), (.cohUpgrade f, 0x43, .upgrade, { r := true, w := true }), (.cohWb f, 0x44,
    .wb, { w := true }), (.cohEvict f, 0x45, .evict, { r := true })] ∧ s.Takes typ f {}
    { bad := f.hdr.opLen != 128 || f.hdr.addr.toNat % 128 != 0 || f.hdr.payLen.toNat != (if k = .wb then 136 else 0) || (k = .wb && 2 ≤ field f.payload 128 8), odd := r.v1 n || 4 < f.hdr.cls }
    n r ∧
    let o := r.originOf n typ f.hdr
    let ctx := o.ctxField.toNat % 4096
    r.ctxCheck o = stOk ∧ r.slotsOf ctx ≠ [] ∧ r.translate ctx f.hdr.addr.toNat 128 p = (t, some g) ∧ t.overLimit o =
      false) :=
  ⟨regs live [({ reg := .dirDomMember }, 0x1001)], msg 0x45 65536 { ctx := 1, opLen := 128 } [], 65536, seen (regs live [({ reg := .dirDomMember }, 0x1001)]) 65536 (msg 0x45 65536 { ctx := 1, opLen := 128 } []), _, 0, 0x45, .evict, { r := true }, .cohEvict (msg 0x45 65536 { ctx := 1, opLen := 128 } []), by simp, takes_of (by decide +kernel) (by decide +kernel), (by decide +kernel), (by decide +kernel), fst_eq (by decide +kernel), (by decide +kernel)⟩

theorem witness_PeerMessagesComplete :
  (∃ (s : State) (f : Frame) (n : Nat) (r : State),
    let b := f.payload
    (s.Takes 0x48 f { gfaReq := true } (r.batonParse n 0x48 f (· = 64) fun _ => true) n r) ∧ isPeerSess n = true ∧
    let l := field b 0 2
    l ≤ 255 ∧ zeroAt b 20 4 = true ∧ zeroAt b 42 6 = true ∧ zeroAt b 56 8 = true ∧ zeroAt b 25 1 = true ∧ zeroAt b 32
      2 = true ∧ (r.lane l).state = .armed ∧ ((r.lane l).reqId = 0 ∨ (r.lane l).reqId = BitVec.ofNat 64 (field b 8
      8)) ∧ slice b 24 18 = (r.lane l).config ∧ field b 16 4 ≤ (r.lane l).cap) ∧
  (∃ (s : State) (f : Frame) (n : Nat) (r : State),
    let b := f.payload
    s.Takes 0x54 f { gfaReq := true }
      { bad := gfaOff f.hdr.addr.toNat != 0 || f.hdr.ctx != 0 || f.hdr.opLen != 0 || hurdleBody r.ownId true b = stMalformed, odd := r.v1 n || f.hdr.cls != 2 || hurdleBody r.ownId true b = stUnsupported }
      n r ∧ isPeerSess n = true ∧ (r.unit 7 0xFF).state = .enabled) ∧
  (∃ (s : State) (f : Frame) (n : Nat) (r : State),
    let b := f.payload
    s.Takes 0x5C f {}
      { bad := f.hdr.addr != 0 || f.hdr.opLen != 0 || f.hdr.payLen != 64 || 1 < field b 0 2 || !zeroAt b 2 6, odd := r.v1 n || f.hdr.cls != 7 }
      n r ∧
    let o := r.originOf n 0x5C f.hdr
    r.mgrCheck o = stOk ∧ r.boot.idOk = true ∧ r.attests.length < 16 ∧ field b 0 2 = 0) ∧
  (∃ (s : State) (f : Frame) (n : Nat) (r : State),
    let b := f.payload
    s.Takes 0x5C f {}
      { bad := f.hdr.addr != 0 || f.hdr.opLen != 0 || f.hdr.payLen != 64 || 1 < field b 0 2 || !zeroAt b 2 6, odd := r.v1 n || f.hdr.cls != 7 }
      n r ∧
    let o := r.originOf n 0x5C f.hdr
    r.mgrCheck o = stOk ∧ r.boot.idOk = true ∧ r.attests.length < 16 ∧ ∃ cert, field b 0 2 = 1 ∧ r.boot.image.devcert
      = some cert) ∧
  (∃ (s : State) (f : Frame) (n : Nat) (r : State),
    let b := f.payload
    isPeerSess n = true ∧ ∃ l, (s.Takes 0x49 f { gfaReq := true } (r.batonParse n 0x49 f (fun k => 1 ≤ k && k ≤ 4096)
      fun _ => true) n r) ∧
    let o := r.originOf n 0x49 f.hdr
    r.receivingOn o = some l ∧
    let off := gfaOff f.hdr.addr.toNat
    let x := r.lane l
    r.laneShut x = false ∧ off % 4096 = 0 ∧ off < x.imageBytes ∧ b.length = min 4096 (x.imageBytes - off)) ∧
  (∃ (s : State) (f : Frame) (n : Nat) (r : State),
    let b := f.payload
    isPeerSess n = true ∧ ∃ l im, (s.Takes 0x4A f { gfaReq := true } (r.batonParse n 0x4A f (· = 16) fun _ => true) n
      r) ∧
    let o := r.originOf n 0x4A f.hdr
    r.receivingFor o (BitVec.ofNat 64 (field b 0 8)) = some l ∧ (r.lane l).offGen.toNat = field b 8 4 ∧ (r.lane
      l).image = some im ∧ (crc32c im).toNat = field b 12 4) ∧
  (∃ (s : State) (f : Frame) (n : Nat) (r : State),
    let b := f.payload
    isPeerSess n = true ∧ ∃ l, s.Takes 0x4B f { gfaReq := true } (r.batonParse n 0x4B f (· = 16) (zeroAt · 12 4)) n r
      ∧ (((r.lanes.find? fun x => x.2.state = .taken && x.2.reqId = BitVec.ofNat 64 (field b 0 8) && x.2.gen =
      BitVec.ofNat 32 (field b 8 4)).map fun x => x.1) = some l)) ∧
  (∃ (s : State) (f : Frame) (n : Nat) (r : State),
    let b := f.payload
    isPeerSess n = true ∧ s.Takes 0x4C f { gfaReq := true } (r.batonParse n 0x4C f (· = 16) (zeroAt · 9 3)) n r ∧
    let req := BitVec.ofNat 64 (field b 0 8)
    ((r.lanes.filter fun x => x.2.state = .receiving && x.2.offReq = req) = []) ∧ r.recorded req = none) ∧
  (∃ (s : State) (f : Frame) (n : Nat) (r : State),
    let b := f.payload
    isPeerSess n = true ∧ s.Takes 0x4C f { gfaReq := true } (r.batonParse n 0x4C f (· = 16) (zeroAt · 9 3)) n r ∧
    let req := BitVec.ofNat 64 (field b 0 8)
    ((r.lanes.filter fun x => x.2.state = .receiving && x.2.offReq = req) = []) ∧ ∃ l, r.recorded req = some l) ∧
  (∃ (s : State) (f : Frame) (n : Nat) (r : State),
    let b := f.payload
    isPeerSess n = true ∧ s.Takes 0x50 f { gfaReq := true }
      { bad := f.hdr.ctx != 0 || f.hdr.opLen != 0 || gfaOff f.hdr.addr.toNat != 0 || b.length < 32, odd := r.v1 n || f.hdr.cls != 2 }
      n r ∧
    let g := field b 0 1
    let q := r.groupQuad (g % 64)
    let t := r.countQ q .guStat 5
    let running := match t.groupCmd g with | some (_, e, _) => e.round = field b 8 8 | none => false
    let hold := !running || field b 3 1 / 2 % 2 = 1
    g < 64 ∧ (r.unit 4 q).state ≠ .disabled ∧ t.partBad b = false ∧ t.groupValid g = true ∧ field b 2 1 < t.groupSize
      g ∧ (t.groupMember g (field b 2 1)).device = n ∧ (∀ k, (t.group g).completed = some k → k < field b 8 8) ∧
      (hold = true → (t.bufOn q && ((t.heldOn q).length + 1) * 4096 ≤ t.extLen (bits (t.quad q .guCfg) 11 0)) = true)) :=
  ⟨⟨withLane { state := .armed, config := zeros 18 }, msg 0x48 5 { flags := 0x802 } (zeros 64), 5, seen (withLane { state := .armed, config := zeros 18 }) 5 (msg 0x48 5 { flags := 0x802 } (zeros 64)), takes_of (by decide +kernel) (by decide +kernel), (by decide +kernel), (by decide +kernel), (by decide +kernel), (by decide +kernel), (by decide +kernel), (by decide +kernel), (by decide +kernel), (by decide +kernel), (by decide +kernel), (by decide +kernel)⟩,
   ⟨live, msg 0x54 5 { flags := 0x802 } ([3, 0, 1] ++ zeros 29), 5, seen (live) 5 (msg 0x54 5 { flags := 0x802 } ([3, 0, 1] ++ zeros 29)), takes_of (by decide +kernel) (by decide +kernel), (by decide +kernel), (by decide +kernel)⟩,
   ⟨{ live with boot := { live.boot with idOk := true, image := { devcert := some [] } } }, msg 0x5C 65536 { flags := 7 } (zeros 64), 65536, seen ({ live with boot := { live.boot with idOk := true, image := { devcert := some [] } } }) 65536 (msg 0x5C 65536 { flags := 7 } (zeros 64)), takes_of (by decide +kernel) (by decide +kernel), (by decide +kernel), (by decide +kernel), (by decide +kernel), (by decide +kernel)⟩,
   ⟨{ live with boot := { live.boot with idOk := true, image := { devcert := some [] } } }, msg 0x5C 65536 { flags := 7 } ([1] ++ zeros 63), 65536, seen ({ live with boot := { live.boot with idOk := true, image := { devcert := some [] } } }) 65536 (msg 0x5C 65536 { flags := 7 } ([1] ++ zeros 63)), takes_of (by decide +kernel) (by decide +kernel), (by decide +kernel), (by decide +kernel), (by decide +kernel), [], (by decide +kernel), (by decide +kernel)⟩,
   ⟨receiving, msg 0x49 5 { flags := 0x802 } (zeros 64), 5, seen (receiving) 5 (msg 0x49 5 { flags := 0x802 } (zeros 64)), (by decide +kernel), 0, takes_of (by decide +kernel) (by decide +kernel), (by decide +kernel), (by decide +kernel), (by decide +kernel), (by decide +kernel)⟩,
   ⟨receiving, msg 0x4A 5 { flags := 0x802 } (zeros 12 ++ leBytes 4 (crc32c (zeros 64)).toNat), 5, seen (receiving) 5 (msg 0x4A 5 { flags := 0x802 } (zeros 12 ++ leBytes 4 (crc32c (zeros 64)).toNat)), (by decide +kernel), 0, zeros 64, takes_of (by decide +kernel) (by decide +kernel), (by decide +kernel), (by decide +kernel), (by decide +kernel), (by decide +kernel)⟩,
   ⟨withLane { state := .taken }, msg 0x4B 5 { flags := 0x802 } (zeros 16), 5, seen (withLane { state := .taken }) 5 (msg 0x4B 5 { flags := 0x802 } (zeros 16)), (by decide +kernel), 0, takes_of (by decide +kernel) (by decide +kernel), (by decide +kernel)⟩,
   ⟨live, msg 0x4C 5 { flags := 0x802 } (zeros 16), 5, seen (live) 5 (msg 0x4C 5 { flags := 0x802 } (zeros 16)), (by decide +kernel), takes_of (by decide +kernel) (by decide +kernel), (by decide +kernel), (by decide +kernel)⟩,
   ⟨withLane { state := .held }, msg 0x4C 5 { flags := 0x802 } (zeros 16), 5, seen (withLane { state := .held }) 5 (msg 0x4C 5 { flags := 0x802 } (zeros 16)), (by decide +kernel), takes_of (by decide +kernel) (by decide +kernel), (by decide +kernel), 0, (by decide +kernel)⟩,
   ⟨heatState, msg 0x50 5 { flags := 0x802 } ([0, 1, 0, 0, 1, 0, 0, 0, 1] ++ zeros 11 ++ [1, 0, 1] ++ zeros 17), 5, seen (heatState) 5 (msg 0x50 5 { flags := 0x802 } ([0, 1, 0, 0, 1, 0, 0, 0, 1] ++ zeros 11 ++ [1, 0, 1] ++ zeros 17)), (by decide +kernel), takes_of (by decide +kernel) (by decide +kernel), (by decide +kernel), (by decide +kernel), (by decide +kernel), (by decide +kernel), (by decide +kernel), (by decide +kernel), (fun k h => by cases (show none = some k from h)), (by decide +kernel)⟩⟩

theorem witness_DomainOpsComplete :
  (∃ (s : State) (d : BitVec 8) (v : Word), s.Ready ∧
    let n := d.toNat
    let a : RegAt := { reg := .dirDomCfg, i := n }
    let w (k : Nat) : State := s.putAt a (storedWrite s a (putBits v 35 34 k))
    s.reaches a = true ∧ s.domState n = .idle ∧ (w 1).membersOk n = true) ∧
  (∃ (s : State) (d : BitVec 8) (v : Word), s.Ready ∧
    let n := d.toNat
    let a : RegAt := { reg := .dirDomCfg, i := n }
    let w (k : Nat) : State := s.putAt a (storedWrite s a (putBits v 35 34 k))
    s.reaches a = true ∧ s.domState n = .idle ∧ (w 1).membersOk n = false) ∧
  (∃ (s : State) (d : BitVec 8) (v : Word), s.Ready ∧
    let n := d.toNat
    let a : RegAt := { reg := .dirDomCfg, i := n }
    s.reaches a = true ∧ s.domState n ≠ .idle) ∧
  (∃ (s : State) (d : BitVec 8) (v : Word), s.Ready ∧
    let n := d.toNat
    let a : RegAt := { reg := .dirDomCfg, i := n }
    s.reaches a = true ∧ s.domState n = .up) ∧
  (∃ (s : State) (d : BitVec 8) (v : Word), s.Ready ∧
    let n := d.toNat
    let a : RegAt := { reg := .dirDomCfg, i := n }
    s.reaches a = true ∧ s.domState n = .down) ∧
  (∃ (s : State) (d : BitVec 8) (v : Word), s.Ready ∧ ∃ q : BitVec 2, s.reaches
    { reg := .dirPeekAddr, inst := q.toNat } = true) :=
  ⟨⟨live, 255, 0, ⟨rfl, rfl⟩, (by decide +kernel), (by decide +kernel), (by decide +kernel)⟩,
   ⟨regs live [({ reg := .dirDomMember }, 0x1000)], 0, 0, ⟨rfl, rfl⟩, (by decide +kernel), (by decide +kernel), (by decide +kernel)⟩,
   ⟨withDomain 0 .failing, 0, 0, ⟨rfl, rfl⟩, (by decide +kernel), (by decide +kernel)⟩,
   ⟨withDomain 0 .up, 0, 0, ⟨rfl, rfl⟩, (by decide +kernel), (by decide +kernel)⟩,
   ⟨withDomain 255 .down, 255, 0, ⟨rfl, rfl⟩, (by decide +kernel), (by decide +kernel)⟩,
   ⟨live, 0, 0, ⟨rfl, rfl⟩, 3, (by decide +kernel)⟩⟩

theorem witness_DirectoryTimersComplete :
  (∃ (s : State), s.Ready ∧ ∃ tag t r l i, (s.xp.reqs.find? (·.1 = tag)) = some (t, r) ∧ r.kind = .recall l i ∧
    s.recallTo (s.entry l).domain ≤ s.now - r.since) ∧
  (∃ (s : State), s.Ready ∧ ∃ d : BitVec 8, s.domState d.toNat = .failing ∧ ((s.cmds.any fun c => c.ctx != 0 &&
    (s.slotIn d.toNat c.ctx).isSome) = false) ∧ ((s.dir.entries.any fun x => x.2.domain = d.toNat) = false)) ∧
  (∃ (s : State), s.Ready ∧ ∃ l x, s.busy l = false ∧ s.dir.parked.find? (·.1 = l) = some x) ∧
  (∃ (s : State), s.Ready ∧ ∃ id a, s.acc id = some a) :=
  ⟨⟨{ live with now := 2 ^ 40, xp := { live.xp with reqs := [(3, { kind := .recall 0 0, sess := 5, inc := 0, since := 0, peer := 0 })] } }, ⟨rfl, rfl⟩, 3, 3, _, 0, 0, rfl, rfl, (by decide +kernel)⟩,
   ⟨withDomain 3 .failing, ⟨rfl, rfl⟩, 3, (by decide +kernel), (by decide +kernel), (by decide +kernel)⟩,
   ⟨{ live with dir := { live.dir with parked := [(7, 0, 0)] } }, ⟨rfl, rfl⟩, 7, (7, 0, 0), (by decide +kernel), (by decide +kernel)⟩,
   ⟨{ live with cmds := [{ id := 1, src := .hurdle, body := .access { kind := .read, gfa := 0, len := 8 } }] }, ⟨rfl, rfl⟩, 1, { kind := .read, gfa := 0, len := 8 }, (by decide +kernel)⟩⟩

theorem witness_ExtentOpsComplete :
  (∃ (s : State) (e : BitVec 12) (v : Word), s.Ready ∧
    let n := e.toNat
    let a : RegAt := { reg := .hubExtCtl, i := n }
    let u := if s.extFree n then s.extUnfault n 3 else s
    let w (k : Nat) : State := if u.extFree n then u.putAt a (storedWrite u a (putBits v 19 16 k)) else u
    s.reaches a = true ∧ (w 1).activateCheck n = stOk) ∧
  (∃ (s : State) (e : BitVec 12) (v : Word), s.Ready ∧
    let n := e.toNat
    let a : RegAt := { reg := .hubExtCtl, i := n }
    let u := if s.extFree n then s.extUnfault n 3 else s
    let w (k : Nat) : State := if u.extFree n then u.putAt a (storedWrite u a (putBits v 19 16 k)) else u
    s.reaches a = true ∧ (w 1).activateCheck n ≠ stOk) ∧
  (∃ (s : State) (e : BitVec 12) (v : Word), s.Ready ∧
    let n := e.toNat
    let a : RegAt := { reg := .hubExtCtl, i := n }
    let u := if s.extFree n then s.extUnfault n 3 else s
    let w (k : Nat) : State := if u.extFree n then u.putAt a (storedWrite u a (putBits v 19 16 k)) else u
    s.reaches a = true ∧ ((w 2).extState n = .filling ∨ (w 2).extState n = .active)) ∧
  (∃ (s : State) (e : BitVec 12) (v : Word), s.Ready ∧
    let n := e.toNat
    let a : RegAt := { reg := .hubExtCtl, i := n }
    let u := if s.extFree n then s.extUnfault n 3 else s
    let w (k : Nat) : State := if u.extFree n then u.putAt a (storedWrite u a (putBits v 19 16 k)) else u
    s.reaches a = true ∧ (w 2).extState n ≠ .filling ∧ (w 2).extState n ≠ .active) ∧
  (∃ (s : State) (e : BitVec 12) (v : Word), s.Ready ∧
    let n := e.toNat
    let a : RegAt := { reg := .hubExtCtl, i := n }
    let u := if s.extFree n then s.extUnfault n 3 else s
    let w (k : Nat) : State := if u.extFree n then u.putAt a (storedWrite u a (putBits v 19 16 k)) else u
    s.reaches a = true ∧ (w 3).extState n = .drained) ∧
  (∃ (s : State) (e : BitVec 12) (v : Word), s.Ready ∧
    let n := e.toNat
    let a : RegAt := { reg := .hubExtCtl, i := n }
    let u := if s.extFree n then s.extUnfault n 3 else s
    let w (k : Nat) : State := if u.extFree n then u.putAt a (storedWrite u a (putBits v 19 16 k)) else u
    s.reaches a = true ∧ (w 3).extState n ≠ .drained) ∧
  (∃ (s : State) (c : BitVec 12) (g : BitVec 4) (v : Word), s.Ready ∧
    let i := c.toNat
    let j := g.toNat
    tsorted 0 s.cfg = true ∧ s.reaches { reg := .hubSegAttr, i := i, j := j } = true) :=
  ⟨⟨withExt 4095 .free 0, 4095, 0, ⟨rfl, rfl⟩, (by decide +kernel), (by decide +kernel)⟩,
   ⟨live, 0, 0, ⟨rfl, rfl⟩, (by decide +kernel), (by decide +kernel)⟩,
   ⟨withExt 0 .active 0, 0, 0, ⟨rfl, rfl⟩, (by decide +kernel), (by decide +kernel)⟩,
   ⟨live, 0, 0, ⟨rfl, rfl⟩, (by decide +kernel), (by decide +kernel), (by decide +kernel)⟩,
   ⟨withExt 0 .drained 0, 0, 0, ⟨rfl, rfl⟩, (by decide +kernel), (by decide +kernel)⟩,
   ⟨live, 0, 0, ⟨rfl, rfl⟩, (by decide +kernel), (by decide +kernel)⟩,
   ⟨live, 4095, 15, 0, ⟨rfl, rfl⟩, (by decide +kernel), (by decide +kernel)⟩⟩

theorem witness_ExtentTimersComplete :
  (∃ (s : State) (e : BitVec 12), s.Ready ∧
    let n := e.toNat
    s.extState n = .filling) ∧
  (∃ (s : State) (e : BitVec 12), s.Ready ∧
    let n := e.toNat
    s.extTier n = 0 ∧ ∃ k x, (s.extStacks n).1 ≤ x / 2 ^ 36 ∧ x / 2 ^ 36 ≤ (s.extStacks n).2.1 ∧ s.extBack n ≤ x % 2
      ^ 36 ∧ x % 2 ^ 36 < s.extBack n + k) ∧
  (∃ (s : State) (e : BitVec 12), s.Ready ∧
    let n := e.toNat
    ∃ k x, s.extTier n = 0 ∧ (x / 2 ^ 36 < (s.extStacks n).1 ∨ (s.extStacks n).2.1 < x / 2 ^ 36 ∨ x % 2 ^ 36 <
      s.extBack n ∨ s.extBack n + k ≤ x % 2 ^ 36)) ∧
  (∃ (s : State) (e : BitVec 12), s.Ready ∧
    let n := e.toNat
    s.extState n = .revoking ∧ s.extInFlight n = 0 ∧ s.extLines n = false) ∧
  (∃ (s : State) (e : BitVec 12), s.Ready ∧
    let n := e.toNat
    s.extState n = .revoking ∧ s.extInFlight n = 0 ∧ s.extLines n = true) ∧
  (∃ (s : State) (e : BitVec 12), s.Ready ∧ ∃ (v : Word), s.reaches { reg := .hubRcInval } = true) :=
  ⟨⟨withExt 0 .filling 0x1000, 0, ⟨rfl, rfl⟩, (by decide +kernel)⟩,
   ⟨live, 0, ⟨rfl, rfl⟩, (by decide +kernel), 64, 63, (by decide +kernel), (by decide +kernel), (by decide +kernel), (by decide +kernel)⟩,
   ⟨live, 0, ⟨rfl, rfl⟩, 64, 64, (by decide +kernel), (by decide +kernel)⟩,
   ⟨withExt 4095 .revoking 0, 4095, ⟨rfl, rfl⟩, (by decide +kernel), (by decide +kernel), (by decide +kernel)⟩,
   ⟨{ withExt 0 .revoking 0 with dir := { entries := [(511, { owner := 0, sharers := 1, domain := 0 })] } }, 0, ⟨rfl, rfl⟩, (by decide +kernel), (by decide +kernel), (by decide +kernel)⟩,
   ⟨live, 0, ⟨rfl, rfl⟩, 0, (by decide +kernel)⟩⟩

theorem witness_RegionOpsComplete :
  (∃ (s : State) (r : BitVec 16) (v : Word), s.Ready ∧
    let n := r.toNat
    s.reaches { reg := .vrRegCtl, i := n } = true ∧ ∃ e, (s.region n).state = .free ∧ s.declareCheck n = stOk ∧
      s.findExt (s.regBase n) = some e ∧ s.extCoherent e = false) ∧
  (∃ (s : State) (r : BitVec 16) (v : Word), s.Ready ∧
    let n := r.toNat
    s.reaches { reg := .vrRegCtl, i := n } = true ∧ ∃ e, (s.region n).state = .free ∧ s.declareCheck n = stOk ∧
      s.findExt (s.regBase n) = some e ∧ s.extCoherent e = true) ∧
  (∃ (s : State) (r : BitVec 16) (v : Word), s.Ready ∧
    let n := r.toNat
    s.reaches { reg := .vrRegCtl, i := n } = true ∧ (s.region n).state = .free ∧ s.declareCheck n ≠ stOk) ∧
  (∃ (s : State) (r : BitVec 16) (v : Word), s.Ready ∧
    let n := r.toNat
    s.reaches { reg := .vrRegCtl, i := n } = true ∧ (s.region n).state ≠ .free) ∧
  (∃ (s : State) (r : BitVec 16) (v : Word), s.Ready ∧
    let n := r.toNat
    s.reaches { reg := .vrRegCtl, i := n } = true ∧ (s.region n).state = .ready) ∧
  (∃ (s : State) (r : BitVec 16) (v : Word), s.Ready ∧
    let n := r.toNat
    s.reaches { reg := .vrRegCtl, i := n } = true ∧ (s.region n).state = .ended) ∧
  (∃ (s : State) (r : BitVec 16) (v : Word), s.Ready ∧
    let n := r.toNat
    s.reaches { reg := .vrRegCtl, i := n } = true ∧ (s.region n).state ≠ .ready ∧ (s.region n).state ≠ .ended) ∧
  (∃ (s : State) (q k : BitVec 2) (v : Word), s.Ready ∧
    let a : RegAt := { reg := .vrPool, inst := q.toNat, i := k.toNat }
    s.reaches a = true ∧ (s.pool q.toNat k.toNat).attached = false ∧ bit v 13 = false) ∧
  (∃ (s : State) (q k : BitVec 2) (v : Word), s.Ready ∧
    let a : RegAt := { reg := .vrPool, inst := q.toNat, i := k.toNat }
    let w := s.putAt a (storedWrite s a v)
    s.reaches a = true ∧ (s.pool q.toNat k.toNat).attached = false ∧ bit v 13 = true ∧ w.poolable q.toNat (bits v 11
      0) = true) ∧
  (∃ (s : State) (q k : BitVec 2) (v : Word), s.Ready ∧
    let a : RegAt := { reg := .vrPool, inst := q.toNat, i := k.toNat }
    let w := s.putAt a (storedWrite s a v)
    s.reaches a = true ∧ (s.pool q.toNat k.toNat).attached = false ∧ bit v 13 = true ∧ w.poolable q.toNat (bits v 11
      0) = false) ∧
  (∃ (s : State) (q k : BitVec 2) (v : Word), s.Ready ∧
    let a : RegAt := { reg := .vrPool, inst := q.toNat, i := k.toNat }
    s.reaches a = true ∧ (s.pool q.toNat k.toNat).attached = true ∧ bit v 13 = true) ∧
  (∃ (s : State) (q k : BitVec 2) (v : Word), s.Ready ∧
    let a : RegAt := { reg := .vrPool, inst := q.toNat, i := k.toNat }
    s.reaches a = true ∧ (s.pool q.toNat k.toNat).attached = true ∧ bit v 13 = false) :=
  ⟨⟨poolState 0x80 .free, 65535, 0, ⟨rfl, rfl⟩, (by decide +kernel), 0, (by decide +kernel), (by decide +kernel), (by decide +kernel), (by decide +kernel)⟩,
   ⟨poolState 0x480 .free, 65535, 0, ⟨rfl, rfl⟩, (by decide +kernel), 0, (by decide +kernel), (by decide +kernel), (by decide +kernel), (by decide +kernel)⟩,
   ⟨live, 0, 0, ⟨rfl, rfl⟩, (by decide +kernel), (by decide +kernel), (by decide +kernel)⟩,
   ⟨withRegion 0 .declaring, 0, 0, ⟨rfl, rfl⟩, (by decide +kernel), (by decide +kernel)⟩,
   ⟨withRegion 0 .ready, 0, 0, ⟨rfl, rfl⟩, (by decide +kernel), (by decide +kernel)⟩,
   ⟨withRegion 0 .ended, 0, 0, ⟨rfl, rfl⟩, (by decide +kernel), (by decide +kernel)⟩,
   ⟨live, 0, 0, ⟨rfl, rfl⟩, (by decide +kernel), (by decide +kernel), (by decide +kernel)⟩,
   ⟨live, 3, 3, 0, ⟨rfl, rfl⟩, (by decide +kernel), (by decide +kernel), (by decide +kernel)⟩,
   ⟨withExt 0 .active 0x80, 0, 3, 0x2000, ⟨rfl, rfl⟩, (by decide +kernel), (by decide +kernel), (by decide +kernel), (by decide +kernel)⟩,
   ⟨live, 0, 0, 0x2000, ⟨rfl, rfl⟩, (by decide +kernel), (by decide +kernel), (by decide +kernel), (by decide +kernel)⟩,
   ⟨poolState 0x80 .free, 0, 0, 0x2000, ⟨rfl, rfl⟩, (by decide +kernel), (by decide +kernel), (by decide +kernel)⟩,
   ⟨poolState 0x80 .free, 0, 0, 0, ⟨rfl, rfl⟩, (by decide +kernel), (by decide +kernel), (by decide +kernel)⟩⟩

theorem witness_RegionTimersComplete :
  (∃ (s : State) (r : BitVec 16), s.Ready ∧
    let n := r.toNat
    (s.region n).state = .declaring ∧ s.regLines n = false) ∧
  (∃ (s : State) (r : BitVec 16), s.Ready ∧
    let n := r.toNat
    (s.region n).state = .declaring ∧ s.regLines n = true) ∧
  (∃ (s : State) (r : BitVec 16), s.Ready ∧
    let n := r.toNat
    ∃ page g e, ((s.region n).state = .ready ∨ (s.region n).state = .folding) ∧ s.foldable n page = some g ∧ s.regExt
      n = some e) ∧
  (∃ (s : State) (r : BitVec 16), s.Ready ∧
    let n := r.toNat
    (s.region n).state = .folding ∧ ((s.vr.pages.any fun g => g.region = n) = false)) :=
  ⟨⟨withRegion 65535 .declaring, 65535, ⟨rfl, rfl⟩, (by decide +kernel), (by decide +kernel)⟩,
   ⟨{ regs (withRegion 3 .declaring) [({ reg := .vrRegLen, i := 3 }, 0x10000)] with dir := { entries := [(511, { owner := 0, sharers := 1, domain := 0 })] } }, 3, ⟨rfl, rfl⟩, (by decide +kernel), (by decide +kernel)⟩,
   ⟨poolState 0x80 .ready, 0, ⟨rfl, rfl⟩, 0, { region := 0, slot := 0, published := true, lap := 0, page := 0, ext := 1, place := 0 }, 0, (by decide +kernel), (by decide +kernel), (by decide +kernel)⟩,
   ⟨withRegion 3 .folding, 3, ⟨rfl, rfl⟩, (by decide +kernel), (by decide +kernel)⟩⟩

theorem witness_VersionCommandsAct :
  (∃ (s : State) (id c r : Nat) (b : List Byte) (j : Nat) (x : Binding), (s.region r).state = .ready ∧ ∃ i v, s.bindOf
    c r = none ∧ field b 1 1 % 2 = 1 ∧ field b 1 1 / 2 % 2 = 1 ∧ (((s.region r).slots.find? fun v => v.2.published &&
    v.2.lap = (s.region r).curLap) = some v) ∧ (((List.range 16).all fun j => (tget {} s.vr.binds (16 * c + j)).mode
    != .none) = false) ∧ ((leastBelow 64 fun i => !((s.region r).slots.any (·.1 = i))) = some i)) ∧
  (∃ (s : State) (id c r : Nat) (b : List Byte) (j : Nat) (x : Binding), (s.region r).state = .ready ∧ s.bindOf c r =
    some (j, x) ∧ x.mode = .write ∧ s.publishWaits id c r x.slot = false ∧ x.lap = (s.region r).curLap) ∧
  (∃ (s : State) (id c r : Nat) (b : List Byte) (j : Nat) (x : Binding), (s.region r).state = .ready ∧ s.bindOf c r =
    some (j, x) ∧ x.mode = .write ∧ s.publishWaits id c r x.slot = false ∧ x.lap ≠ (s.region r).curLap) :=
  ⟨⟨withRegion 0 .ready, 0, 0, 0, [0, 3], 0, {}, (by decide +kernel), 1, (0, { published := true, lap := 0 }), (by decide +kernel), (by decide +kernel), (by decide +kernel), (by decide +kernel), (by decide +kernel), (by decide +kernel)⟩,
   ⟨{ withRegion 0 .ready with vr := { (withRegion 0 .ready).vr with binds := [(0, { mode := .write, slot := 1, lap := 0 })] } }, 0, 0, 0, [], 0, { mode := .write, slot := 1, lap := 0 }, (by decide +kernel), (by decide +kernel), (by decide +kernel), (by decide +kernel), (by decide +kernel)⟩,
   ⟨{ withRegion 0 .ready with vr := { (withRegion 0 .ready).vr with binds := [(0, { mode := .write, slot := 1, lap := 1 })] } }, 0, 0, 0, [], 0, { mode := .write, slot := 1, lap := 1 }, (by decide +kernel), (by decide +kernel), (by decide +kernel), (by decide +kernel), (by decide +kernel)⟩⟩

theorem witness_FlashStartCompletes :
  (∃ (s : State) (v : Word), s.Ready ∧ s.reaches { reg := .flsCfg } = true ∧
    let w := s.putAt { reg := .flsCfg } (storedWrite s { reg := .flsCfg } (putBits v 33 32 1))
    s.flash.state = .off ∧ w.flashStartOk = true ∧ bit (w.hub .flsCfg) 34 = false) ∧
  (∃ (s : State) (v : Word), s.Ready ∧ s.reaches { reg := .flsCfg } = true ∧
    let w := s.putAt { reg := .flsCfg } (storedWrite s { reg := .flsCfg } (putBits v 33 32 1))
    s.flash.state = .off ∧ w.flashStartOk = true ∧ bit (w.hub .flsCfg) 34 = true) ∧
  (∃ (s : State) (v : Word), s.Ready ∧ s.reaches { reg := .flsCfg } = true ∧
    let w := s.putAt { reg := .flsCfg } (storedWrite s { reg := .flsCfg } (putBits v 33 32 1))
    s.flash.state = .off ∧ w.flashStartOk = false) ∧
  (∃ (s : State) (v : Word), s.Ready ∧ s.reaches { reg := .flsCfg } = true ∧ s.flash.state ≠ .off) ∧
  (∃ (s : State) (v : Word), s.Ready ∧ s.reaches { reg := .flsCfg } = true ∧ s.flash.state = .starting) ∧
  (∃ (s : State) (v : Word), s.Ready ∧ s.reaches { reg := .flsCfg } = true ∧ s.flash.state = .ready) :=
  ⟨⟨flashState, 0x10000, ⟨rfl, rfl⟩, (by decide +kernel), (by decide +kernel), (by decide +kernel), (by decide +kernel)⟩,
   ⟨flashState, 0x400010000, ⟨rfl, rfl⟩, (by decide +kernel), (by decide +kernel), (by decide +kernel), (by decide +kernel)⟩,
   ⟨live, 0x10000, ⟨rfl, rfl⟩, (by decide +kernel), (by decide +kernel), (by decide +kernel)⟩,
   ⟨{ live with flash := { live.flash with state := .ready } }, 0, ⟨rfl, rfl⟩, (by decide +kernel), (by decide +kernel)⟩,
   ⟨{ live with flash := { live.flash with state := .starting } }, 0, ⟨rfl, rfl⟩, (by decide +kernel), (by decide +kernel)⟩,
   ⟨{ live with flash := { live.flash with state := .ready } }, 0, ⟨rfl, rfl⟩, (by decide +kernel), (by decide +kernel)⟩⟩

theorem witness_TierTimersComplete :
  (∃ (s : State), s.Ready ∧ ∃ id a, s.acc id = some a) ∧
  (∃ (s : State), s.Ready ∧ ∃ tag t r c p, (s.xp.reqs.find? (·.1 = tag)) = some (t, r) ∧ s.borrowTo ≤ s.now - r.since
    ∧ r.kind = .fwd c p false) ∧
  (∃ (s : State), s.Ready ∧ ∃ tag t r c p, (s.xp.reqs.find? (·.1 = tag)) = some (t, r) ∧ s.borrowTo ≤ s.now - r.since
    ∧ r.kind = .fwd c p true) :=
  ⟨⟨{ live with cmds := [{ id := 1, src := .hurdle, body := .access { kind := .read, gfa := 0, len := 8 } }] }, ⟨rfl, rfl⟩, 1, { kind := .read, gfa := 0, len := 8 }, (by decide +kernel)⟩,
   ⟨requested (.fwd 1 2 false), ⟨rfl, rfl⟩, 3, 3, _, 1, 2, rfl, (by decide +kernel), rfl⟩,
   ⟨requested (.fwd 1 2 true), ⟨rfl, rfl⟩, 3, 3, _, 1, 2, rfl, (by decide +kernel), rfl⟩⟩

theorem witness_FlashUpkeepCompletes :
  (∃ (s : State), s.Ready ∧ s.flash.state = .ready ∧ ∃ (ch : BitVec 5) (b : Nat) (failed : Bool), s.freePm ch.toNat <
    bits (s.hub .flsFtl) 23 16 ∧ s.gcVictim ch.toNat = some b ∧
    let m := s.moveBlock ch.toNat b
    let t := if m.2 = 0 then m.1 else m.1.count .flsStat 4 m.2
    t.blockValid ch.toNat b = [] ∧ failed = false) ∧
  (∃ (s : State), s.Ready ∧ s.flash.state = .ready ∧ ∃ (ch : BitVec 5) (b : Nat) (failed : Bool), s.freePm ch.toNat <
    bits (s.hub .flsFtl) 23 16 ∧ s.gcVictim ch.toNat = some b ∧
    let m := s.moveBlock ch.toNat b
    let t := if m.2 = 0 then m.1 else m.1.count .flsStat 4 m.2
    t.blockValid ch.toNat b = [] ∧ failed = true) ∧
  (∃ (s : State), s.Ready ∧ s.flash.state = .ready ∧ ∃ (ch : BitVec 5) (b : Nat),
    let all := (List.range (s.popOr NandPop.blocksUsed)).filter fun b => !(s.block ch.toNat b).retired
    let hi := all.foldl (fun m b => max m (s.block ch.toNat b).erases) 0
    let lo := all.foldl (fun m b => min m (s.block ch.toNat b).erases) hi
    bits (s.hub .flsFtl) 63 48 < hi - lo ∧ (((s.closedBlocks ch.toNat).find? fun b => (s.block ch.toNat b).erases =
      lo) = some b) ∧
    let m := s.moveBlock ch.toNat b
    let t := if m.2 = 0 then m.1 else m.1.count .flsStat 6 m.2
    t.blockValid ch.toNat b = []) ∧
  (∃ (s : State), s.Ready ∧ s.flash.state = .ready ∧ ∃ (p : Nat) (patrol : Bool), (tget {} s.flash.nand p).valid =
    true ∧
    let r := if patrol then s.nandRead p else s
    let c := p % 32
    let b := (tget {} s.flash.nand p).block
    bits (r.hub .flsFtl) 47 32 * 1000 < (r.block c b).reads ∧
    let m := r.moveBlock c b
    let t := if m.2 = 0 then m.1 else m.1.count .flsStat 5 m.2
    t.blockValid c b = []) ∧
  (∃ (s : State), s.Ready ∧ s.flash.state = .ready ∧ ∃ (p : Nat) (patrol : Bool), (tget {} s.flash.nand p).valid =
    true ∧
    let r := if patrol then s.nandRead p else s
    let c := p % 32
    let b := (tget {} s.flash.nand p).block
    (r.block c b).reads ≤ bits (r.hub .flsFtl) 47 32 * 1000 ∧ patrol = true) ∧
  (∃ (s : State), s.Ready ∧ s.flash.state = .ready ∧ ∃ (p : Nat) (patrol : Bool), (tget {} s.flash.nand p).valid =
    true ∧
    let r := if patrol then s.nandRead p else s
    let c := p % 32
    let b := (tget {} s.flash.nand p).block
    (r.block c b).reads ≤ bits (r.hub .flsFtl) 47 32 * 1000 ∧ patrol = false ∧ (s.relocate p).2 = true) :=
  ⟨⟨readyFlash 1 [(31 * 2 ^ 20, { used := 1 })], ⟨rfl, rfl⟩, (by decide +kernel), 31, 0, false, (by decide +kernel), (by decide +kernel), (by decide +kernel), rfl⟩,
   ⟨readyFlash 1 [(31 * 2 ^ 20, { used := 1 })], ⟨rfl, rfl⟩, (by decide +kernel), 31, 0, true, (by decide +kernel), (by decide +kernel), (by decide +kernel), rfl⟩,
   ⟨readyFlash 2 [(0, { used := 1 }), (1, { erases := 300 })], ⟨rfl, rfl⟩, (by decide +kernel), 0, 0, (by decide +kernel), (by decide +kernel), (by decide +kernel)⟩,
   ⟨nandState (2 ^ 40), ⟨rfl, rfl⟩, (by decide +kernel), 5, false, (by decide +kernel), (by decide +kernel), (by decide +kernel)⟩,
   ⟨nandState 0, ⟨rfl, rfl⟩, (by decide +kernel), 5, true, (by decide +kernel), (by decide +kernel), rfl⟩,
   ⟨nandState 0, ⟨rfl, rfl⟩, (by decide +kernel), 5, false, (by decide +kernel), (by decide +kernel), rfl, (by decide +kernel)⟩⟩

theorem witness_PacerTimersComplete :
  (∃ (s : State) (q : BitVec 2) (k : BitVec 3), s.Ready ∧
    let x := s.stream q.toNat k.toNat
    x.state = .running ∧ x.nextFetch < x.head + x.lead ∧ x.inflight.length < s.maxInflight q.toNat ∧ x.beyond
      x.nextFetch = false) ∧
  (∃ (s : State) (q : BitVec 2) (k : BitVec 3), s.Ready ∧
    let x := s.stream q.toNat k.toNat
    ∃ t, (x.state = .running ∨ x.state = .draining) ∧ x.inflight.contains (t, 0) = true) ∧
  (∃ (s : State) (q : BitVec 2) (k : BitVec 3), s.Ready ∧
    let x := s.stream q.toNat k.toNat
    (x.state = .draining ∧ x.inflight = [] ∧ x.beyond x.head = true ∨ x.state = .ending ∧ (x.inflight.all fun e =>
      e.2 = 0) = true)) ∧
  (∃ (s : State) (id : Nat) (e : Eng),
    let q := e.quad
    let k := e.queue
    let op (i : Nat) : Opnd := e.opnds.getD i ⟨0, 0, false, false⟩
    (s.stream q k).state = .idle ∧ ((s.starts q k).any (· < id)) = false ∧ s.stageOk q (op 2).gfa (op 2).len = false)
      ∧
  (∃ (s : State) (id : Nat) (e : Eng),
    let q := e.quad
    let k := e.queue
    let op (i : Nat) : Opnd := e.opnds.getD i ⟨0, 0, false, false⟩
    (s.stream q k).state = .idle ∧ ((s.starts q k).any (· < id)) = false ∧ ∃ (t : State) (b : List Byte) (bad :
      Bool), s.stageOk q (op 2).gfa (op 2).len = true ∧ s.engRead id (op 0).gfa (op 0).len = (t, some (b, bad)) ∧ bad
      = true) ∧
  (∃ (s : State) (id : Nat) (e : Eng),
    let q := e.quad
    let k := e.queue
    let op (i : Nat) : Opnd := e.opnds.getD i ⟨0, 0, false, false⟩
    (s.stream q k).state = .idle ∧ ((s.starts q k).any (· < id)) = false ∧ ∃ (t : State) (b : List Byte) (bad :
      Bool), s.stageOk q (op 2).gfa (op 2).len = true ∧ s.engRead id (op 0).gfa (op 0).len = (t, some (b, bad)) ∧
    let es := schedEntries ((op 0).len / 16) b
    let odd := es.any fun x => (op 1).len < field x 0 8 + field x 8 4 * 65536 || field x 0 8 % 65536 != 0 || field x
      8 4 = 0 || 2 ≤ field x 14 1 || !zeroAt x 15 1
    bad = false ∧ odd = true) ∧
  (∃ (s : State) (id : Nat) (e : Eng),
    let q := e.quad
    let k := e.queue
    let op (i : Nat) : Opnd := e.opnds.getD i ⟨0, 0, false, false⟩
    (s.stream q k).state = .idle ∧ ((s.starts q k).any (· < id)) = false ∧ ∃ (t : State) (b : List Byte) (bad :
      Bool), s.stageOk q (op 2).gfa (op 2).len = true ∧ s.engRead id (op 0).gfa (op 0).len = (t, some (b, bad)) ∧
    let es := schedEntries ((op 0).len / 16) b
    let odd := es.any fun x => (op 1).len < field x 0 8 + field x 8 4 * 65536 || field x 0 8 % 65536 != 0 || field x
      8 4 = 0 || 2 ≤ field x 14 1 || !zeroAt x 15 1
    bad = false ∧ odd = false) ∧
  (∃ (s : State) (id : Nat) (e : Eng),
    let q := e.quad
    let k := e.queue
    e.phase ≠ .stream ∧ (s.stream q k).state = .idle) ∧
  (∃ (s : State) (id : Nat) (e : Eng),
    let q := e.quad
    let k := e.queue
    e.phase ≠ .stream ∧ (s.stream q k).state ≠ .idle) ∧
  (∃ (s : State) (id : Nat) (e : Eng),
    let op (i : Nat) : Opnd := e.opnds.getD i ⟨0, 0, false, false⟩
    e.waits = 0 ∧ overlaps (op 0).gfa (op 0).len (op 1).gfa (op 1).len = true) ∧
  (∃ (s : State) (id : Nat) (e : Eng),
    let op (i : Nat) : Opnd := e.opnds.getD i ⟨0, 0, false, false⟩
    e.waits = 0 ∧
    let n := field e.body 4 4
    ∃ i pz, overlaps (op 0).gfa (op 0).len (op 1).gfa (op 1).len = false ∧ e.phase = .move i pz ∧ n ≤ i) ∧
  (∃ (s : State) (id : Nat) (e : Eng),
    let op (i : Nat) : Opnd := e.opnds.getD i ⟨0, 0, false, false⟩
    e.waits = 0 ∧
    let n := field e.body 4 4
    ∃ i pz, overlaps (op 0).gfa (op 0).len (op 1).gfa (op 1).len = false ∧ e.phase = .move i pz ∧ i < n ∧ e.issued =
      true) ∧
  (∃ (s : State) (id : Nat) (e : Eng), s.flash.state ≠ .ready) ∧
  (∃ (s : State) (id : Nat) (e : Eng), s.flash.state = .ready ∧ (∀ x, s.flash.syncs.find? (·.1 = id) = some x → x.2 =
    [])) ∧
  (∃ (s : State) (id : Nat) (e : Eng), ∃ x, s.flash.state = .ready ∧ s.flash.syncs.find? (·.1 = id) = some x ∧ x.2 ≠
    []) :=
  ⟨⟨{ live with pace := [(31, { state := .running, lead := 1 })] }, 3, 7, ⟨rfl, rfl⟩, (by decide +kernel), (by decide +kernel), (by decide +kernel), (by decide +kernel)⟩,
   ⟨{ live with pace := [(31, { state := .running, inflight := [(4, 0)] })] }, 3, 7, ⟨rfl, rfl⟩, 4, (by decide +kernel), (by decide +kernel)⟩,
   ⟨{ live with pace := [(31, { state := .ending })] }, 3, 7, ⟨rfl, rfl⟩, (by decide +kernel)⟩,
   ⟨live, 7, paceStart (zeros 16), (by decide +kernel), (by decide +kernel), (by decide +kernel)⟩,
   ⟨staging (paceStart (zeros 16) 1), 7, paceStart (zeros 16) 1, (by decide +kernel), (by decide +kernel), _, zeros 16, true, (by decide +kernel), fst_eq (by decide +kernel), rfl⟩,
   ⟨staging (paceStart (zeros 16)), 7, paceStart (zeros 16), (by decide +kernel), (by decide +kernel), _, zeros 16, false, (by decide +kernel), fst_eq (by decide +kernel), rfl, (by decide +kernel)⟩,
   ⟨staging (paceStart (zeros 8 ++ [1] ++ zeros 7)), 7, paceStart (zeros 8 ++ [1] ++ zeros 7), (by decide +kernel), (by decide +kernel), _, zeros 8 ++ [1] ++ zeros 7, false, (by decide +kernel), fst_eq (by decide +kernel), rfl, (by decide +kernel)⟩,
   ⟨live, 7, engine 5 2, nofun, (by decide +kernel)⟩,
   ⟨{ live with pace := [(31, { state := .running })] }, 7, { engine 5 2 with queue := 7, quad := 3 }, nofun, (by decide +kernel)⟩,
   ⟨live, 7, { tileMove 0 false with opnds := [⟨0, 1, true, true⟩, ⟨0, 1, true, true⟩] }, rfl, (by decide +kernel)⟩,
   ⟨live, 7, tileMove 1 false, rfl, 1, false, (by decide +kernel), rfl, (by decide +kernel)⟩,
   ⟨live, 7, tileMove 0 true, rfl, 0, false, (by decide +kernel), rfl, (by decide +kernel), rfl⟩,
   ⟨live, 7, engine 5 0xF0, (by decide +kernel)⟩,
   ⟨syncing [], 7, engine 5 0xF0, rfl, nofun⟩,
   ⟨syncing [(7, [1])], 7, engine 5 0xF0, (7, [1]), rfl, rfl, (by decide +kernel)⟩⟩

theorem witness_TensorRowsComplete :
  (∃ (s : State) (q : BitVec 2) (k : BitVec 4) (row : BitVec 2 → BitVec 4 → Instr) (op id : Nat) (p : TeProg), s.Ready
    ∧ (row, op) ∈ [(Instr.teLoad, 1), (Instr.teMatmul, 2), (Instr.teAttend, 3), (Instr.teNorm, 4), (Instr.teAcc, 5),
    (Instr.teStore, 6)] ∧ s.nextEntry q.toNat k.toNat op = some (id, p)) ∧
  (∃ (s : State) (q : BitVec 2) (k : BitVec 4), s.Ready ∧ ∃ id p e slot, ((s.programs q.toNat).filter (fun x =>
    x.2.slot.isSome && !x.2.entries.isEmpty && !x.2.busy && decide (max 1 (bits (s.quad q.toNat .teCfg) 31 16) * 1000
    ≤ s.now - x.2.since)) = [(id, p)]) ∧ s.saveOn q.toNat = true ∧ (((s.programs q.toNat).any fun x =>
    x.2.slot.isNone) = true) ∧ s.eng id = some e ∧ p.slot = some slot) ∧
  (∃ (s : State) (q : BitVec 2) (k : BitVec 4), s.Ready ∧ ∃ c e, s.unitCmds 1 q.toNat = [c] ∧ c.body = .eng e ∧
    e.queue = k.toNat ∧
    ((match e.prog? with | some p => p.rowWait.any fun r => max 1 (bits (s.hub .sqCfg) 47 32) * 100000 ≤ s.now - r.2 | none => false)
    = true)) ∧
  (∃ (s : State) (q : BitVec 2) (k : BitVec 4), s.Ready ∧ ∃ id e t, s.eng id = some e ∧ ((e.prog?.bind fun p =>
    p.waitSince) = some t) ∧ s.lateTo e.quad ≤ s.now - t) ∧
  (∃ (s t : State) (id : Nat) (e : Eng) (b : List Byte) (bad : Bool), s.engRead id (e.opnds.getD (field e.body 2 1)
    ⟨0, 0, false, false⟩).gfa (64 * field e.body 4 2) = (t, some (b, bad)) ∧ bad = true) ∧
  (∃ (s t : State) (id : Nat) (e : Eng) (b : List Byte) (bad : Bool), s.engRead id (e.opnds.getD (field e.body 2 1)
    ⟨0, 0, false, false⟩).gfa (64 * field e.body 4 2) = (t, some (b, bad)) ∧ bad = false ∧
    let es := programEntries (field e.body 4 2) b
    (∀ x ∈ es, entCheck e x = stOk)) ∧
  (∃ (s t : State) (id : Nat) (e : Eng) (b : List Byte) (bad : Bool), s.engRead id (e.opnds.getD (field e.body 2 1)
    ⟨0, 0, false, false⟩).gfa (64 * field e.body 4 2) = (t, some (b, bad)) ∧ bad = false ∧
    let es := programEntries (field e.body 4 2) b
    ∃ (i : Nat) (x : List Byte), es[i]? = some x ∧ entCheck e x ≠ stOk ∧ (∀ j y, j < i → es[j]? = some y → entCheck e
      y = stOk)) :=
  ⟨⟨working [engCmd (engine 1 1 (.te { entries := [[1]], slot := some 0 }))], 0, 0, .teLoad, 1, 7, { entries := [[1]], slot := some 0 }, ⟨rfl, rfl⟩, by simp, (by decide +kernel)⟩,
   ⟨working [engCmd (engine 1 1 (.te { entries := [[1]], slot := some 0 })), engCmd (engine 1 1 (.te { entries := [[1]] })) 8], 0, 0, ⟨rfl, rfl⟩, 7, { entries := [[1]], slot := some 0 }, engine 1 1 (.te { entries := [[1]], slot := some 0 }), 0, (by decide +kernel), (by decide +kernel), (by decide +kernel), (by decide +kernel), rfl⟩,
   ⟨working [engCmd (engine 1 1 (.te { rowWait := [(0, 0)] }))], 0, 0, ⟨rfl, rfl⟩, engCmd (engine 1 1 (.te { rowWait := [(0, 0)] })), engine 1 1 (.te { rowWait := [(0, 0)] }), (by decide +kernel), rfl, rfl, (by decide +kernel)⟩,
   ⟨working [engCmd (engine 1 1 (.te { waitSince := some 0 }))], 0, 0, ⟨rfl, rfl⟩, 7, engine 1 1 (.te { waitSince := some 0 }), 0, (by decide +kernel), (by decide +kernel), (by decide +kernel)⟩,
   ⟨working [engCmd (teRun [] 1)], _, 7, teRun [] 1, zeros 64, true, fst_eq (by decide +kernel), rfl⟩,
   ⟨working [engCmd (teRun accEntry)], _, 7, teRun accEntry, accEntry, false, fst_eq (by decide +kernel), rfl, (by decide +kernel)⟩,
   ⟨working [engCmd (teRun [])], _, 7, teRun [], zeros 64, false, fst_eq (by decide +kernel), rfl, 0, zeros 64, (by decide +kernel), (by decide +kernel), fun j _ h => absurd h (Nat.not_lt_zero j)⟩⟩

theorem witness_SequenceCommandsAct :
  (∃ (s : State) (id : Nat) (c : Cmd) (e : Eng), s.findCmd id = some c ∧ e.phase ≠ .lane ∧
    let l := 64 * e.quad + e.queue
    s.seqConds l c e ≠ []) ∧
  (∃ (s : State) (id : Nat) (c : Cmd) (e : Eng), s.findCmd id = some c ∧ e.phase ≠ .lane ∧
    let l := 64 * e.quad + e.queue
    s.seqConds l c e = [] ∧ (e.op = 1 ∨ e.op = 2)) ∧
  (∃ (s : State) (id : Nat) (c : Cmd) (e : Eng), s.findCmd id = some c ∧ e.phase ≠ .lane ∧
    let l := 64 * e.quad + e.queue
    s.seqConds l c e = [] ∧ e.op = 3) ∧
  (∃ (s : State) (id : Nat) (c : Cmd) (e : Eng), s.findCmd id = some c ∧ e.phase ≠ .lane ∧
    let l := 64 * e.quad + e.queue
    s.seqConds l c e = [] ∧ e.op = 4) ∧
  (∃ (s : State) (id : Nat) (c : Cmd) (e : Eng), s.findCmd id = some c ∧ e.phase ≠ .lane ∧
    let l := 64 * e.quad + e.queue
    let x := s.lane l
    s.seqConds l c e = [] ∧ e.op = 5 ∧ (x.state = .held ∨ x.state = .released)) ∧
  (∃ (s : State) (id : Nat) (c : Cmd) (e : Eng), s.findCmd id = some c ∧ e.phase ≠ .lane ∧
    let l := 64 * e.quad + e.queue
    let x := s.lane l
    s.seqConds l c e = [] ∧ e.op = 5 ∧ (x.state = .offered ∨ x.state = .taken)) ∧
  (∃ (s : State) (id : Nat) (c : Cmd) (e : Eng), s.findCmd id = some c ∧ e.phase ≠ .lane ∧
    let l := 64 * e.quad + e.queue
    s.seqConds l c e = [] ∧ e.op = 6) :=
  ⟨⟨laneState {  } [engCmd (engine 2 3)], 7, engCmd (engine 2 3), engine 2 3, (by decide +kernel), nofun, (by decide +kernel)⟩,
   ⟨laneState {  } [engCmd (engine 2 1)], 7, engCmd (engine 2 1), engine 2 1, (by decide +kernel), nofun, (by decide +kernel), (by decide +kernel)⟩,
   ⟨laneState { state := .held } [engCmd (engine 2 3)], 7, engCmd (engine 2 3), engine 2 3, (by decide +kernel), nofun, (by decide +kernel), rfl⟩,
   ⟨laneState { state := .held } [engCmd (engine 2 4)], 7, engCmd (engine 2 4), engine 2 4, (by decide +kernel), nofun, (by decide +kernel), rfl⟩,
   ⟨laneState { state := .released } [engCmd (engine 2 5)], 7, engCmd (engine 2 5), engine 2 5, (by decide +kernel), nofun, (by decide +kernel), rfl, (by decide +kernel)⟩,
   ⟨laneState { state := .taken } [engCmd (engine 2 5)], 7, engCmd (engine 2 5), engine 2 5, (by decide +kernel), nofun, (by decide +kernel), rfl, (by decide +kernel)⟩,
   ⟨laneState { state := .armed } [engCmd (engine 2 6)], 7, engCmd (engine 2 6), engine 2 6, (by decide +kernel), nofun, (by decide +kernel), rfl⟩⟩

theorem witness_LaneTimersComplete :
  (∃ (s : State) (l : BitVec 8), s.Ready ∧
    let x := s.lane l.toNat
    s.reaches { reg := .sqLaneCtl, inst := l.toNat / 64, i := l.toNat % 64 } = true ∧ (x.state = .held ∨ x.state =
      .offered ∨ x.state = .taken)) ∧
  (∃ (s : State) (l : BitVec 8), s.Ready ∧
    let x := s.lane l.toNat
    x.state = .offered ∧ x.offerOk = true ∧ x.sent < x.imageBytes ∧ s.laneShut x = true) ∧
  (∃ (s : State) (l : BitVec 8), s.Ready ∧
    let x := s.lane l.toNat
    x.state = .offered ∧ x.offerOk = true ∧ x.sent < x.imageBytes ∧
    let n := min 4096 (x.imageBytes - x.sent)
    let r := s.readRuns (s.imageRuns x x.sent n)
    s.laneShut x = false ∧ r.2.2 = false) ∧
  (∃ (s : State) (l : BitVec 8), s.Ready ∧
    let x := s.lane l.toNat
    x.state = .offered ∧ x.offerOk = true ∧ x.sent < x.imageBytes ∧
    let n := min 4096 (x.imageBytes - x.sent)
    let r := s.readRuns (s.imageRuns x x.sent n)
    s.laneShut x = false ∧ r.2.2 = true) ∧
  (∃ (s : State) (l : BitVec 8), s.Ready ∧
    let x := s.lane l.toNat
    s.batonTo ≤ s.now - x.since ∧ x.state = .receiving) ∧
  (∃ (s : State) (l : BitVec 8), s.Ready ∧
    let x := s.lane l.toNat
    s.batonTo ≤ s.now - x.since ∧ (x.state = .taken ∨ x.state = .offered ∧ x.querying = true)) :=
  ⟨⟨withLane { state := .held }, 0, ⟨rfl, rfl⟩, (by decide +kernel), (by decide +kernel)⟩,
   ⟨{ laneState { state := .offered, config := laneConfig, cap := 1, offLen := 1, offerOk := true } [] with ext := {} }, 0, ⟨rfl, rfl⟩, (by decide +kernel), (by decide +kernel), (by decide +kernel), (by decide +kernel)⟩,
   ⟨laneState { state := .offered, config := laneConfig, cap := 1, offLen := 1, offerOk := true } [], 0, ⟨rfl, rfl⟩, (by decide +kernel), (by decide +kernel), (by decide +kernel), (by decide +kernel), (by decide +kernel)⟩,
   ⟨{ laneState { state := .offered, config := laneConfig, cap := 1, offLen := 1, offerOk := true } [] with mem := { poison := [0] } }, 0, ⟨rfl, rfl⟩, (by decide +kernel), (by decide +kernel), (by decide +kernel), (by decide +kernel), (by decide +kernel)⟩,
   ⟨laneState receivingLane [], 0, ⟨rfl, rfl⟩, (by decide +kernel), (by decide +kernel)⟩,
   ⟨laneState { state := .taken } [], 0, ⟨rfl, rfl⟩, (by decide +kernel), (by decide +kernel)⟩⟩

theorem witness_ServiceExtentWrites :
  (∃ (s : State) (q : BitVec 2) (v : Word), s.Ready ∧
    let se : RegAt := { reg := .seCfg, inst := q.toNat }
    s.reaches se = true ∧ s.threadsBusy q.toNat = 0) ∧
  (∃ (s : State) (q : BitVec 2) (v : Word), s.Ready ∧
    let se : RegAt := { reg := .seCfg, inst := q.toNat }
    s.reaches se = true ∧ s.threadsBusy q.toNat ≠ 0) ∧
  (∃ (s : State) (q : BitVec 2) (v : Word), s.Ready ∧
    let gu : RegAt := { reg := .guCfg, inst := q.toNat }
    s.reaches gu = true) ∧
  (∃ (s : State) (q : BitVec 2) (v : Word), s.Ready ∧
    let sv : RegAt := { reg := .qdCtxCfg, inst := q.toNat }
    s.reaches sv = true) :=
  ⟨⟨live, 3, 0, ⟨rfl, rfl⟩, (by decide +kernel), (by decide +kernel)⟩,
   ⟨working [engCmd (engine 3 1 (.thread [0, 0, 0, 0]))], 0, 0, ⟨rfl, rfl⟩, (by decide +kernel), (by decide +kernel)⟩,
   ⟨live, 3, 0, ⟨rfl, rfl⟩, (by decide +kernel)⟩,
   ⟨live, 3, 0, ⟨rfl, rfl⟩, (by decide +kernel)⟩⟩

theorem witness_UnitControlActs :
  (∃ (s : State) (unit : BitVec 3) (q : BitVec 2) (v : Word), s.Ready ∧ unit = 0) ∧
  (∃ (s : State) (unit : BitVec 3) (q : BitVec 2) (v : Word), s.Ready ∧ unit ≠ 0 ∧
    let u := unit.toNat
    let k := q.toNat
    let a := engCtl u k
    let x := s.unit u k
    s.reaches a = true ∧ x.state = .enabled ∧ s.unitCmds u k ≠ []) ∧
  (∃ (s : State) (unit : BitVec 3) (q : BitVec 2) (v : Word), s.Ready ∧ unit ≠ 0 ∧
    let u := unit.toNat
    let k := q.toNat
    let a := engCtl u k
    let x := s.unit u k
    s.reaches a = true ∧ x.state = .enabled ∧ s.unitCmds u k = [] ∧ twf {} s.units) ∧
  (∃ (s : State) (unit : BitVec 3) (q : BitVec 2) (v : Word), s.Ready ∧ unit ≠ 0 ∧
    let u := unit.toNat
    let k := q.toNat
    let a := engCtl u k
    let x := s.unit u k
    s.reaches a = true ∧ (x.state = .enabled ∨ x.state = .quiescing) ∧ s.unitCmds u k ≠ []) ∧
  (∃ (s : State) (unit : BitVec 3) (q : BitVec 2) (v : Word), s.Ready ∧ unit ≠ 0 ∧
    let u := unit.toNat
    let k := q.toNat
    let a := engCtl u k
    let x := s.unit u k
    s.reaches a = true ∧ (x.state = .enabled ∨ x.state = .quiescing) ∧ s.unitCmds u k = [] ∧ twf {} s.units) ∧
  (∃ (s : State) (unit : BitVec 3) (q : BitVec 2) (v : Word), s.Ready ∧ unit ≠ 0 ∧
    let u := unit.toNat
    let k := q.toNat
    let a := engCtl u k
    let x := s.unit u k
    s.reaches a = true ∧ x.state ≠ .enabled ∧ x.state ≠ .quiescing) ∧
  (∃ (s : State) (unit : BitVec 3) (q : BitVec 2) (v : Word), s.Ready ∧ unit ≠ 0 ∧
    let u := unit.toNat
    let k := q.toNat
    let a := engCtl u k
    let x := s.unit u k
    s.reaches a = true ∧ x.state = .disabled) ∧
  (∃ (s : State) (unit : BitVec 3) (q : BitVec 2) (v : Word), s.Ready ∧ unit ≠ 0 ∧
    let u := unit.toNat
    let k := q.toNat
    let a := engCtl u k
    let x := s.unit u k
    s.reaches a = true ∧ x.state ≠ .disabled) ∧
  (∃ (s : State) (unit : BitVec 3) (q : BitVec 2) (v : Word), s.Ready ∧ unit ≠ 0 ∧
    let u := unit.toNat
    let k := q.toNat
    let x := s.unit u k
    x.state = .quiescing ∧ s.quiesceTo u k ≤ s.now - x.since ∧ s.unitCmds u k ≠ []) ∧
  (∃ (s : State) (unit : BitVec 3) (q : BitVec 2) (v : Word), s.Ready ∧ unit ≠ 0 ∧
    let u := unit.toNat
    let k := q.toNat
    let x := s.unit u k
    (x.state = .quiescing ∨ x.state = .killing) ∧ s.unitCmds u k = [] ∧ twf {} s.units) :=
  ⟨⟨live, 0, 0, 0, ⟨rfl, rfl⟩, (by decide +kernel)⟩,
   ⟨working [engCmd (engine 1 1)], 1, 0, 0, ⟨rfl, rfl⟩, (by decide +kernel), (by decide +kernel), (by decide +kernel), (by decide +kernel)⟩,
   ⟨live, 7, 3, 0, ⟨rfl, rfl⟩, (by decide +kernel), (by decide +kernel), (by decide +kernel), (by decide +kernel), (by decide +kernel)⟩,
   ⟨unitState .quiescing [engCmd (engine 1 1)], 1, 0, 0, ⟨rfl, rfl⟩, (by decide +kernel), (by decide +kernel), (by decide +kernel), (by decide +kernel)⟩,
   ⟨live, 7, 3, 0, ⟨rfl, rfl⟩, (by decide +kernel), (by decide +kernel), (by decide +kernel), (by decide +kernel), (by decide +kernel)⟩,
   ⟨unitState .disabled [], 1, 0, 0, ⟨rfl, rfl⟩, (by decide +kernel), (by decide +kernel), (by decide +kernel), (by decide +kernel)⟩,
   ⟨unitState .disabled [], 1, 0, 0, ⟨rfl, rfl⟩, (by decide +kernel), (by decide +kernel), (by decide +kernel)⟩,
   ⟨live, 1, 0, 0, ⟨rfl, rfl⟩, (by decide +kernel), (by decide +kernel), (by decide +kernel)⟩,
   ⟨unitState .quiescing [engCmd (engine 1 1)], 1, 0, 0, ⟨rfl, rfl⟩, (by decide +kernel), (by decide +kernel), (by decide +kernel), (by decide +kernel)⟩,
   ⟨unitState .killing [], 1, 0, 0, ⟨rfl, rfl⟩, (by decide +kernel), (by decide +kernel), (by decide +kernel), (by decide +kernel)⟩⟩

theorem witness_UnitTimersComplete :
  (∃ (s : State), s.Ready ∧ ∃ (q : BitVec 2) (n : _) (id : _), s.threadless q.toNat = [(n, id)] ∧ s.threadsBusy q.toNat
    < s.threads q.toNat) ∧
  (∃ (s : State), s.Ready ∧ ∃ (id : _) (k : Nat) (e : Eng) (r : _) (p : SentPart) (t : _) (b : Nat), s.eng id = some
    e ∧ e.gu? = some r ∧ r.parts[k]? = some p ∧ p.backoff = some (t, b) ∧ b ≤ 2 * (s.now - t) ∧ s.stopping id =
    false) ∧
  (∃ (s : State), s.Ready ∧ ∃ id h, s.heat id = some h ∧ (∀ i e r, s.groupCmd h.group = some (i, e, r) → e.round ≠
    h.round) ∧ s.relayTo h.group ≤ s.now - h.since) ∧
  (∃ (s : State), s.Ready ∧ ∃ (g : BitVec 6) (id : _) (e : Eng) (r : _), s.groupCmd g.toNat = some (id, e, r) ∧ e.op
    = 2 ∧ e.det = true ∧ r.ownDone = true ∧ r.applying = false ∧ r.refused = none ∧ s.allParts g.toNat r = true) ∧
  (∃ (s : State), s.Ready ∧ ∃ (id : _) (e : Eng), s.eng id = some e ∧ e.unit = 4 ∧ e.started = true ∧ e.relay = true
    ∧ isCommon e.op = false ∧ s.relayTo e.grp ≤ s.now - e.since) ∧
  (∃ (s : State), s.Ready ∧ ∃ id w, ((s.hdl.watches.find? fun w => w.to_ = .cmd id) = some w) ∧ w.timeout ≠ 0 ∧
    w.timeout ≤ s.now - w.since) ∧
  (∃ (s : State), s.Ready ∧ ∃ (tag : _) (t : _) (r : _) (id : _) (e : Eng), (s.xp.reqs.find? (·.1 = tag)) = some (t,
    r) ∧ r.kind = .hdlPeer id ∧ s.eng id = some e ∧ (¬ (e.op = 5 ∧ field e.body 28 4 = 0)) ∧ field e.body 28 4 * 1000
    + s.borrowTo ≤ s.now - r.since) ∧
  (∃ (s : State), s.Ready ∧ ∃ (q : BitVec 2) (l : _) (x : _), s.ecFind q.toNat l = some x ∧
    let u := s.ecWriteBack q.toNat l true
    u.ecHeld q.toNat l = false) ∧
  (∃ (s : State), s.Ready ∧ ∃ (q : BitVec 2) (l : _) (x : _), s.ecFind q.toNat l = some x ∧
    let u := s.ecWriteBack q.toNat l true
    u.ecHeld q.toNat l = true) ∧
  (∃ (s : State), s.Ready ∧ ∃ (q : BitVec 2) (l : _) (x : _), s.ecFind q.toNat l = some x ∧ x.dirty = 0) ∧
  (∃ (s : State) (id : Nat) (e f : Eng),
    let whole := field e.body 1 1 % 2 = 1
    let o := e.opnds.getD 0 ⟨0, 0, false, false⟩
    let u := if e.issued then s else s.flushRange e.quad whole o.gfa o.len fun s ids => s.setEng id fun e =>
      { e with issued := true, phase := .cache (ids ++ e.awaited) }
    u.eng id = some f ∧ (∃ i ∈ f.awaited, u.findCmd i ≠ none)) ∧
  (∃ (s : State) (id : Nat) (e f : Eng),
    let whole := field e.body 1 1 % 2 = 1
    let o := e.opnds.getD 0 ⟨0, 0, false, false⟩
    let u := if e.issued then s else s.flushRange e.quad whole o.gfa o.len fun s ids => s.setEng id fun e =>
      { e with issued := true, phase := .cache (ids ++ e.awaited) }
    u.eng id = some f ∧ (∀ i ∈ f.awaited, u.findCmd i = none) ∧ f.op ≠ 0xF1) ∧
  (∃ (s : State) (id : Nat) (e f : Eng),
    let whole := field e.body 1 1 % 2 = 1
    let o := e.opnds.getD 0 ⟨0, 0, false, false⟩
    let u := if e.issued then s else s.flushRange e.quad whole o.gfa o.len fun s ids => s.setEng id fun e =>
      { e with issued := true, phase := .cache (ids ++ e.awaited) }
    u.eng id = some f ∧ (∀ i ∈ f.awaited, u.findCmd i = none) ∧ f.op = 0xF1) ∧
  (∃ (s : State) (id : Nat) (e : Eng), e.phase = .none ∧
    let conds := (s.indexBind e).2 ++ (if s.scratchOn e.quad then [] else [stUnsupported])
    conds ≠ []) ∧
  (∃ (s : State) (id : Nat) (e : Eng), e.phase = .none ∧
    let conds := (s.indexBind e).2 ++ (if s.scratchOn e.quad then [] else [stUnsupported])
    conds = [] ∧ s.threadless e.quad = [] ∧ s.threadsBusy e.quad < s.threads e.quad) ∧
  (∃ (s : State) (id : Nat) (e : Eng), e.phase = .none ∧
    let conds := (s.indexBind e).2 ++ (if s.scratchOn e.quad then [] else [stUnsupported])
    conds = [] ∧ (s.threadless e.quad ≠ [] ∨ s.threads e.quad ≤ s.threadsBusy e.quad)) ∧
  (∃ (s : State) (id : Nat) (c : Cmd) (e : Eng), s.findCmd id = some c ∧ e.gu? = none ∧ (e.relay = false ∨ (s.group
    e.grp).active = none) ∧ gfaDev e.tabGfa ≠ s.ownId) ∧
  (∃ (s : State) (id : Nat) (c : Cmd) (e : Eng), s.findCmd id = some c ∧ e.gu? = none ∧ (e.relay = false ∨ (s.group
    e.grp).active = none) ∧ ∃ (t : State) (h : List Byte) (bad : Bool), gfaDev e.tabGfa = s.ownId ∧ s.engRead id
    e.tabGfa 64 = (t, some (h, bad))) ∧
  (∃ (s : State) (id : Nat) (c : Cmd) (e : Eng), s.findCmd id = some c ∧ e.gu? = none ∧ e.relay = true ∧ (s.group
    e.grp).active ≠ none) ∧
  (∃ (s : State) (id : Nat) (c : Cmd) (e : Eng), s.findCmd id = some c ∧ ∃ (r : GuRun) (t : State) (b : List Byte)
    (bad : Bool), e.gu? = some r ∧ r.idx = none ∧ s.engRead id (e.opnds.getD 1 ⟨0, 0, false, false⟩).gfa (4 *
    e.batch) = (t, some (b, bad)) ∧ bad = true) ∧
  (∃ (s : State) (id : Nat) (c : Cmd) (e : Eng), s.findCmd id = some c ∧ ∃ (r : GuRun) (t : State) (b : List Byte)
    (bad : Bool), e.gu? = some r ∧ r.idx = none ∧ s.engRead id (e.opnds.getD 1 ⟨0, 0, false, false⟩).gfa (4 *
    e.batch) = (t, some (b, bad)) ∧
    let idx := (List.range e.batch).map fun i => field b (4 * i) 4
    let padding (i : Nat) : Bool := e.pad && i = 0xFFFFFFFF
    bad = false ∧ (∃ i ∈ idx, (tabOf r.hdr).rows ≤ i ∧ padding i = false)) ∧
  (∃ (s : State) (id : Nat) (c : Cmd) (e : Eng), s.findCmd id = some c ∧ ∃ (r : GuRun) (t : State) (b : List Byte)
    (bad : Bool), e.gu? = some r ∧ r.idx = none ∧ s.engRead id (e.opnds.getD 1 ⟨0, 0, false, false⟩).gfa (4 *
    e.batch) = (t, some (b, bad)) ∧
    let idx := (List.range e.batch).map fun i => field b (4 * i) 4
    let padding (i : Nat) : Bool := e.pad && i = 0xFFFFFFFF
    bad = false ∧ (∀ i ∈ idx, i < (tabOf r.hdr).rows ∨ padding i = true)) :=
  ⟨⟨regs (working [engCmd (engine 3 1 (.noThread 0))]) [({ reg := .seCfg }, 0x1000), ({ reg := .hubExtLen }, 0x20000)], ⟨rfl, rfl⟩, 0, 0, 7, (by decide +kernel), (by decide +kernel)⟩,
   ⟨working [engCmd (engine 4 2 (.gu { parts := [{ owner := 0, payload := [], pos := 0, n := 0, backoff := some (0, 1) }] }))], ⟨rfl, rfl⟩, 7, 0, engine 4 2 (.gu { parts := [{ owner := 0, payload := [], pos := 0, n := 0, backoff := some (0, 1) }] }), { parts := [{ owner := 0, payload := [], pos := 0, n := 0, backoff := some (0, 1) }] }, { owner := 0, payload := [], pos := 0, n := 0, backoff := some (0, 1) }, 0, 1, (by decide +kernel), (by decide +kernel), (by decide +kernel), (by decide +kernel), (by decide +kernel), (by decide +kernel)⟩,
   ⟨working [{ id := 7, src := .hurdle, body := .heat { group := 0, src := 0, quad := 0, payload := [], since := 0 } }], ⟨rfl, rfl⟩, 7, { group := 0, src := 0, quad := 0, payload := [], since := 0 }, (by decide +kernel), (fun i e r h => absurd (h.symm.trans (show _ = none by decide +kernel)) nofun), (by decide +kernel)⟩,
   ⟨{ working [engCmd (scatter { ownDone := true })] with gu := { groups := [(0, { active := some 7 })] } }, ⟨rfl, rfl⟩, 0, 7, scatter { ownDone := true }, { ownDone := true }, (by decide +kernel), (by decide +kernel), (by decide +kernel), (by decide +kernel), (by decide +kernel), (by decide +kernel), (by decide +kernel)⟩,
   ⟨working [engCmd (scatter { ownDone := true })], ⟨rfl, rfl⟩, 7, scatter { ownDone := true }, (by decide +kernel), (by decide +kernel), (by decide +kernel), (by decide +kernel), (by decide +kernel), (by decide +kernel)⟩,
   ⟨{ live with now := 1, hdl := { watches := [{ n := 0, hurdle := 0, cond := 0, target := 0, to_ := .cmd 9, tenant := 0, since := 0, timeout := 1 }] } }, ⟨rfl, rfl⟩, 9, { n := 0, hurdle := 0, cond := 0, target := 0, to_ := .cmd 9, tenant := 0, since := 0, timeout := 1 }, (by decide +kernel), (by decide +kernel), (by decide +kernel)⟩,
   ⟨{ requested (.hdlPeer 7) with cmds := [engCmd (engine 7 3)] }, ⟨rfl, rfl⟩, 3, 3, _, 7, engine 7 3, rfl, rfl, (by decide +kernel), (by decide +kernel), (by decide +kernel)⟩,
   ⟨{ live with cache := { ec := [((0, 5), { data := [], valid := 0, dirty := 0, poison := 0 })] } }, ⟨rfl, rfl⟩, 0, 5, { data := [], valid := 0, dirty := 0, poison := 0 }, (by decide +kernel), (by decide +kernel)⟩,
   ⟨dirtyLine, ⟨rfl, rfl⟩, 0, 5 * 2 ^ 40, { data := [], valid := 0, dirty := 1, poison := 0 }, (by decide +kernel), (by decide +kernel)⟩,
   ⟨{ live with cache := { ec := [((0, 5), { data := [], valid := 0, dirty := 0, poison := 0 })] } }, ⟨rfl, rfl⟩, 0, 5, { data := [], valid := 0, dirty := 0, poison := 0 }, (by decide +kernel), (by decide +kernel)⟩,
   ⟨working [engCmd (flushing 0xF0 [7])], 7, flushing 0xF0 [7], flushing 0xF0 [7], (by decide +kernel), 7, (by decide +kernel), (by decide +kernel)⟩,
   ⟨working [engCmd (engine 1 0xF0)], 7, engine 1 0xF0, flushing 0xF0 [], (by decide +kernel), nofun, (by decide +kernel)⟩,
   ⟨working [engCmd (engine 1 0xF1)], 7, engine 1 0xF1, flushing 0xF1 [], (by decide +kernel), nofun, (by decide +kernel)⟩,
   ⟨live, 7, engine 3 1, rfl, (by decide +kernel)⟩,
   ⟨searching 0x20000, 7, query, rfl, (by decide +kernel), (by decide +kernel), (by decide +kernel)⟩,
   ⟨searching 0x10000, 7, query, rfl, (by decide +kernel), .inr (by decide +kernel)⟩,
   ⟨working [engCmd { engine 4 1 with opnds := [⟨5 * 2 ^ 47, 4096, true, true⟩] }], 7, engCmd ({ engine 4 1 with opnds := [⟨5 * 2 ^ 47, 4096, true, true⟩] }), { engine 4 1 with opnds := [⟨5 * 2 ^ 47, 4096, true, true⟩] }, (by decide +kernel), rfl, .inl (by decide +kernel), (by decide +kernel)⟩,
   ⟨working [engCmd (fetched (engine 4 1) [])], 7, engCmd (fetched (engine 4 1) []), fetched (engine 4 1) [], (by decide +kernel), rfl, .inl (by decide +kernel), _, zeros 64, false, (by decide +kernel), fst_eq (by decide +kernel)⟩,
   ⟨{ working [engCmd { engine 4 1 with body := [1, 1] ++ zeros 30 }] with gu := { groups := [(0, { active := some 7 })] } }, 7, engCmd ({ engine 4 1 with body := [1, 1] ++ zeros 30 }), { engine 4 1 with body := [1, 1] ++ zeros 30 }, (by decide +kernel), rfl, (by decide +kernel), (by decide +kernel)⟩,
   ⟨working [engCmd (gathering 1 1)], 7, engCmd (gathering 1 1), gathering 1 1, (by decide +kernel), _, _, zeros 4, true, rfl, rfl, fst_eq (by decide +kernel), rfl⟩,
   ⟨working [engCmd (gathering 0)], 7, engCmd (gathering 0), gathering 0, (by decide +kernel), _, _, zeros 4, false, rfl, rfl, fst_eq (by decide +kernel), rfl, (by decide +kernel)⟩,
   ⟨working [engCmd (gathering 1)], 7, engCmd (gathering 1), gathering 1, (by decide +kernel), _, _, zeros 4, false, rfl, rfl, fst_eq (by decide +kernel), rfl, (by decide +kernel)⟩⟩

theorem witness_HurdleCommandsAct :
  (∃ (s : State) (id : Nat) (c : Cmd) (e : Eng), s.findCmd id = some c ∧ e.issued = false ∧ e.phase = .none ∧ field
    e.body 6 2 = s.ownId ∧ e.op = 1 ∧ s.hdlMax c.tenant ≤ s.hurdlesHeld c.tenant) ∧
  (∃ (s : State) (id : Nat) (c : Cmd) (e : Eng), s.findCmd id = some c ∧ e.issued = false ∧ e.phase = .none ∧ field
    e.body 6 2 = s.ownId ∧
    let free := leastBelow 16384 fun i => !(s.hurdle i).alloc
    e.op = 1 ∧ s.hurdlesHeld c.tenant < s.hdlMax c.tenant ∧ free = none) ∧
  (∃ (s : State) (id : Nat) (c : Cmd) (e : Eng), s.findCmd id = some c ∧ e.issued = false ∧ e.phase = .none ∧ field
    e.body 6 2 = s.ownId ∧
    let free := leastBelow 16384 fun i => !(s.hurdle i).alloc
    e.op = 1 ∧ ∃ i, s.hurdlesHeld c.tenant < s.hdlMax c.tenant ∧ free = some i) ∧
  (∃ (s : State) (id : Nat) (c : Cmd) (e : Eng), s.findCmd id = some c ∧ e.issued = false ∧ e.phase = .none ∧ field
    e.body 6 2 = s.ownId ∧
    let h := field e.body 4 2
    e.op = 2 ∧ (s.hurdle h).alloc = true ∧ (s.hurdle h).tenant = c.tenant) ∧
  (∃ (s : State) (id : Nat) (c : Cmd) (e : Eng), s.findCmd id = some c ∧ e.issued = false ∧ e.phase = .none ∧ field
    e.body 6 2 = s.ownId ∧
    let h := field e.body 4 2
    (e.op = 3 ∨ e.op = 4 ∨ e.op = 5) ∧ s.hurdleCheck c h ≠ stOk) ∧
  (∃ (s : State) (id : Nat) (c : Cmd) (e : Eng), s.findCmd id = some c ∧ e.issued = false ∧ e.phase = .none ∧ field
    e.body 6 2 = s.ownId ∧
    let h := field e.body 4 2
    e.op = 4 ∧ s.hurdleCheck c h = stOk) ∧
  (∃ (s : State) (id : Nat) (c : Cmd) (e : Eng), s.findCmd id = some c ∧ e.issued = false ∧ e.phase = .none ∧ field
    e.body 6 2 = s.ownId ∧
    let h := field e.body 4 2
    e.op = 3 ∧ s.hurdleCheck c h = stOk ∧ (∀ w ∈ s.hdl.watches, w.hurdle ≠ h)) ∧
  (∃ (s : State) (id : Nat) (c : Cmd) (e : Eng), s.findCmd id = some c ∧ e.issued = false ∧ e.phase = .none ∧ field
    e.body 6 2 = s.ownId ∧ e.op = 5 ∧
    let h := field e.body 4 2
    let owner := (s.hurdle h).tenant
    s.hurdleCheck c h = stOk ∧ s.watchMax owner ≤ s.watchesHeld owner) ∧
  (∃ (s : State) (id : Nat) (c : Cmd) (e : Eng), s.findCmd id = some c ∧ e.issued = false ∧ e.phase = .none ∧ field
    e.body 6 2 = s.ownId ∧ e.op = 5 ∧
    let h := field e.body 4 2
    let owner := (s.hurdle h).tenant
    s.hurdleCheck c h = stOk ∧ s.watchesHeld owner < s.watchMax owner ∧ 65536 ≤ s.hdl.watches.length) ∧
  (∃ (s : State) (id : Nat) (c : Cmd) (e : Eng), s.findCmd id = some c ∧ e.issued = false ∧ e.phase = .none ∧ field
    e.body 6 2 = s.ownId ∧ e.op = 5 ∧
    let h := field e.body 4 2
    let owner := (s.hurdle h).tenant
    s.hurdleCheck c h = stOk ∧ s.watchesHeld owner < s.watchMax owner ∧ s.hdl.watches.length < 65536 ∧ field e.body 1
      1 ≠ 2) ∧
  (∃ (s : State) (id : Nat) (c : Cmd) (e : Eng), s.findCmd id = some c ∧ e.issued = false ∧ e.phase = .none ∧ field
    e.body 6 2 = s.ownId ∧ e.op = 5 ∧
    let h := field e.body 4 2
    let owner := (s.hurdle h).tenant
    s.hurdleCheck c h = stOk ∧ s.watchesHeld owner < s.watchMax owner ∧ s.hdl.watches.length < 65536 ∧ field e.body 1
      1 = 2) ∧
  (∃ (s : State) (id : Nat) (c : Cmd) (e : Eng), s.findCmd id = some c ∧ e.issued = false ∧ e.phase = .none ∧ field
    e.body 6 2 = s.ownId ∧
    let h := field e.body 4 2
    let n := field e.body 24 2
    let own := s.hdl.hdl.filter fun x => h ≤ x.1 && x.1 < h + n && x.2.alloc
    e.op = 6 ∧ (∃ x ∈ own, x.2.tenant ≠ c.tenant)) ∧
  (∃ (s : State) (id : Nat) (c : Cmd) (e : Eng), s.findCmd id = some c ∧ e.issued = false ∧ e.phase = .none ∧ field
    e.body 6 2 = s.ownId ∧
    let h := field e.body 4 2
    let n := field e.body 24 2
    let own := s.hdl.hdl.filter fun x => h ≤ x.1 && x.1 < h + n && x.2.alloc
    let saved := s.hurdleRecord h n
    e.op = 6 ∧ (∀ x ∈ own, x.2.tenant = c.tenant) ∧ field e.body 8 8 < saved.length) ∧
  (∃ (s : State) (id : Nat) (c : Cmd) (e : Eng), s.findCmd id = some c ∧ e.issued = false ∧ e.phase = .none ∧ field
    e.body 6 2 = s.ownId ∧
    let h := field e.body 4 2
    let n := field e.body 24 2
    let own := s.hdl.hdl.filter fun x => h ≤ x.1 && x.1 < h + n && x.2.alloc
    let saved := s.hurdleRecord h n
    e.op = 6 ∧ (∀ x ∈ own, x.2.tenant = c.tenant) ∧ saved.length ≤ field e.body 8 8 ∧ (∃ x ∈ own, x.2.faulted =
      true)) ∧
  (∃ (s : State) (id : Nat) (c : Cmd) (e : Eng), s.findCmd id = some c ∧ e.issued = false ∧ e.phase = .none ∧ field
    e.body 6 2 = s.ownId ∧
    let h := field e.body 4 2
    let n := field e.body 24 2
    let own := s.hdl.hdl.filter fun x => h ≤ x.1 && x.1 < h + n && x.2.alloc
    let saved := s.hurdleRecord h n
    e.op = 6 ∧ (∀ x ∈ own, x.2.tenant = c.tenant ∧ x.2.faulted = false) ∧ saved.length ≤ field e.body 8 8) ∧
  (∃ (s : State) (id : Nat) (c : Cmd) (e : Eng), s.findCmd id = some c ∧ e.issued = false ∧ e.phase = .none ∧ field
    e.body 6 2 = s.ownId ∧
    let h := field e.body 4 2
    let n := field e.body 24 2
    e.op = 7 ∧ (∃ i, i < n ∧ (s.hurdle (h + i)).alloc = true)) ∧
  (∃ (s : State) (id : Nat) (c : Cmd) (e : Eng), s.findCmd id = some c ∧ e.issued = false ∧ e.phase = .none ∧ field
    e.body 6 2 = s.ownId ∧
    let h := field e.body 4 2
    let n := field e.body 24 2
    let o := e.opnds.getD 0 ⟨0, 0, false, false⟩
    e.op = 7 ∧ ∃ t r, (∀ i, i < n → (s.hurdle (h + i)).alloc = false) ∧ s.readRecord id h n o = (t, some r) ∧ ∃ u cs
      gs, t.restoreConds id c h n o r = (u, cs, gs) ∧ cs ≠ []) ∧
  (∃ (s : State) (id : Nat) (c : Cmd) (e : Eng), s.findCmd id = some c ∧ e.issued = false ∧ e.phase = .none ∧ field
    e.body 6 2 = s.ownId ∧
    let h := field e.body 4 2
    let n := field e.body 24 2
    let o := e.opnds.getD 0 ⟨0, 0, false, false⟩
    e.op = 7 ∧ ∃ t r, (∀ i, i < n → (s.hurdle (h + i)).alloc = false) ∧ s.readRecord id h n o = (t, some r) ∧ ∃ u cs
      gs, t.restoreConds id c h n o r = (u, cs, gs) ∧ cs = []) :=
  ⟨⟨hurdleState 1 [] 0, 7, engCmd (engine 7 1), engine 7 1, (by decide +kernel), rfl, rfl, (by decide +kernel), rfl, (by decide +kernel)⟩,
   ⟨hurdleState 1 allHurdles, 7, engCmd (engine 7 1), engine 7 1, (by decide +kernel), rfl, rfl, (by decide +kernel), rfl, by rw [show (engCmd (engine 7 1)).tenant = 0 from rfl, no_hurdle_held]; decide +kernel, no_hurdle_free 1⟩,
   ⟨hurdleState 1 [] 1, 7, engCmd (engine 7 1), engine 7 1, (by decide +kernel), rfl, rfl, (by decide +kernel), rfl, 0, (by decide +kernel), (by decide +kernel)⟩,
   ⟨hurdleState 2 [(0, { alloc := true })], 7, engCmd (engine 7 2), engine 7 2, (by decide +kernel), rfl, rfl, (by decide +kernel), rfl, (by decide +kernel), (by decide +kernel)⟩,
   ⟨hurdleState 4 [], 7, engCmd (engine 7 4), engine 7 4, (by decide +kernel), rfl, rfl, (by decide +kernel), (by decide +kernel), (by decide +kernel)⟩,
   ⟨hurdleState 4 [(0, { alloc := true })], 7, engCmd (engine 7 4), engine 7 4, (by decide +kernel), rfl, rfl, (by decide +kernel), rfl, (by decide +kernel)⟩,
   ⟨hurdleState 3 [(0, { alloc := true })], 7, engCmd (engine 7 3), engine 7 3, (by decide +kernel), rfl, rfl, (by decide +kernel), rfl, (by decide +kernel), (by decide +kernel)⟩,
   ⟨hurdleDoes (engine 7 5) [(0, { alloc := true })] (1), 7, engCmd (engine 7 5), engine 7 5, (by decide +kernel), rfl, rfl, (by decide +kernel), rfl, (by decide +kernel), (by decide +kernel)⟩,
   ⟨fullWatches, 7, engCmd (engine 7 5), engine 7 5, (by decide +kernel), rfl, rfl, (by decide +kernel), rfl, (by decide +kernel), by show fullWatches.watchesHeld 0 < _; rw [full_watches_held]; decide +kernel, Nat.le_of_eq List.length_replicate.symm⟩,
   ⟨hurdleDoes (engine 7 5) [(0, { alloc := true })] (2 ^ 32), 7, engCmd (engine 7 5), engine 7 5, (by decide +kernel), rfl, rfl, (by decide +kernel), rfl, (by decide +kernel), (by decide +kernel), (by decide +kernel), (by decide +kernel)⟩,
   ⟨hurdleDoes ({ engine 7 5 with body := [5, 2] ++ zeros 30 }) [(0, { alloc := true })] (2 ^ 32), 7, engCmd ({ engine 7 5 with body := [5, 2] ++ zeros 30 }), { engine 7 5 with body := [5, 2] ++ zeros 30 }, (by decide +kernel), rfl, rfl, (by decide +kernel), rfl, (by decide +kernel), (by decide +kernel), (by decide +kernel), (by decide +kernel)⟩,
   ⟨hurdleDoes (recordCmd 6 32) [(0, { alloc := true, tenant := 1 })] (1), 7, engCmd (recordCmd 6 32), recordCmd 6 32, (by decide +kernel), rfl, rfl, (by decide +kernel), rfl, (by decide +kernel)⟩,
   ⟨hurdleDoes (recordCmd 6 31) [(0, { alloc := true })] (1), 7, engCmd (recordCmd 6 31), recordCmd 6 31, (by decide +kernel), rfl, rfl, (by decide +kernel), rfl, (by decide +kernel), (by decide +kernel)⟩,
   ⟨hurdleDoes (recordCmd 6 32) [(0, { alloc := true, faulted := true })] (1), 7, engCmd (recordCmd 6 32), recordCmd 6 32, (by decide +kernel), rfl, rfl, (by decide +kernel), rfl, (by decide +kernel), (by decide +kernel), (by decide +kernel)⟩,
   ⟨hurdleDoes (recordCmd 6 32) [(0, { alloc := true })] (1), 7, engCmd (recordCmd 6 32), recordCmd 6 32, (by decide +kernel), rfl, rfl, (by decide +kernel), rfl, (by decide +kernel), (by decide +kernel)⟩,
   ⟨hurdleDoes (recordCmd 7 32) [(0, { alloc := true })] (1), 7, engCmd (recordCmd 7 32), recordCmd 7 32, (by decide +kernel), rfl, rfl, (by decide +kernel), rfl, 0, (by decide +kernel), (by decide +kernel)⟩,
   ⟨hurdleDoes (recordCmd 7 8) [] (1), 7, engCmd (recordCmd 7 8), recordCmd 7 8, (by decide +kernel), rfl, rfl, (by decide +kernel), rfl, _, [], (by decide +kernel), fst_eq (by decide +kernel), _, _, _, triple_eq _, (by decide +kernel)⟩,
   ⟨hurdleDoes (fetched (recordCmd 7 32) oneRecord) [] (1), 7, engCmd (fetched (recordCmd 7 32) oneRecord), fetched (recordCmd 7 32) oneRecord, (by decide +kernel), rfl, rfl, (by decide +kernel), rfl, _, oneRecord, (by decide +kernel), fst_eq (by decide +kernel), _, _, _, triple_eq _, (by decide +kernel)⟩⟩

theorem witness_FramesAreSwitched :
  (∃ (s : State), s.Ready ∧ ∃ (i : Nat) (e : EthFrame) (upset : Bool), (s.switching = false ∨ s.portLive i = false)) ∧
  (∃ (s : State), s.Ready ∧ ∃ (i : Nat) (e : EthFrame) (upset : Bool), s.switching = true ∧ s.portLive i = true ∧
    let t := (s.frameSeen i upset).mirrorIn i e
    t.routeOf e = none) ∧
  (∃ (s : State), s.Ready ∧ ∃ (i : Nat) (e : EthFrame) (upset : Bool), s.switching = true ∧ s.portLive i = true ∧
    let t := (s.frameSeen i upset).mirrorIn i e
    ∃ o, t.routeOf e = some o ∧
    let lost : Prop := e.fcsOk = false ∨ upset = true ∨ i < 32 ∧ o < 32 ∧ (e.ttl.toNat ≤ 1 ∨ t.starting = true)
    lost) ∧
  (∃ (s : State), s.Ready ∧ ∃ (i : Nat) (e : EthFrame) (upset : Bool), s.switching = true ∧ s.portLive i = true ∧
    let t := (s.frameSeen i upset).mirrorIn i e
    ∃ o, t.routeOf e = some o ∧
    let lost : Prop := e.fcsOk = false ∨ upset = true ∨ i < 32 ∧ o < 32 ∧ (e.ttl.toNat ≤ 1 ∨ t.starting = true)
    (¬ lost) ∧ t.mayLeave i o e = false) ∧
  (∃ (s : State), s.Ready ∧ ∃ (i : Nat) (e : EthFrame) (upset : Bool), s.switching = true ∧ s.portLive i = true ∧
    let t := (s.frameSeen i upset).mirrorIn i e
    ∃ o, t.routeOf e = some o ∧
    let lost : Prop := e.fcsOk = false ∨ upset = true ∨ i < 32 ∧ o < 32 ∧ (e.ttl.toNat ≤ 1 ∨ t.starting = true)
    (¬ lost) ∧ t.mayLeave i o e = true ∧ 32 ≤ i) ∧
  (∃ (s : State), s.Ready ∧ ∃ (i : Nat) (e : EthFrame) (upset : Bool), s.switching = true ∧ s.portLive i = true ∧
    let t := (s.frameSeen i upset).mirrorIn i e
    ∃ o, t.routeOf e = some o ∧
    let lost : Prop := e.fcsOk = false ∨ upset = true ∨ i < 32 ∧ o < 32 ∧ (e.ttl.toNat ≤ 1 ∨ t.starting = true)
    (¬ lost) ∧ t.mayLeave i o e = true ∧ i < 32 ∧
    let m := t.meter (t.flowRule i e) e
    m.2 = some .red) ∧
  (∃ (s : State), s.Ready ∧ ∃ (i : Nat) (e : EthFrame) (upset : Bool), s.switching = true ∧ s.portLive i = true ∧
    let t := (s.frameSeen i upset).mirrorIn i e
    ∃ o, t.routeOf e = some o ∧
    let lost : Prop := e.fcsOk = false ∨ upset = true ∨ i < 32 ∧ o < 32 ∧ (e.ttl.toNat ≤ 1 ∨ t.starting = true)
    (¬ lost) ∧ t.mayLeave i o e = true ∧ i < 32 ∧
    let m := t.meter (t.flowRule i e) e
    m.2 ≠ some .red) ∧
  (∃ (s : State), s.Ready ∧ ∃ (o : Nat), (s.switching = false ∨ s.portLive o = false)) ∧
  (∃ (s : State), s.Ready ∧ ∃ (o : Nat), s.switching = true ∧ s.portLive o = true ∧
    let d := s.sweep
    d.nextFrame o = none) ∧
  (∃ (s : State), s.Ready ∧ ∃ (o : Nat), s.switching = true ∧ s.portLive o = true ∧
    let d := s.sweep
    ∃ c x, d.nextFrame o = some (c, x) ∧ (32 < o ∨ o = 32 ∧ EthFrame.message x.frame = none)) ∧
  (∃ (s : State), s.Ready ∧ ∃ (o : Nat), s.switching = true ∧ s.portLive o = true ∧
    let d := s.sweep
    ∃ c x, d.nextFrame o = some (c, x) ∧ ∃ typ f, o = 32 ∧ EthFrame.message x.frame = some (typ, f)) ∧
  (∃ (s : State), s.Ready ∧ ∃ (o : Nat), s.switching = true ∧ s.portLive o = true ∧
    let d := s.sweep
    ∃ c x, d.nextFrame o = some (c, x) ∧ o < 32) :=
  ⟨⟨wired, ⟨rfl, rfl⟩, 1, frameTo 2, false, (by decide +kernel)⟩,
   ⟨wired, ⟨rfl, rfl⟩, 0, frameTo 3, false, (by decide +kernel), (by decide +kernel), (by decide +kernel)⟩,
   ⟨wired, ⟨rfl, rfl⟩, 0, { frameTo 2 with ttl := 1 }, false, (by decide +kernel), (by decide +kernel), 4, (by decide +kernel), (by decide +kernel)⟩,
   ⟨{ wired with fab := { wired.fab with state := .isolated } }, ⟨rfl, rfl⟩, 0, frameTo 2, false, (by decide +kernel), (by decide +kernel), 4, (by decide +kernel), (by decide +kernel), (by decide +kernel)⟩,
   ⟨wired, ⟨rfl, rfl⟩, 32, frameTo 2, false, (by decide +kernel), (by decide +kernel), 4, (by decide +kernel), (by decide +kernel), (by decide +kernel), (by decide +kernel)⟩,
   ⟨regs wired [({ reg := .swFlowMatch }, 0x7F0100000000), ({ reg := .swPolRate }, 2 ^ 63)], ⟨rfl, rfl⟩, 0, frameTo 2, false, (by decide +kernel), (by decide +kernel), 4, (by decide +kernel), (by decide +kernel), (by decide +kernel), (by decide +kernel), (by decide +kernel)⟩,
   ⟨wired, ⟨rfl, rfl⟩, 0, { frameTo 2 with ttl := 2 }, false, (by decide +kernel), (by decide +kernel), 4, (by decide +kernel), (by decide +kernel), (by decide +kernel), (by decide +kernel), (by decide +kernel)⟩,
   ⟨wired, ⟨rfl, rfl⟩, 1, (by decide +kernel)⟩,
   ⟨wired, ⟨rfl, rfl⟩, 37, (by decide +kernel), (by decide +kernel), (by decide +kernel)⟩,
   ⟨queued 32, ⟨rfl, rfl⟩, 32, (by decide +kernel), (by decide +kernel), 0, one, (by decide +kernel), (by decide +kernel)⟩,
   ⟨brought, ⟨rfl, rfl⟩, 32, (by decide +kernel), (by decide +kernel), 0, carrying, (by decide +kernel), 0x04, _, (by decide +kernel), rfl⟩,
   ⟨queued 4, ⟨rfl, rfl⟩, 4, (by decide +kernel), (by decide +kernel), 0, one, (by decide +kernel), (by decide +kernel)⟩⟩

theorem witness_AdmissionFollowsTheBuffer :
  (∃ (s : State) (i o : Nat) (e : EthFrame) (yellow : Bool),
    let c := frameCls e
    let n := cellsOf e.len
    let fits : Prop := s.inTotal i c < s.xoff ∧ n ≤ s.sharedFree
    i < 32 ∧ s.lossless c = true ∧ fits) ∧
  (∃ (s : State) (i o : Nat) (e : EthFrame) (yellow : Bool),
    let c := frameCls e
    let n := cellsOf e.len
    let fits : Prop := s.inTotal i c < s.xoff ∧ n ≤ s.sharedFree
    i < 32 ∧ s.lossless c = true ∧ (¬ fits) ∧ n ≤ s.hdrmFree) ∧
  (∃ (s : State) (i o : Nat) (e : EthFrame) (yellow : Bool),
    let c := frameCls e
    let n := cellsOf e.len
    let fits : Prop := s.inTotal i c < s.xoff ∧ n ≤ s.sharedFree
    i < 32 ∧ s.lossless c = true ∧ (¬ fits) ∧ s.hdrmFree < n) ∧
  (∃ (s : State) (i o : Nat) (e : EthFrame) (yellow : Bool),
    let c := frameCls e
    let n := cellsOf e.len
    let q := s.hub .swQCfg o c
    i < 32 ∧ s.lossless c = false ∧ (bits q 53 36 ≤ s.outTotal o c ∨ s.sharedFree < n)) ∧
  (∃ (s : State) (i o : Nat) (e : EthFrame) (yellow : Bool),
    let c := frameCls e
    let n := cellsOf e.len
    let q := s.hub .swQCfg o c
    i < 32 ∧ s.lossless c = false ∧ s.outTotal o c < bits q 53 36 ∧ n ≤ s.sharedFree ∧ yellow = true ∧ bits q 35 18 ≤
      s.outTotal o c) ∧
  (∃ (s : State) (i o : Nat) (e : EthFrame) (yellow : Bool),
    let c := frameCls e
    let n := cellsOf e.len
    let q := s.hub .swQCfg o c
    i < 32 ∧ s.lossless c = false ∧ s.outTotal o c < bits q 53 36 ∧ n ≤ s.sharedFree ∧ (yellow = true → s.outTotal o
      c < bits q 35 18)) ∧
  (∃ (s : State) (i o : Nat) (e : EthFrame) (yellow : Bool),
    let c := frameCls e
    let n := cellsOf e.len
    let fits : Prop := s.inTotal i c < s.xoff ∧ n ≤ s.sharedFree
    32 ≤ i ∧ fits ∧ s.heldAt i c = []) ∧
  (∃ (s : State) (i o : Nat) (e : EthFrame) (yellow : Bool),
    let c := frameCls e
    let n := cellsOf e.len
    let fits : Prop := s.inTotal i c < s.xoff ∧ n ≤ s.sharedFree
    32 ≤ i ∧ (¬ fits ∨ s.heldAt i c ≠ [])) :=
  ⟨⟨buffer 0x800040000000000 (2 ^ 32) 0, 31, 4, { frameTo 2 with pcp := 3 }, true, (by decide +kernel), (by decide +kernel), ⟨by decide +kernel, by decide +kernel⟩⟩,
   ⟨buffer 0x800040000000000 0 0, 0, 4, { frameTo 2 with pcp := 3 }, true, (by decide +kernel), (by decide +kernel), (fun h => absurd h.1 (by decide +kernel)), (by decide +kernel)⟩,
   ⟨buffer (2 ^ 59) 0 0, 0, 4, { frameTo 2 with pcp := 3 }, true, (by decide +kernel), (by decide +kernel), (fun h => absurd h.1 (by decide +kernel)), (by decide +kernel)⟩,
   ⟨buffer 0 0 0, 0, 4, frameTo 2, true, (by decide +kernel), (by decide +kernel), (by decide +kernel)⟩,
   ⟨buffer 0 0 (2 ^ 36), 0, 4, frameTo 2, true, (by decide +kernel), (by decide +kernel), (by decide +kernel), (by decide +kernel), (by decide +kernel), (by decide +kernel)⟩,
   ⟨buffer 0 0 (2 ^ 36 + 2 ^ 18), 0, 4, frameTo 2, true, (by decide +kernel), (by decide +kernel), (by decide +kernel), (by decide +kernel), fun _ => by decide +kernel⟩,
   ⟨buffer 0 (2 ^ 32) 0, 32, 4, frameTo 2, true, (by decide +kernel), ⟨by decide +kernel, by decide +kernel⟩, (by decide +kernel)⟩,
   ⟨buffer 0 0 0, 32, 4, frameTo 2, true, (by decide +kernel), .inl (fun h => absurd h.1 (by decide +kernel))⟩⟩

theorem witness_PausesAndSwitchWrites :
  (∃ (s : State) (p : Nat) (c : BitVec 3), s.Ready ∧ ∃ t, (s.sw.paused.find? (·.1 = 8 * p + c.toNat)) = some (8 * p +
    c.toNat, t) ∧ 10000 ≤ s.now - t ∧ s.xon < s.inTotal p c.toNat) ∧
  (∃ (s : State) (p : Nat) (c : BitVec 3), s.Ready ∧ ∃ n : BitVec 16, s.serving = true ∧ s.linkUp p = true) ∧
  (∃ (s : State) (v : Word), s.Ready ∧ ∃ r : BitVec 8, s.reaches { reg := .swFlowMatch, i := r.toNat } = true) ∧
  (∃ (s : State) (v : Word), s.Ready ∧ ∃ p, p < 1023 ∧ s.reaches { reg := .swPolRate, i := p } = true ∧
    let a : RegAt := { reg := .swPolRate, i := p }
    let x := s.buckets p
    let t := (s.putAt a (storedWrite s a v)).setPolicer p x
    let on := bit (s.hub .swPolRate p) 63
    let on' := bit (t.hub .swPolRate p) 63
    on = false ∧ on' = true) ∧
  (∃ (s : State) (v : Word), s.Ready ∧ ∃ p, p < 1023 ∧ s.reaches { reg := .swPolRate, i := p } = true ∧
    let a : RegAt := { reg := .swPolRate, i := p }
    let x := s.buckets p
    let t := (s.putAt a (storedWrite s a v)).setPolicer p x
    let on := bit (s.hub .swPolRate p) 63
    let on' := bit (t.hub .swPolRate p) 63
    (on = true ∨ on' = false)) :=
  ⟨⟨{ regs (queued 4) [({ reg := .swPfcThr }, 0)] with now := 10000, sw := { (queued 4).sw with paused := [(0, 0)] } }, 0, 0, ⟨rfl, rfl⟩, 0, (by decide +kernel), (by decide +kernel), (by decide +kernel)⟩,
   ⟨wired, 0, 7, ⟨rfl, rfl⟩, 0xFFFF, (by decide +kernel), (by decide +kernel)⟩,
   ⟨live, 0, ⟨rfl, rfl⟩, 255, (by decide +kernel)⟩,
   ⟨live, 2 ^ 63, ⟨rfl, rfl⟩, 1022, (by decide +kernel), (by decide +kernel), (by decide +kernel), (by decide +kernel)⟩,
   ⟨live, 0, ⟨rfl, rfl⟩, 0, (by decide +kernel), (by decide +kernel), (by decide +kernel)⟩⟩

theorem witness_GatesComplete :
  (∃ (s : State) (e : BitVec 3) (v : Word), s.Ready ∧
    let k := e.toNat
    let a : RegAt := { reg := .swGateCtl, i := k }
    s.reaches a = true ∧ bit v 0 = false) ∧
  (∃ (s : State) (e : BitVec 3) (v : Word), s.Ready ∧
    let k := e.toNat
    let g := s.gates k
    let a : RegAt := { reg := .swGateCtl, i := k }
    s.reaches a = true ∧
    let w := s.putAt a (storedWrite s a (putBits v 1 1 1))
    bit v 0 = true ∧
    let w := (w.gateEntry k).sweep
    let g := w.gates k
    g.pending = true) ∧
  (∃ (s : State) (e : BitVec 3) (v : Word), s.Ready ∧
    let k := e.toNat
    let g := s.gates k
    let a : RegAt := { reg := .swGateCtl, i := k }
    s.reaches a = true ∧
    let w := s.putAt a (storedWrite s a (putBits v 1 1 1))
    bit v 0 = true ∧
    let w := (w.gateEntry k).sweep
    let g := w.gates k
    let n := bits v 40 32
    let es := w.gateList k (!g.oper) n
    let bns := bits (w.hub .swGateBns k) 29 0
    let bad := n = 0 ∨ 256 < n ∨ (es.any fun x => x.2 = 0) = true ∨ 1000000000 ≤ bns
    g.pending = false ∧ bad) ∧
  (∃ (s : State) (e : BitVec 3) (v : Word), s.Ready ∧
    let k := e.toNat
    let g := s.gates k
    let a : RegAt := { reg := .swGateCtl, i := k }
    s.reaches a = true ∧
    let w := s.putAt a (storedWrite s a (putBits v 1 1 1))
    bit v 0 = true ∧
    let w := (w.gateEntry k).sweep
    let g := w.gates k
    let n := bits v 40 32
    let es := w.gateList k (!g.oper) n
    let bns := bits (w.hub .swGateBns k) 29 0
    let bad := n = 0 ∨ 256 < n ∨ (es.any fun x => x.2 = 0) = true ∨ 1000000000 ≤ bns
    g.pending = false ∧ (¬ bad)) ∧
  (∃ (s : State) (e : BitVec 3) (v : Word), s.Ready ∧
    let k := e.toNat
    let g := s.gates k
    s.gateEn k = true ∧ g.pending = true ∧ g.nextStart ≤ s.now) ∧
  (∃ (s : State) (e : BitVec 3) (v : Word), s.Ready ∧
    let k := e.toNat
    let g := s.gates k
    g.running = true) :=
  ⟨⟨live, 7, 0, ⟨rfl, rfl⟩, (by decide +kernel), (by decide +kernel)⟩,
   ⟨{ regs live [] with sw := { live.sw with gates := [(7, { pending := true })] } }, 7, 1, ⟨rfl, rfl⟩, (by decide +kernel), (by decide +kernel), (by decide +kernel)⟩,
   ⟨live, 7, 1, ⟨rfl, rfl⟩, (by decide +kernel), (by decide +kernel), (by decide +kernel), .inl (by decide +kernel)⟩,
   ⟨regs live [({ reg := .swGateEnt, i := 7, j := 1 }, 100)], 7, 2 ^ 32 + 1, ⟨rfl, rfl⟩, (by decide +kernel), (by decide +kernel), (by decide +kernel), fun h => absurd h (by decide +kernel)⟩,
   ⟨{ regs live [({ reg := .swGateCtl, i := 7 }, 1)] with sw := { live.sw with gates := [(7, { pending := true })] } }, 7, 0, ⟨rfl, rfl⟩, (by decide +kernel), (by decide +kernel), (by decide +kernel)⟩,
   ⟨{ regs live [({ reg := .swGateCtl, i := 7 }, 1)] with sw := { live.sw with gates := [(7, { running := true })] } }, 7, 0, ⟨rfl, rfl⟩, (by decide +kernel)⟩⟩

theorem witness_LinksAndNeighbours :
  (∃ (s : State) (p : BitVec 5), s.Ready ∧
    let k := p.toNat
    s.linkUp k = true ∧
    let d := (s.setOptical (k / 4) fun x =>
      { x with link := x.link &&& ~~~(BitVec.ofNat 4 (2 ^ (k % 4))), lanesOk := x.lanesOk &&& ~~~(subLanes x.mode (k % 4)) }).flushPort
      k
    let t : State :=
      { d with sw := { d.sw with rxPause := d.sw.rxPause.filter fun x => x.1 / 8 != k, paused := d.sw.paused.filter fun x => x.1 / 8 != k } }
    (t.nbr k).valid = false) ∧
  (∃ (s : State) (p : BitVec 5), s.Ready ∧
    let k := p.toNat
    s.linkUp k = true ∧
    let d := (s.setOptical (k / 4) fun x =>
      { x with link := x.link &&& ~~~(BitVec.ofNat 4 (2 ^ (k % 4))), lanesOk := x.lanesOk &&& ~~~(subLanes x.mode (k % 4)) }).flushPort
      k
    let t : State :=
      { d with sw := { d.sw with rxPause := d.sw.rxPause.filter fun x => x.1 / 8 != k, paused := d.sw.paused.filter fun x => x.1 / 8 != k } }
    (t.nbr k).valid = true) ∧
  (∃ (s : State) (p : BitVec 5), s.Ready ∧
    let k := p.toNat
    s.canLink k = true ∧ s.boot.phase ≠ .reset) ∧
  (∃ (s : State) (p : BitVec 5), s.Ready ∧ s.serving = true ∧ bit (s.hub .fabHbCfg) 32 = true ∧ s.lldpInt * 1000000 ≤
    s.now - s.fab.lldpLast) ∧
  (∃ (s : State) (p : BitVec 5), s.Ready ∧
    let k := p.toNat
    ∃ l : LldpFrame, s.serving = true ∧ s.linkUp k = true ∧ l.ttl = 0) ∧
  (∃ (s : State) (p : BitVec 5), s.Ready ∧
    let k := p.toNat
    ∃ l : LldpFrame, s.serving = true ∧ s.linkUp k = true ∧
    let s' := s.count .swStat 0
    l.ttl ≠ 0 ∧ (l.info = none ∨ l.oui.toNat ≠ bits (s.hub .fabHbCfg) 63 40 ∨ l.subtype ≠ 1)) ∧
  (∃ (s : State) (p : BitVec 5), s.Ready ∧
    let k := p.toNat
    ∃ l : LldpFrame, s.serving = true ∧ s.linkUp k = true ∧
    let s' := s.count .swStat 0
    ∃ b, l.ttl ≠ 0 ∧ l.info = some b ∧ l.oui.toNat = bits (s.hub .fabHbCfg) 63 40 ∧ l.subtype = 1) ∧
  (∃ (s : State) (p : BitVec 5), s.Ready ∧
    let k := p.toNat
    (s.nbr k).valid = true ∧ (s.nbr k).expires ≤ s.now) :=
  ⟨⟨wired, 0, ⟨rfl, rfl⟩, (by decide +kernel), (by decide +kernel)⟩,
   ⟨neighboured, 0, ⟨rfl, rfl⟩, (by decide +kernel), (by decide +kernel)⟩,
   ⟨{ regs wired [({ reg := .phPortCfg }, 1)] with pwr := { wired.pwr with released := false, dspLoaded := 1 } }, 0, ⟨rfl, rfl⟩, (by decide +kernel), (by decide +kernel)⟩,
   ⟨{ live with now := 10 ^ 9 }, 0, ⟨rfl, rfl⟩, (by decide +kernel), (by decide +kernel), (by decide +kernel)⟩,
   ⟨wired, 0, ⟨rfl, rfl⟩, lldp 0 none, (by decide +kernel), (by decide +kernel), (by decide +kernel)⟩,
   ⟨wired, 0, ⟨rfl, rfl⟩, lldp 1 none, (by decide +kernel), (by decide +kernel), (by decide +kernel), (by decide +kernel)⟩,
   ⟨wired, 0, ⟨rfl, rfl⟩, lldp 1 (some []), (by decide +kernel), (by decide +kernel), [], (by decide +kernel), (by decide +kernel), (by decide +kernel), (by decide +kernel)⟩,
   ⟨neighboured, 0, ⟨rfl, rfl⟩, (by decide +kernel), (by decide +kernel)⟩⟩

theorem witness_FabricOpsComplete :
  (∃ (s : State) (v : Word), s.Ready ∧
    let ctl : RegAt := { reg := .fabCtl }
    let w (op : Nat) : State := let t := s.putAt ctl (storedWrite s ctl (putBits v 36 35 op)); if t.leaseTo =
      s.leaseTo then t else { t with fab := { t.fab with leaseFrom := t.now } }
    s.reaches ctl = true ∧
    let t := w 1
    t.fab.state = .unjoined ∧ t.idValid = true ∧ (t.member t.ownId).kind = .member) ∧
  (∃ (s : State) (v : Word), s.Ready ∧
    let ctl : RegAt := { reg := .fabCtl }
    let w (op : Nat) : State := let t := s.putAt ctl (storedWrite s ctl (putBits v 36 35 op)); if t.leaseTo =
      s.leaseTo then t else { t with fab := { t.fab with leaseFrom := t.now } }
    s.reaches ctl = true ∧
    let t := w 1
    (¬ (t.fab.state = .unjoined ∧ t.idValid = true ∧ (t.member t.ownId).kind = .member))) ∧
  (∃ (s : State) (v : Word), s.Ready ∧
    let ctl : RegAt := { reg := .fabCtl }
    s.reaches ctl = true ∧ s.fab.state = .member) ∧
  (∃ (s : State) (v : Word), s.Ready ∧
    let ctl : RegAt := { reg := .fabCtl }
    s.reaches ctl = true ∧ s.fab.state ≠ .member) ∧
  (∃ (s : State) (v : Word), s.Ready ∧
    let ctl : RegAt := { reg := .fabCtl }
    s.reaches ctl = true ∧ s.fab.state = .isolated) ∧
  (∃ (s : State) (v : Word), s.Ready ∧
    let ctl : RegAt := { reg := .fabCtl }
    s.reaches ctl = true ∧ s.fab.state ≠ .isolated) ∧
  (∃ (s : State) (v : Word), s.Ready ∧ s.reaches { reg := .fabChg } = true ∧ bits v 49 48 = 0) ∧
  (∃ (s : State) (v : Word), s.Ready ∧ s.reaches { reg := .fabChg } = true ∧ bits v 49 48 ≠ 0 ∧ 1024 ≤
    s.fab.staged.length) ∧
  (∃ (s : State) (v : Word), s.Ready ∧ s.reaches { reg := .fabChg } = true ∧ bits v 49 48 ≠ 0 ∧ s.fab.staged.length <
    1024) ∧
  (∃ (s : State) (v : Word), s.Ready ∧ s.reaches { reg := .fabCommit } = true ∧ s.fab.state = .isolated ∧ bit v 33 =
    false) ∧
  (∃ (s : State) (v : Word), s.Ready ∧ s.reaches { reg := .fabCommit } = true ∧
    let ep := BitVec.ofNat 32 (bits v 31 0)
    let d := (ep - s.fab.curEpoch).toNat
    s.fab.state = .member ∧ (¬ (1 ≤ d ∧ d < 2 ^ 30)) ∧ bit v 33 = false) ∧
  (∃ (s : State) (v : Word), s.Ready ∧ s.reaches { reg := .fabCommit } = true ∧ ∃ r, r ∈ s.fab.staged ∧ s.fab.state ≠
    .isolated ∧ r.2.1 < r.1 ∧ bit v 33 = false) ∧
  (∃ (s : State) (v : Word), s.Ready ∧ s.reaches { reg := .fabCommit } = true ∧
    let ep := BitVec.ofNat 32 (bits v 31 0)
    let d := (ep - s.fab.curEpoch).toNat
    s.fab.state ≠ .isolated ∧ (s.fab.state = .member → 1 ≤ d ∧ d < 2 ^ 30) ∧ bit v 33 = false ∧ (∀ r ∈ s.fab.staged,
      r.1 ≤ r.2.1)) ∧
  (∃ (s : State) (v : Word), s.Ready ∧ s.reaches { reg := .fabCommit } = true ∧ bit v 33 = true) ∧
  (∃ (s : State) (v : Word), s.Ready ∧ s.reaches { reg := .fabCommit } = true ∧ bit v 32 = true) ∧
  (∃ (s : State) (v : Word), s.Ready ∧ s.reaches { reg := .fabCommit } = true ∧ bit v 32 = false) ∧
  (∃ (s : State) (v : Word), s.Ready ∧ s.reaches { reg := .fabLease } = true) :=
  ⟨⟨{ regs live [({ reg := .fabId }, 0x10000)] with fab := { members := [(0, { kind := .member })] } }, 0, ⟨rfl, rfl⟩, (by decide +kernel), (by decide +kernel), (by decide +kernel), (by decide +kernel)⟩,
   ⟨live, 0, ⟨rfl, rfl⟩, (by decide +kernel), fun h => absurd h.1 (by decide +kernel)⟩,
   ⟨live, 0, ⟨rfl, rfl⟩, (by decide +kernel), (by decide +kernel)⟩,
   ⟨inState .isolated, 0, ⟨rfl, rfl⟩, (by decide +kernel), (by decide +kernel)⟩,
   ⟨inState .isolated, 0, ⟨rfl, rfl⟩, (by decide +kernel), (by decide +kernel)⟩,
   ⟨live, 0, ⟨rfl, rfl⟩, (by decide +kernel), (by decide +kernel)⟩,
   ⟨live, 0, ⟨rfl, rfl⟩, (by decide +kernel), (by decide +kernel)⟩,
   ⟨{ live with fab := { live.fab with staged := List.replicate 1024 (0, 0, 0) } }, 2 ^ 48, ⟨rfl, rfl⟩, (by decide +kernel), (by decide +kernel), (by decide +kernel)⟩,
   ⟨live, 2 ^ 48, ⟨rfl, rfl⟩, (by decide +kernel), (by decide +kernel), (by decide +kernel)⟩,
   ⟨inState .isolated, 1, ⟨rfl, rfl⟩, (by decide +kernel), (by decide +kernel), (by decide +kernel)⟩,
   ⟨live, 2 ^ 30, ⟨rfl, rfl⟩, (by decide +kernel), (by decide +kernel), (fun h => absurd h.2 (by decide +kernel)), (by decide +kernel)⟩,
   ⟨{ live with fab := { live.fab with staged := [(1, 0, 1)] } }, 1, ⟨rfl, rfl⟩, (by decide +kernel), (1, 0, 1), (by decide +kernel), (by decide +kernel), (by decide +kernel), (by decide +kernel)⟩,
   ⟨live, 2 ^ 30 - 1, ⟨rfl, rfl⟩, (by decide +kernel), (by decide +kernel), (fun _ => ⟨by decide +kernel, by decide +kernel⟩), (by decide +kernel), (by decide +kernel)⟩,
   ⟨live, 2 ^ 33, ⟨rfl, rfl⟩, (by decide +kernel), (by decide +kernel)⟩,
   ⟨live, 2 ^ 32, ⟨rfl, rfl⟩, (by decide +kernel), (by decide +kernel)⟩,
   ⟨live, 0, ⟨rfl, rfl⟩, (by decide +kernel), (by decide +kernel)⟩,
   ⟨live, 0, ⟨rfl, rfl⟩, (by decide +kernel)⟩⟩

theorem witness_FabricTimersComplete :
  (∃ (s : State), s.Ready ∧ s.fab.state = .member ∧ s.leaseTo ≠ 0 ∧ s.leaseTo ≤ s.now - s.fab.leaseFrom) ∧
  (∃ (s : State), s.Ready ∧ ∃ t, bits (s.hub .fabHbCfg) 15 0 ≠ 0 ∧ s.idValid = true ∧ bits (s.hub .fabHbCfg) 15 0 *
    100000 ≤ s.now - s.fab.hbLast ∧ s.fabReport 1 0 0 = some t) ∧
  (∃ (s : State), s.Ready ∧ ∃ p : PtpSync,
    let v := s.fab.servo
    let taken : Prop := s.serving = true ∧ s.ptpEn = true ∧ p.port = s.ptpPort ∧ p.domain.toNat = bits (s.hub
      .fabPtpCfg) 63 56 ∧ p.mapping.toNat = s.ptpMapping ∧ s.linkUp p.port = true ∧ (∀ x, v.source = some x → x =
      p.source ∨ 3000000000 ≤ s.now - v.lastSync)
    (¬ taken)) ∧
  (∃ (s : State), s.Ready ∧ ∃ p : PtpSync,
    let v := s.fab.servo
    let taken : Prop := s.serving = true ∧ s.ptpEn = true ∧ p.port = s.ptpPort ∧ p.domain.toNat = bits (s.hub
      .fabPtpCfg) 63 56 ∧ p.mapping.toNat = s.ptpMapping ∧ s.linkUp p.port = true ∧ (∀ x, v.source = some x → x =
      p.source ∨ 3000000000 ≤ s.now - v.lastSync)
    let o : Int := (p.arrival : Int) - p.origin - v.delay
    let thr : Nat := bits (s.hub .fabPtpCfg) 31 0
    taken ∧ (thr : Int) ≤ -o) ∧
  (∃ (s : State), s.Ready ∧ ∃ p : PtpSync,
    let v := s.fab.servo
    let taken : Prop := s.serving = true ∧ s.ptpEn = true ∧ p.port = s.ptpPort ∧ p.domain.toNat = bits (s.hub
      .fabPtpCfg) 63 56 ∧ p.mapping.toNat = s.ptpMapping ∧ s.linkUp p.port = true ∧ (∀ x, v.source = some x → x =
      p.source ∨ 3000000000 ≤ s.now - v.lastSync)
    let o : Int := (p.arrival : Int) - p.origin - v.delay
    let thr : Nat := bits (s.hub .fabPtpCfg) 31 0
    taken ∧ -o < (thr : Int) ∧ (thr : Int) ≤ o) ∧
  (∃ (s : State), s.Ready ∧ ∃ p : PtpSync,
    let v := s.fab.servo
    let taken : Prop := s.serving = true ∧ s.ptpEn = true ∧ p.port = s.ptpPort ∧ p.domain.toNat = bits (s.hub
      .fabPtpCfg) 63 56 ∧ p.mapping.toNat = s.ptpMapping ∧ s.linkUp p.port = true ∧ (∀ x, v.source = some x → x =
      p.source ∨ 3000000000 ≤ s.now - v.lastSync)
    let o : Int := (p.arrival : Int) - p.origin - v.delay
    let thr : Nat := bits (s.hub .fabPtpCfg) 31 0
    taken ∧ -o < (thr : Int) ∧ o < (thr : Int)) ∧
  (∃ (s : State), s.Ready ∧ ∃ (port : _) (source : _) (seqId : _) (sent : Nat) (received : Nat),
    let mine : Prop := s.serving = true ∧ s.ptpEn = true ∧ port = s.ptpPort ∧ s.fab.servo.source = some source ∧
      s.fab.servo.reqSeq = some seqId
    mine) ∧
  (∃ (s : State), s.Ready ∧ ∃ (port : _) (source : _) (seqId : _) (sent : Nat) (received : Nat),
    let mine : Prop := s.serving = true ∧ s.ptpEn = true ∧ port = s.ptpPort ∧ s.fab.servo.source = some source ∧
      s.fab.servo.reqSeq = some seqId
    (¬ mine)) ∧
  (∃ (s : State), s.Ready ∧ s.fab.servo.tracking = true ∧ 3000000000 ≤ s.now - s.fab.servo.lastSync) :=
  ⟨⟨{ regs live [({ reg := .fabCtl }, 2 ^ 40)] with now := 100000 }, ⟨rfl, rfl⟩, (by decide +kernel), (by decide +kernel), (by decide +kernel)⟩,
   ⟨{ regs live [({ reg := .fabId }, 0x10000), ({ reg := .hubRvtEvt }, 0x30000)] with now := 10 ^ 9 }, ⟨rfl, rfl⟩, (State.fabReport ({ regs live [({ reg := .fabId }, 0x10000), ({ reg := .hubRvtEvt }, 0x30000)] with now := 10 ^ 9 }) 1 0 0).get (by decide +kernel), (by decide +kernel), (by decide +kernel), (by decide +kernel), (Option.some_get _).symm⟩,
   ⟨live, ⟨rfl, rfl⟩, sync 0 0, fun h => absurd h.2.1 (by decide +kernel)⟩,
   ⟨timed {}, ⟨rfl, rfl⟩, sync 1000 0, ⟨by decide +kernel, by decide +kernel, by decide +kernel, by decide +kernel, by decide +kernel, by decide +kernel, fun x h => .inl (Option.some.inj h).symm⟩, (by decide +kernel)⟩,
   ⟨timed {}, ⟨rfl, rfl⟩, sync 0 1000, ⟨by decide +kernel, by decide +kernel, by decide +kernel, by decide +kernel, by decide +kernel, by decide +kernel, fun x h => .inl (Option.some.inj h).symm⟩, (by decide +kernel), (by decide +kernel)⟩,
   ⟨timed {}, ⟨rfl, rfl⟩, sync 0 999, ⟨by decide +kernel, by decide +kernel, by decide +kernel, by decide +kernel, by decide +kernel, by decide +kernel, fun x h => .inl (Option.some.inj h).symm⟩, (by decide +kernel), (by decide +kernel)⟩,
   ⟨timed { reqSeq := some 0 }, ⟨rfl, rfl⟩, 0, 0, 0, 0, 0, ⟨by decide +kernel, by decide +kernel, by decide +kernel, rfl, rfl⟩⟩,
   ⟨live, ⟨rfl, rfl⟩, 0, 0, 0, 0, 0, fun h => absurd h.2.1 (by decide +kernel)⟩,
   ⟨timed { tracking := true }, ⟨rfl, rfl⟩, (by decide +kernel), (by decide +kernel)⟩⟩

theorem witness_ScrubLogAndInjectionComplete :
  (∃ (s : State), s.Ready ∧ ∃ (k : BitVec 4) (n : Nat) (found : BitVec 2), s.boot.phase = .running ∧ s.scrubH ≠ 0 ∧
    s.stackDead k.toNat = false) ∧
  (∃ (s : State), s.Ready ∧ ∃ (v : Word), s.reaches { reg := .hubErrLogAck } = true) ∧
  (∃ (s : State), s.Ready ∧ ∃ (v : Word), s.reaches { reg := .hubErrInj } = true ∧ bit (s.hub .hubErrCfg) 40 = false)
    ∧
  (∃ (s : State), s.Ready ∧ ∃ (v : Word), s.reaches { reg := .hubErrInj } = true ∧
    let off := bits v 46 6 * 64
    ∃ n a, bit (s.hub .hubErrCfg) 40 = true ∧ s.findExt off = some n ∧ s.extTier n = 0 ∧ s.locOf n (off - s.extOff n)
      = .hbm a ∧ bits v 63 62 = 1) ∧
  (∃ (s : State), s.Ready ∧ ∃ (v : Word), s.reaches { reg := .hubErrInj } = true ∧
    let off := bits v 46 6 * 64
    ∃ n a, bit (s.hub .hubErrCfg) 40 = true ∧ s.findExt off = some n ∧ s.extTier n = 0 ∧ s.locOf n (off - s.extOff n)
      = .hbm a ∧ bits v 63 62 = 2) ∧
  (∃ (s : State), s.Ready ∧ ∃ (v : Word), s.reaches { reg := .hubErrInj } = true ∧
    let off := bits v 46 6 * 64
    ∃ n a, bit (s.hub .hubErrCfg) 40 = true ∧ s.findExt off = some n ∧ s.extTier n = 0 ∧ s.locOf n (off - s.extOff n)
      = .hbm a ∧ bits v 63 62 ≠ 1 ∧ bits v 63 62 ≠ 2) ∧
  (∃ (s : State), s.Ready ∧ ∃ (v : Word), s.reaches { reg := .hubErrInj } = true ∧
    let off := bits v 46 6 * 64
    s.findExt off = none) ∧
  (∃ (s : State), s.Ready ∧ ∃ (v : Word), s.reaches { reg := .hubErrInj } = true ∧
    let off := bits v 46 6 * 64
    ∃ n, s.findExt off = some n ∧ s.extTier n ≠ 0) :=
  ⟨⟨live, ⟨rfl, rfl⟩, 15, 0, 0, (by decide +kernel), (by decide +kernel), (by decide +kernel)⟩,
   ⟨live, ⟨rfl, rfl⟩, 0, (by decide +kernel)⟩,
   ⟨live, ⟨rfl, rfl⟩, 0, (by decide +kernel), (by decide +kernel)⟩,
   ⟨injectable, ⟨rfl, rfl⟩, 2 ^ 62, (by decide +kernel), 0, 0, (by decide +kernel), (by decide +kernel), (by decide +kernel), (by decide +kernel), (by decide +kernel)⟩,
   ⟨injectable, ⟨rfl, rfl⟩, 2 ^ 63, (by decide +kernel), 0, 0, (by decide +kernel), (by decide +kernel), (by decide +kernel), (by decide +kernel), (by decide +kernel)⟩,
   ⟨injectable, ⟨rfl, rfl⟩, 0, (by decide +kernel), 0, 0, (by decide +kernel), (by decide +kernel), (by decide +kernel), (by decide +kernel), (by decide +kernel), (by decide +kernel)⟩,
   ⟨injectable, ⟨rfl, rfl⟩, 2 ^ 46, (by decide +kernel), (by decide +kernel)⟩,
   ⟨regs (withExt 0 .active 0x100) [({ reg := .hubErrCfg }, 2 ^ 40)], ⟨rfl, rfl⟩, 0, (by decide +kernel), 0, (by decide +kernel), (by decide +kernel)⟩⟩

theorem witness_FailuresComplete :
  (∃ (s : State), s.Ready ∧ ∃ k : BitVec 4, s.boot.phase = .running) ∧
  (∃ (s : State), s.Ready ∧ ∃ q : BitVec 2, s.boot.phase = .running) ∧
  (∃ (s : State), s.Ready ∧ ∃ (ok : Bool), s.boot.phase = .running ∧ (ok = false ∨ ∃ t, s.err.starterLast = some t ∧
    s.now - t < 1000000000)) ∧
  (∃ (s : State), s.Ready ∧ ∃ (ok : Bool), s.boot.phase = .running ∧ ok = true ∧ (∀ t, s.err.starterLast = some t →
    1000000000 ≤ s.now - t)) ∧
  (∃ (s : State), s.Ready ∧ ∃ (q : BitVec 2) (unit : BitVec 3), s.boot.phase = .running ∧ s.quadDead q.toNat = false
    ∧ 1 ≤ unit.toNat ∧ unit.toNat ≤ 5 ∧ (s.unit unit.toNat q.toNat).state ≠ .disabled ∧
    let recent := s.err.ucodeTimes.filter fun x => s.now - x.2 < 1000000000
    (recent.any (·.1 = 8 * q.toNat + unit.toNat)) = true) ∧
  (∃ (s : State), s.Ready ∧ ∃ (q : BitVec 2) (unit : BitVec 3), s.boot.phase = .running ∧ s.quadDead q.toNat = false
    ∧ 1 ≤ unit.toNat ∧ unit.toNat ≤ 5 ∧ (s.unit unit.toNat q.toNat).state ≠ .disabled ∧
    let recent := s.err.ucodeTimes.filter fun x => s.now - x.2 < 1000000000
    (recent.any (·.1 = 8 * q.toNat + unit.toNat)) = false ∧ s.unitCmds unit.toNat q.toNat ≠ []) ∧
  (∃ (s : State), s.Ready ∧ ∃ (q : BitVec 2) (unit : BitVec 3), s.boot.phase = .running ∧ s.quadDead q.toNat = false
    ∧ 1 ≤ unit.toNat ∧ unit.toNat ≤ 5 ∧ (s.unit unit.toNat q.toNat).state ≠ .disabled ∧
    let recent := s.err.ucodeTimes.filter fun x => s.now - x.2 < 1000000000
    (recent.any (·.1 = 8 * q.toNat + unit.toNat)) = false ∧ s.unitCmds unit.toNat q.toNat = []) ∧
  (∃ (s : State), s.Ready ∧ (s.flash.state = .ready ∨ s.flash.state = .starting) ∧ (∃ w, s.flash.wdLast = some w ∧
    s.now - w < 1000000000)) ∧
  (∃ (s : State), s.Ready ∧ (s.flash.state = .ready ∨ s.flash.state = .starting) ∧ (∀ w, s.flash.wdLast = some w →
    1000000000 ≤ s.now - w)) ∧
  (∃ (s : State), s.Ready ∧ ∃ p : BitVec 1, s.photHealth p.toNat ≠ .failed ∧ s.pwr.dspLoaded.getLsbD p.toNat = true) :=
  ⟨⟨live, ⟨rfl, rfl⟩, 15, (by decide +kernel)⟩,
   ⟨live, ⟨rfl, rfl⟩, 3, (by decide +kernel)⟩,
   ⟨{ live with now := 999999999, err := { starterLast := some 0 } }, ⟨rfl, rfl⟩, true, (by decide +kernel), .inr ⟨0, rfl, by decide +kernel⟩⟩,
   ⟨{ live with now := 1000000000, err := { starterLast := some 0 } }, ⟨rfl, rfl⟩, true, (by decide +kernel), rfl, by rintro t ⟨⟩; decide +kernel⟩,
   ⟨{ live with now := 999999999, err := { ucodeTimes := [(5, 0)] } }, ⟨rfl, rfl⟩, 0, 5, (by decide +kernel), (by decide +kernel), (by decide +kernel), (by decide +kernel), (by decide +kernel), (by decide +kernel)⟩,
   ⟨working [engCmd (engine 1 1)], ⟨rfl, rfl⟩, 0, 1, (by decide +kernel), (by decide +kernel), (by decide +kernel), (by decide +kernel), (by decide +kernel), (by decide +kernel), (by decide +kernel)⟩,
   ⟨live, ⟨rfl, rfl⟩, 3, 5, (by decide +kernel), (by decide +kernel), (by decide +kernel), (by decide +kernel), (by decide +kernel), (by decide +kernel), (by decide +kernel)⟩,
   ⟨{ live with now := 999999999, flash := { state := .ready, wdLast := some 0 } }, ⟨rfl, rfl⟩, (by decide +kernel), 0, rfl, (by decide +kernel)⟩,
   ⟨{ live with now := 1000000000, flash := { state := .ready, wdLast := some 0 } }, ⟨rfl, rfl⟩, (by decide +kernel), by rintro t ⟨⟩; decide +kernel⟩,
   ⟨{ live with pwr := { live.pwr with dspLoaded := 2 } }, ⟨rfl, rfl⟩, 1, (by decide +kernel), (by decide +kernel)⟩⟩

theorem witness_UpdateAndAttestationComplete :
  (∃ (s : State) (v : Word), s.Ready ∧ ∃ id rest c o what nonce, s.attests = id :: rest ∧ s.findCmd id = some c ∧ c.src
    = .msg o ∧ c.body = .attest what nonce) ∧
  (∃ (s : State) (v : Word), s.Ready ∧ s.reaches { reg := .secUpdCtl } = true ∧ (s.boot.updState = .idle ∨
    s.boot.updState = .staged) ∧ s.boot.trial = false) ∧
  (∃ (s : State) (v : Word), s.Ready ∧ s.reaches { reg := .secUpdCtl } = true ∧ (¬ ((s.boot.updState = .idle ∨
    s.boot.updState = .staged) ∧ s.boot.trial = false))) ∧
  (∃ (s : State) (v : Word), s.Ready ∧ s.reaches { reg := .secUpdCtl } = true ∧ s.boot.updState = .staged) ∧
  (∃ (s : State) (v : Word), s.Ready ∧ s.reaches { reg := .secUpdCtl } = true ∧ s.boot.updState ≠ .staged) ∧
  (∃ (s : State) (v : Word), s.Ready ∧ s.reaches { reg := .secUpdCtl } = true ∧ s.boot.trial = true) ∧
  (∃ (s : State) (v : Word), s.Ready ∧ s.reaches { reg := .secUpdCtl } = true ∧ s.boot.trial = false) ∧
  (∃ (s : State) (v : Word), s.Ready ∧ s.reaches { reg := .secUpdCtl } = true ∧ s.boot.updState = .activated) ∧
  (∃ (s : State) (v : Word), s.Ready ∧ s.reaches { reg := .secUpdCtl } = true ∧ s.boot.updState ≠ .activated) ∧
  (∃ (s : State) (v : Word), s.Ready ∧ s.boot.updState = .verifying ∧ s.updComplete = true) ∧
  (∃ (s : State) (v : Word), s.Ready ∧ s.boot.updState = .writing ∧ s.updComplete = true ∧ digest64 s.boot.updImage =
    s.boot.updDigest) ∧
  (∃ (s : State) (v : Word), s.Ready ∧ s.boot.updState = .writing ∧ ∃ ok, (¬ (ok = true ∧ s.updComplete = false)) ∧
    (¬ (ok = true ∧ digest64 s.boot.updImage = s.boot.updDigest))) :=
  ⟨⟨{ live with cmds := [{ id := 7, src := .msg org, body := .attest 0 [] }] }, 0, ⟨rfl, rfl⟩, 7, [], { id := 7, src := .msg org, body := .attest 0 [] }, org, 0, [], (by decide +kernel), (by decide +kernel), rfl, rfl⟩,
   ⟨live, 0, ⟨rfl, rfl⟩, (by decide +kernel), (by decide +kernel), (by decide +kernel)⟩,
   ⟨{ live with boot := { live.boot with trial := true } }, 0, ⟨rfl, rfl⟩, (by decide +kernel), fun h => absurd h.2 (by decide +kernel)⟩,
   ⟨{ live with boot := { live.boot with updState := .staged } }, 0, ⟨rfl, rfl⟩, (by decide +kernel), (by decide +kernel)⟩,
   ⟨live, 0, ⟨rfl, rfl⟩, (by decide +kernel), (by decide +kernel)⟩,
   ⟨{ live with boot := { live.boot with trial := true } }, 0, ⟨rfl, rfl⟩, (by decide +kernel), (by decide +kernel)⟩,
   ⟨live, 0, ⟨rfl, rfl⟩, (by decide +kernel), (by decide +kernel)⟩,
   ⟨{ live with boot := { live.boot with updState := .activated } }, 0, ⟨rfl, rfl⟩, (by decide +kernel), (by decide +kernel)⟩,
   ⟨live, 0, ⟨rfl, rfl⟩, (by decide +kernel), (by decide +kernel)⟩,
   ⟨{ live with boot := { live.boot with updState := .verifying, updLen := 1, updImage := [0] } }, 0, ⟨rfl, rfl⟩, (by decide +kernel), (by decide +kernel)⟩,
   ⟨writing (digest64 [0]), 0, ⟨rfl, rfl⟩, (by decide +kernel), (by decide +kernel), writing_digest _⟩,
   ⟨writing [], 0, ⟨rfl, rfl⟩, (by decide +kernel), false, (by decide +kernel), (by decide +kernel)⟩⟩

theorem witness_RecoveryCommandsComplete :
  (∃ (s : State) (v : Word), s.Ready ∧ s.reaches { reg := .secRecCtl } = true ∧ s.boot.recBusy ≠ none) ∧
  (∃ (s : State) (v : Word), s.Ready ∧ s.reaches { reg := .secRecCtl } = true ∧
    let slot := bit v 32
    let chunk := bits v 12 0
    let next := if slot = s.boot.recSlot then s.boot.recNext else 0
    s.boot.recBusy = none ∧ chunk = next) ∧
  (∃ (s : State) (v : Word), s.Ready ∧ s.reaches { reg := .secRecCtl } = true ∧
    let slot := bit v 32
    let chunk := bits v 12 0
    let next := if slot = s.boot.recSlot then s.boot.recNext else 0
    s.boot.recBusy = none ∧ chunk ≠ next) ∧
  (∃ (s : State) (v : Word), s.Ready ∧ s.reaches { reg := .secRecCtl } = true ∧ s.boot.recBusy = none) ∧
  (∃ (s : State) (v : Word), s.Ready ∧ s.reaches { reg := .secRecCtl } = true ∧ ∃ b k d, s.boot.recBusy = some (1, b,
    k, d)) ∧
  (∃ (s : State) (v : Word), s.Ready ∧ s.reaches { reg := .secRecCtl } = true ∧ ∃ b k d, s.boot.recBusy = some (2, b,
    k, d)) ∧
  (∃ (s : State) (v : Word), s.Ready ∧ s.reaches { reg := .secRecCtl } = true ∧ ∃ x, s.boot.recBusy = some x) ∧
  (∃ (s : State) (v : Word), s.Ready ∧ s.reaches { reg := .secRecCtl } = true ∧ ∃ (ok : Bool), s.boot.recBusy = none) :=
  ⟨⟨{ live with boot := { live.boot with phase := .startingBlock, recBusy := some (1, false, 0, []) } }, 0, ⟨rfl, rfl⟩, (by decide +kernel), (by decide +kernel)⟩,
   ⟨{ live with boot := { live.boot with phase := .startingBlock } }, 0, ⟨rfl, rfl⟩, (by decide +kernel), (by decide +kernel), (by decide +kernel)⟩,
   ⟨{ live with boot := { live.boot with phase := .startingBlock } }, 1, ⟨rfl, rfl⟩, (by decide +kernel), (by decide +kernel), (by decide +kernel)⟩,
   ⟨{ live with boot := { live.boot with phase := .startingBlock } }, 0, ⟨rfl, rfl⟩, (by decide +kernel), (by decide +kernel)⟩,
   ⟨{ live with boot := { live.boot with phase := .startingBlock, recBusy := some (1, true, 8191, []) } }, 0, ⟨rfl, rfl⟩, (by decide +kernel), true, 8191, [], rfl⟩,
   ⟨{ live with boot := { live.boot with phase := .startingBlock, recBusy := some (2, true, 0, []) } }, 0, ⟨rfl, rfl⟩, (by decide +kernel), true, 0, [], rfl⟩,
   ⟨{ live with boot := { live.boot with phase := .startingBlock, recBusy := some (2, true, 0, []) } }, 0, ⟨rfl, rfl⟩, (by decide +kernel), (2, true, 0, []), rfl⟩,
   ⟨{ live with boot := { live.boot with phase := .startingBlock } }, 0, ⟨rfl, rfl⟩, (by decide +kernel), false, (by decide +kernel)⟩⟩

theorem witness_RegisterRowsComplete :
  (∃ (s : State) (v : Word), s.Ready ∧ ∃ off : BitVec 32, s.regHere off.toNat = none) ∧
  (∃ (s : State) (v : Word), s.Ready ∧ ∃ off : BitVec 32, ∃ a, s.regHere off.toNat = some a ∧ s.reaches a = true) ∧
  (∃ (s : State) (v : Word), s.Ready ∧ s.reaches { reg := .hubLock } = true) ∧
  (∃ (s : State) (v : Word), s.Ready ∧ s.reaches { reg := .hubEvtPop } = true ∧ s.evtEn = false ∧ s.mgt.queue ≠ []) ∧
  (∃ (s : State) (v : Word), s.Ready ∧ s.reaches { reg := .hubEvtPop } = true ∧ (s.evtEn = true ∨ s.mgt.queue = [])) ∧
  (∃ (s : State) (v : Word), s.Ready ∧ s.reaches { reg := .hubPwrCfg } = true) ∧
  (∃ (s : State) (v : Word), s.Ready ∧ ∃ (p : BitVec 1) (k : BitVec 2),
    let a : RegAt := { reg := .phPortCfg, inst := p.toNat, i := k.toNat }
    let w := s.putAt a (storedWrite s a v)
    s.reaches a = true ∧ w.at a = s.at a) ∧
  (∃ (s : State) (v : Word), s.Ready ∧ ∃ (p : BitVec 1) (k : BitVec 2),
    let a : RegAt := { reg := .phPortCfg, inst := p.toNat, i := k.toNat }
    let w := s.putAt a (storedWrite s a v)
    s.reaches a = true ∧ w.at a ≠ s.at a) ∧
  (∃ (s : State) (v : Word), s.Ready ∧ s.reaches { reg := .hubRstCtl } = true) :=
  ⟨⟨live, 0, ⟨rfl, rfl⟩, 4, (by decide +kernel)⟩,
   ⟨live, 0, ⟨rfl, rfl⟩, 0x1000, (regAt? 0x1000).getD { reg := .hubLock }, (by decide +kernel), (by decide +kernel)⟩,
   ⟨live, 0, ⟨rfl, rfl⟩, (by decide +kernel)⟩,
   ⟨{ live with mgt := { queue := [{ type := 1, seq := 0, time := 0, body := [] }] } }, 0, ⟨rfl, rfl⟩, (by decide +kernel), (by decide +kernel), (by decide +kernel)⟩,
   ⟨live, 0, ⟨rfl, rfl⟩, (by decide +kernel), (by decide +kernel)⟩,
   ⟨live, 0, ⟨rfl, rfl⟩, (by decide +kernel)⟩,
   ⟨live, 1, ⟨rfl, rfl⟩, 1, 3, (by decide +kernel), (by decide +kernel)⟩,
   ⟨live, 0, ⟨rfl, rfl⟩, 1, 3, (by decide +kernel), (by decide +kernel)⟩,
   ⟨live, 0, ⟨rfl, rfl⟩, (by decide +kernel)⟩⟩

theorem witness_SmbusComplete :
  (∃ (s : State) (off : BitVec 32) (v : Word), s.due = [] ∧ s.pwr.pwrgd = true ∧ ∃ n pec code,
    let c := s.smbCheck true n 12 off.toNat pec code
    ∃ st, c = (st, none)) ∧
  (∃ (s : State) (off : BitVec 32) (v : Word), s.due = [] ∧ s.pwr.pwrgd = true ∧ ∃ n pec code,
    let c := s.smbCheck true n 12 off.toNat pec code
    ∃ a, c = (stOk, some a)) ∧
  (∃ (s : State) (off : BitVec 32) (v : Word), s.due = [] ∧ s.pwr.pwrgd = true ∧ s.alerting = true) :=
  ⟨⟨powered, 0, 0, rfl, rfl, 12, false, true, stMalformed, (by decide +kernel)⟩,
   ⟨powered, 0x308, 0, rfl, rfl, 12, true, true, { reg := .hubAlertMask }, (by decide +kernel)⟩,
   ⟨{ powered with mgt := { stop := true } }, 0, 0, rfl, rfl, (by decide +kernel)⟩⟩

theorem witness_PowerEventsComplete :
  (∃ (s : State), s.due = [] ∧ ∃ x : Sensors, s.err.stopped = false ∧ s.boot.phase ≠ .reset ∧
    let die := x.die.zipIdx.map fun t => report (s.dieFailed t.2) t.1
    let stk := x.stk.zipIdx.map fun t => report (s.stackHealth t.2 = .failed) t.1
    let hot (lim : Nat) (ts : List Nat) : Bool := ts.any fun t => t != 0xFF && lim ≤ t
    let trig : BitVec 3 := (if hot s.throtTj die then 1 else 0) ||| (if hot s.hbmTmax stk then 2 else 0) ||| (if
      s.pCoreMax < x.coreW then 4 else 0)
    s.pwr.throttled = false ∧ trig = 0) ∧
  (∃ (s : State), s.due = [] ∧ ∃ x : Sensors, s.err.stopped = false ∧ s.boot.phase ≠ .reset ∧
    let die := x.die.zipIdx.map fun t => report (s.dieFailed t.2) t.1
    let stk := x.stk.zipIdx.map fun t => report (s.stackHealth t.2 = .failed) t.1
    let hot (lim : Nat) (ts : List Nat) : Bool := ts.any fun t => t != 0xFF && lim ≤ t
    let trig : BitVec 3 := (if hot s.throtTj die then 1 else 0) ||| (if hot s.hbmTmax stk then 2 else 0) ||| (if
      s.pCoreMax < x.coreW then 4 else 0)
    s.pwr.throttled = false ∧ trig ≠ 0) ∧
  (∃ (s : State), s.due = [] ∧ ∃ x : Sensors, s.err.stopped = false ∧ s.boot.phase ≠ .reset ∧
    let die := x.die.zipIdx.map fun t => report (s.dieFailed t.2) t.1
    let stk := x.stk.zipIdx.map fun t => report (s.stackHealth t.2 = .failed) t.1
    let hot (lim : Nat) (ts : List Nat) : Bool := ts.any fun t => t != 0xFF && lim ≤ t
    s.pwr.throttled = true ∧
    let cool := !hot (s.throtTj - s.hyst + 1) die && !hot (s.hbmTmax - s.hyst + 1) stk && decide (x.coreW * 100 < 95
      * s.pCoreMax)
    cool = false) ∧
  (∃ (s : State), s.due = [] ∧ ∃ x : Sensors, s.err.stopped = false ∧ s.boot.phase ≠ .reset ∧
    let die := x.die.zipIdx.map fun t => report (s.dieFailed t.2) t.1
    let stk := x.stk.zipIdx.map fun t => report (s.stackHealth t.2 = .failed) t.1
    let hot (lim : Nat) (ts : List Nat) : Bool := ts.any fun t => t != 0xFF && lim ≤ t
    s.pwr.throttled = true ∧
    let cool := !hot (s.throtTj - s.hyst + 1) die && !hot (s.hbmTmax - s.hyst + 1) stk && decide (x.coreW * 100 < 95
      * s.pCoreMax)
    cool = true ∧ s.pwr.clearSince = none) ∧
  (∃ (s : State), s.due = [] ∧ ∃ x : Sensors, s.err.stopped = false ∧ s.boot.phase ≠ .reset ∧
    let die := x.die.zipIdx.map fun t => report (s.dieFailed t.2) t.1
    let stk := x.stk.zipIdx.map fun t => report (s.stackHealth t.2 = .failed) t.1
    let hot (lim : Nat) (ts : List Nat) : Bool := ts.any fun t => t != 0xFF && lim ≤ t
    s.pwr.throttled = true ∧
    let cool := !hot (s.throtTj - s.hyst + 1) die && !hot (s.hbmTmax - s.hyst + 1) stk && decide (x.coreW * 100 < 95
      * s.pCoreMax)
    ∃ t, cool = true ∧ s.pwr.clearSince = some t ∧ s.now - t < 10000000) ∧
  (∃ (s : State), s.due = [] ∧ ∃ x : Sensors, s.err.stopped = false ∧ s.boot.phase ≠ .reset ∧
    let die := x.die.zipIdx.map fun t => report (s.dieFailed t.2) t.1
    let stk := x.stk.zipIdx.map fun t => report (s.stackHealth t.2 = .failed) t.1
    let hot (lim : Nat) (ts : List Nat) : Bool := ts.any fun t => t != 0xFF && lim ≤ t
    s.pwr.throttled = true ∧
    let cool := !hot (s.throtTj - s.hyst + 1) die && !hot (s.hbmTmax - s.hyst + 1) stk && decide (x.coreW * 100 < 95
      * s.pCoreMax)
    ∃ t, cool = true ∧ s.pwr.clearSince = some t ∧ 10000000 ≤ s.now - t) ∧
  (∃ (s : State), s.due = [] ∧ ∃ mv, s.pwr.avsPending = some mv ∧ s.err.stopped = false) ∧
  (∃ (s : State), s.due = [] ∧ ∃ (ok : Bool), s.pwr.avsPending = none) ∧
  (∃ (s : State), s.due = [] ∧ ∃ (stack : Bool) (i : Nat) (temp : Nat), s.pwr.pwrgd = true ∧ s.boot.phase ≠ .reset ∧
    (if stack then 110 else 125) ≤ temp ∧ i < (if stack then 16 else 8)) ∧
  (∃ (s : State), s.due = [] ∧ ∃ (stack : Bool) (i : Nat) (temp : Nat), s.pwr.pwrgd = true ∧ s.boot.phase = .reset ∧
    (if stack then 110 else 125) ≤ temp ∧ i < (if stack then 16 else 8)) ∧
  (∃ (s : State), s.due = [] ∧ ∃ (stack : Bool) (i : Nat) (temp : Nat), temp < (if stack then 110 else 125)) ∧
  (∃ (s : State), s.due = [] ∧ ∃ i : BitVec 3, i.toNat < 7 ∧ s.pwr.clkAbsent.getLsbD i.toNat = false) :=
  ⟨⟨live, rfl, { die := [0], stk := [84], coreW := 0 }, rfl, (by decide +kernel), (by decide +kernel), (by decide +kernel)⟩,
   ⟨live, rfl, { die := [0], stk := [], coreW := 1841 }, rfl, (by decide +kernel), (by decide +kernel), (by decide +kernel)⟩,
   ⟨{ live with now := 0, pwr := { live.pwr with throttled := true, clearSince := none } }, rfl, { die := [], stk := [], coreW := 2000 }, rfl, (by decide +kernel), (by decide +kernel), (by decide +kernel)⟩,
   ⟨{ live with now := 0, pwr := { live.pwr with throttled := true, clearSince := none } }, rfl, { die := [], stk := [], coreW := 0 }, rfl, (by decide +kernel), (by decide +kernel), (by decide +kernel), rfl⟩,
   ⟨{ live with now := 9999999, pwr := { live.pwr with throttled := true, clearSince := some 0 } }, rfl, { die := [], stk := [], coreW := 0 }, rfl, (by decide +kernel), (by decide +kernel), 0, (by decide +kernel), rfl, (by decide +kernel)⟩,
   ⟨{ live with now := 10000000, pwr := { live.pwr with throttled := true, clearSince := some 0 } }, rfl, { die := [], stk := [], coreW := 0 }, rfl, (by decide +kernel), (by decide +kernel), 0, (by decide +kernel), rfl, (by decide +kernel)⟩,
   ⟨powered { avsPending := some 700 }, rfl, 700, rfl, rfl⟩,
   ⟨live, rfl, true, rfl⟩,
   ⟨powered, rfl, true, 15, 110, rfl, (by decide +kernel), (by decide +kernel), (by decide +kernel)⟩,
   ⟨{ State.reset with pwr := { pwrgd := true } }, rfl, true, 15, 110, rfl, rfl, (by decide +kernel), (by decide +kernel)⟩,
   ⟨live, rfl, false, 7, 124, (by decide +kernel)⟩,
   ⟨live, rfl, 6, (by decide +kernel), (by decide +kernel)⟩⟩

theorem witness_StartAndResetsComplete :
  (∃ (s : State), s.due = [] ∧ ∃ (ns : Nat) (resets : Bool), (50 ≤ ns ∨ 20 ≤ ns ∧ resets = true)) ∧
  (∃ (s : State), s.due = [] ∧ ∃ (ns : Nat) (resets : Bool), (ns < 20 ∨ ns < 50 ∧ resets = false)) ∧
  (∃ (s : State), s.due = [] ∧ ∃ (smb : BitVec 3) (recovery : Bool) (nor : Bool) (ident : Bool) (nand : NandPop),
    (s.boot.phase ≠ .reset ∨ s.pwr.pwrgd = false)) ∧
  (∃ (s : State), s.due = [] ∧ ∃ (smb : BitVec 3) (recovery : Bool) (nor : Bool) (ident : Bool) (nand : NandPop),
    s.boot.phase = .reset ∧ s.pwr.pwrgd = true) ∧
  (∃ (s : State), s.due = [] ∧ ∃ (links : BitVec 32), s.boot.phase = .starting ∧ s.err.stopped = false) ∧
  (∃ (s : State), s.due = [] ∧ s.pwr.pwrgd = true) ∧
  (∃ (s : State), s.due = [] ∧ s.pwr.pwrgd = false) ∧
  (∃ (s : State), s.due = [] ∧ ∃ mv, mv < 570 ∧ s.pwr.pwrgd = true ∧ s.pwr.perst = true) ∧
  (∃ (s : State), s.due = [] ∧ ∃ mv, 570 ≤ mv) ∧
  (∃ (s : State), s.due = [] ∧ ∃ t, s.pwr.resetAt = some t ∧ t ≤ s.now) ∧
  (∃ (s : State), s.due = [] ∧ s.pwr.resetAt = none) :=
  ⟨⟨live, rfl, 20, true, (by decide +kernel)⟩,
   ⟨live, rfl, 19, true, (by decide +kernel)⟩,
   ⟨State.reset, rfl, 0, true, false, false, tray 1, .inr rfl⟩,
   ⟨{ State.reset with pwr := { pwrgd := true } }, rfl, 0, true, false, false, tray 1, rfl, rfl⟩,
   ⟨{ powered with boot := { phase := .starting } }, rfl, 0, rfl, rfl⟩,
   ⟨powered, rfl, rfl⟩,
   ⟨live, rfl, rfl⟩,
   ⟨powered { pwrgd := true, perst := true }, rfl, 569, (by decide +kernel), rfl, rfl⟩,
   ⟨live, rfl, 570, (by decide +kernel)⟩,
   ⟨powered { resetAt := some 0 }, rfl, 0, rfl, (by decide +kernel)⟩,
   ⟨live, rfl, rfl⟩⟩

theorem witness_RowsThatMayNotActDoNothing :
  (∃ (s : State), s.Ready ∧ ∃ n c, (∀ t, (s.rxOf n c).ackDue = some t → s.now - t < s.ackDelay ∨ (s.sess n).state ≠
    .open ∧ (s.sess n).state ≠ .closing)) ∧
  (∃ (s : State), s.Ready ∧ ∃ n c, (∀ t, (s.txOf n c).armed = some t → (s.txOf n c).unacked = [] ∨ s.now - t <
    (s.txOf n c).rto)) ∧
  (∃ (s : State), s.Ready ∧ ∃ n, ((s.sess n).state = .opening → s.now - (s.sess n).since < s.rtoMax)) ∧
  (∃ (s : State), s.Ready ∧ ∃ n, (s.sessCmds n (s.sess n).inc ≠ [] ∨ (s.sess n).state ≠ .closing ∧ (s.sess n).state ≠
    .failed ∨ (s.sess n).state = .closing ∧ ((s.sess n).tx.all fun t => t.2.unacked.isEmpty && t.2.waiting.isEmpty) =
    false)) ∧
  (∃ (s : State), s.Ready ∧ ∃ (id : Nat) (c : _) (o : _), s.findCmd id = some c ∧ c.src = .msg o ∧ ∃ upto, c.body =
    .fence upto ∧ s.sessLive o.sess o.inc = true ∧ s.fenceDone id o upto = false) ∧
  (∃ (s : State), s.Ready ∧ ∃ (id : Nat) (c : _) (o : _), s.findCmd id = some c ∧ c.src = .msg o ∧ ∃ ids, c.body =
    .drain ids ∧ ((s.cmds.any fun c => ids.contains c.id) = true)) ∧
  (∃ (s : State), s.Ready ∧ ∃ (id : Nat) (c : _) (o : _), s.findCmd id = some c ∧ c.src = .msg o ∧ ∃ a, c.body =
    .held a ∧ s.signalWaits o = true) ∧
  (∃ (s : State), s.Ready ∧ ∃ (tag : Nat) (t : Nat) (r : _), (s.xp.reqs.find? (·.1 = tag)) = some (t, r) ∧ ∃ (l :
    Nat) (i : _), r.kind = .recall l i ∧ s.now - r.since < s.recallTo (s.entry l).domain) ∧
  (∃ (s : State), s.Ready ∧ ∃ (tag : Nat) (t : Nat) (r : _), (s.xp.reqs.find? (·.1 = tag)) = some (t, r) ∧ ∃ (c : _)
    (p : Nat) (b : _), r.kind = .fwd c p b ∧ s.now - r.since < s.borrowTo) ∧
  (∃ (s : State), s.Ready ∧ ∃ (tag : Nat) (t : Nat) (r : _), (s.xp.reqs.find? (·.1 = tag)) = some (t, r) ∧ ∃ (id :
    Nat) (e : _), r.kind = .hdlPeer id ∧ s.eng id = some e ∧ (e.op = 5 ∧ field e.body 28 4 = 0 ∨ s.now - r.since <
    field e.body 28 4 * 1000 + s.borrowTo)) ∧
  (∃ (s : State), s.Ready ∧ ∃ d : BitVec 8, (s.domState d.toNat ≠ .failing ∨ (s.cmds.any fun c => c.ctx != 0 &&
    (s.slotIn d.toNat c.ctx).isSome) = true ∨ (s.dir.entries.any fun x => x.2.domain = d.toNat) = true)) ∧
  (∃ (s : State), s.Ready ∧ ∃ (l : Nat), (s.busy l = true ∨ s.dir.parked.find? (·.1 = l) = none)) ∧
  (∃ (s : State), s.Ready ∧ ∃ (id : Nat), s.acc id = none) ∧
  (∃ (s : State), s.Ready ∧ ∃ e : BitVec 12, s.extState e.toNat ≠ .filling) ∧
  (∃ (s : State), s.Ready ∧ ∃ e : BitVec 12, (s.extState e.toNat ≠ .revoking ∨ s.extInFlight e.toNat ≠ 0)) ∧
  (∃ (s : State), s.Ready ∧ ∃ r : BitVec 16, (s.region r.toNat).state ≠ .declaring) ∧
  (∃ (s : State), s.Ready ∧ ∃ r : BitVec 16, ∃ (p : Nat), ((s.region r.toNat).state ≠ .ready ∧ (s.region
    r.toNat).state ≠ .folding ∨ s.foldable r.toNat p = none)) ∧
  (∃ (s : State), s.Ready ∧ ∃ r : BitVec 16, ((s.region r.toNat).state ≠ .folding ∨ (s.vr.pages.any fun g => g.region
    = r.toNat) = true)) ∧
  (∃ (s : State), s.Ready ∧ ∃ (ok : Bool), s.flash.state ≠ .starting ∧ (s.flash.state ≠ .ready ∨ ok = true)) ∧
  (∃ (s : State), s.Ready ∧ ∃ (q : BitVec 2) (k : BitVec 3),
    let x := s.stream q.toNat k.toNat
    (x.state ≠ .running ∨ x.head + x.lead ≤ x.nextFetch ∨ s.maxInflight q.toNat ≤ x.inflight.length ∨ x.beyond
      x.nextFetch = true)) ∧
  (∃ (s : State), s.Ready ∧ ∃ (q : BitVec 2) (k : BitVec 3),
    let x := s.stream q.toNat k.toNat
    ∃ (t : Nat), (x.state ≠ .running ∧ x.state ≠ .draining ∨ x.inflight.contains (t, 0) = false)) ∧
  (∃ (s : State), s.Ready ∧ ∃ (q : BitVec 2) (k : BitVec 3),
    let x := s.stream q.toNat k.toNat
    (x.state = .draining → x.inflight ≠ [] ∨ x.beyond x.head = false) ∧ (x.state = .ending → (x.inflight.all fun e =>
      e.2 = 0) = false)) ∧
  (∃ (s : State), s.Ready ∧ ∃ (id : Nat) (e : _), s.eng id = some e ∧ (∀ t, (e.prog?.bind fun p => p.waitSince) =
    some t → s.now - t < s.lateTo e.quad)) ∧
  (∃ (s : State), s.Ready ∧ ∃ (q : BitVec 2) (k : BitVec 4) (row : BitVec 2 → BitVec 4 → Instr) (op : Nat), (row, op)
    ∈ [(Instr.teLoad, 1), (Instr.teMatmul, 2), (Instr.teAttend, 3), (Instr.teNorm, 4), (Instr.teAcc, 5),
    (Instr.teStore, 6)] ∧ s.nextEntry q.toNat k.toNat op = none) ∧
  (∃ (s : State), s.Ready ∧ ∃ l : BitVec 8, ((s.lane l.toNat).state ≠ .offered ∨ (s.lane l.toNat).offerOk = false ∨
    (s.lane l.toNat).imageBytes ≤ (s.lane l.toNat).sent)) ∧
  (∃ (s : State), s.Ready ∧ ∃ l : BitVec 8, s.now - (s.lane l.toNat).since < s.batonTo) ∧
  (∃ (s : State), s.Ready ∧ ∃ q : BitVec 2, (s.threads q.toNat ≤ s.threadsBusy q.toNat ∨ s.threadless q.toNat = [])) ∧
  (∃ (s : State), s.Ready ∧ ∃ (id : Nat) (e : _), s.eng id = some e ∧ (e.unit ≠ 4 ∨ e.started = false ∨ e.relay =
    false ∨ s.now - e.since < s.relayTo e.grp)) ∧
  (∃ (s : State), s.Ready ∧ ∃ (id : Nat) (h : _), s.heat id = some h ∧ s.now - h.since < s.relayTo h.group) ∧
  (∃ (s : State), s.Ready ∧ ∃ (id : Nat) (w : _), ((s.hdl.watches.find? fun w => w.to_ = .cmd id) = some w) ∧
    (w.timeout = 0 ∨ s.now - w.since < w.timeout)) ∧
  (∃ (s : State), s.Ready ∧ ∃ (u : BitVec 3) (q : BitVec 2),
    let x := s.unit u.toNat q.toNat
    (x.state ≠ .quiescing ∨ s.now - x.since < s.quiesceTo u.toNat q.toNat)) ∧
  (∃ (s : State), s.Ready ∧ ∃ (u : BitVec 3) (q : BitVec 2),
    let x := s.unit u.toNat q.toNat
    (x.state ≠ .quiescing ∧ x.state ≠ .killing ∨ s.unitCmds u.toNat q.toNat ≠ [])) ∧
  (∃ (s : State), s.Ready ∧ ∃ (p : Nat) (c : BitVec 3), s.sw.paused.find? (·.1 = 8 * p + c.toNat) = none) ∧
  (∃ (s : State), s.Ready ∧ ∃ e : BitVec 3, (s.gateEn e.toNat = false ∨ (s.gates e.toNat).pending = false ∨ s.now <
    (s.gates e.toNat).nextStart)) ∧
  (∃ (s : State), s.Ready ∧ ∃ e : BitVec 3, (s.gates e.toNat).running = false) ∧
  (∃ (s : State), s.Ready ∧ ∃ p : BitVec 5, s.linkUp p.toNat = false) ∧
  (∃ (s : State), s.Ready ∧ ∃ p : BitVec 5, s.canLink p.toNat = false) ∧
  (∃ (s : State), s.Ready ∧ ∃ p : BitVec 5, ((s.nbr p.toNat).valid = false ∨ s.now < (s.nbr p.toNat).expires)) ∧
  (∃ (s : State), s.Ready ∧ ∃ p : BitVec 5, ∃ (f : LldpFrame), (s.serving = false ∨ s.linkUp p.toNat = false)) ∧
  (∃ (s : State), s.Ready ∧ (s.serving = false ∨ bit (s.hub .fabHbCfg) 32 = false ∨ s.now - s.fab.lldpLast <
    s.lldpInt * 1000000)) ∧
  (∃ (s : State), s.Ready ∧ (s.fab.state ≠ .member ∨ s.leaseTo = 0 ∨ s.now - s.fab.leaseFrom < s.leaseTo)) ∧
  (∃ (s : State), s.Ready ∧ (bits (s.hub .fabHbCfg) 15 0 = 0 ∨ s.idValid = false ∨ s.now - s.fab.hbLast < bits (s.hub
    .fabHbCfg) 15 0 * 100000)) ∧
  (∃ (s : State), s.Ready ∧ (s.fab.servo.tracking = false ∨ s.now - s.fab.servo.lastSync < 3000000000)) ∧
  (∃ (s : State), s.Ready ∧ s.boot.phase ≠ .running) ∧
  (∃ (s : State), s.Ready ∧ s.flash.state ≠ .ready ∧ s.flash.state ≠ .starting) ∧
  (∃ (s : State), s.Ready ∧ ∃ p : BitVec 1, (s.photHealth p.toNat = .failed ∨ s.pwr.dspLoaded.getLsbD p.toNat =
    false)) ∧
  (∃ (s : State), s.Ready ∧ s.attests = []) ∧
  (∃ (s : State), s.Ready ∧ (s.evtEn = false ∨ (s.sess s.evtSess).state ≠ .open)) ∧
  (∃ (s : State), s.Ready ∧ ∃ (x : Sensors), s.boot.phase = .reset) ∧
  (∃ (s : State), s.Ready ∧ ∃ (links : BitVec 32), s.boot.phase ≠ .starting) ∧
  (∃ (s : State), s.Ready ∧ ∃ (t : Nat), s.pwr.resetAt = some t ∧ s.now < t) ∧
  (∃ (s : State), s.Ready ∧ s.pwr.pwrgd = true) ∧
  (∃ (s : State), s.Ready ∧ s.pwr.pwrgd = false) ∧
  (∃ (s : State) (c : Instr) (a : RegAt) (v : Word) (n : Nat) (q k : BitVec 2) (g : BitVec 3) (h : BitVec 4) (r :
    BitVec 8) (e : BitVec 12) (w : BitVec 16) (p : BitVec 1) (u : BitVec 3) (ok : Bool), s.Ready ∧ s.reaches a =
    false ∧ (c, a) ∈ [(Instr.sessAbort n v, ({ reg := .hubSessCtl, i := n } : RegAt)), (.segAttrCommit e h v,
    { reg := .hubSegAttr, i := e.toNat, j := h.toNat }), (.extActivate e v, { reg := .hubExtCtl, i := e.toNat }),
    (.extRevoke e v, { reg := .hubExtCtl, i := e.toNat }), (.extRelease e v, { reg := .hubExtCtl, i := e.toNat }),
    (.hubRcInval v, { reg := .hubRcInval }), (.dirDomUp r v, { reg := .dirDomCfg, i := r.toNat }), (.dirDomDown r v,
    { reg := .dirDomCfg, i := r.toNat }), (.dirDomClear r v, { reg := .dirDomCfg, i := r.toNat }), (.dirPeekAddr q v,
    { reg := .dirPeekAddr, inst := q.toNat }), (.vrDeclare w v, { reg := .vrRegCtl, i := w.toNat }), (.vrUndeclare w
    v, { reg := .vrRegCtl, i := w.toNat }), (.vrPoolAttach q k v, { reg := .vrPool, inst := q.toNat, i := k.toNat }),
    (.flsStart v, { reg := .flsCfg }), (.sqLaneDrop r,
    { reg := .sqLaneCtl, inst := r.toNat / 64, i := r.toNat % 64 }), (.seCfgScratch q v,
    { reg := .seCfg, inst := q.toNat }), (.guCfgBuffer q v, { reg := .guCfg, inst := q.toNat }), (.qdCtxSaveArea q v,
    { reg := .qdCtxCfg, inst := q.toNat }), (.engQuiesce u q v, engCtl u.toNat q.toNat), (.engKill u q v, engCtl
    u.toNat q.toNat), (.engEnable u q v, engCtl u.toNat q.toNat)] ++ [(.swFlowCommit r v,
    { reg := .swFlowMatch, i := r.toNat }), (.swPolRate n v, { reg := .swPolRate, i := n }), (.gateCommit g v,
    { reg := .swGateCtl, i := g.toNat }), (.gateDisable g v, { reg := .swGateCtl, i := g.toNat }), (.fabJoin v,
    { reg := .fabCtl }), (.fabIsolate v, { reg := .fabCtl }), (.fabRelease v, { reg := .fabCtl }), (.fabChg v,
    { reg := .fabChg }), (.fabCommit v, { reg := .fabCommit }), (.fabDiscard v, { reg := .fabCommit }),
    (.fabLeaseRenew v, { reg := .fabLease }), (.hubErrLogAck v, { reg := .hubErrLogAck }), (.hubErrInj v,
    { reg := .hubErrInj }), (.secUpdStage v, { reg := .secUpdCtl }), (.secUpdActivate v, { reg := .secUpdCtl }),
    (.secUpdConfirm v, { reg := .secUpdCtl }), (.secUpdCancel v, { reg := .secUpdCtl }), (.secRecWrite v,
    { reg := .secRecCtl }), (.secRecCommit v, { reg := .secRecCtl }), (.secRecReset v, { reg := .secRecCtl }),
    (.hubLock v, { reg := .hubLock }), (.hubEvtPop v, { reg := .hubEvtPop }), (.pwrCfgWrite v ok,
    { reg := .hubPwrCfg }), (.phPortCfg p k v, { reg := .phPortCfg, inst := p.toNat, i := k.toNat }), (.hubRstCtl v,
    { reg := .hubRstCtl })]) :=
  ⟨⟨live, ⟨rfl, rfl⟩, 81919, 7, by rintro t ⟨⟩⟩,
   ⟨live, ⟨rfl, rfl⟩, 81919, 7, by rintro t ⟨⟩⟩,
   ⟨live, ⟨rfl, rfl⟩, 5, fun _ => (by decide +kernel)⟩,
   ⟨live, ⟨rfl, rfl⟩, 5, (by decide +kernel)⟩,
   ⟨{ live with cmds := [{ id := 1, src := .msg { org with typ := 0x11, seq := 0 }, body := .access { kind := .write, gfa := 0, len := 8 } }, { id := 2, src := .msg { org with typ := 0x13, seq := 1 }, body := .fence [(0, 1)] }] }, ⟨rfl, rfl⟩, 2, { id := 2, src := .msg { org with typ := 0x13, seq := 1 }, body := .fence [(0, 1)] }, { org with typ := 0x13, seq := 1 }, rfl, rfl, _, rfl, (by decide +kernel), (by decide +kernel)⟩,
   ⟨{ live with cmds := [{ id := 1, src := .msg { org with typ := 0x11, seq := 0 }, body := .access { kind := .write, gfa := 0, len := 8 } }, { id := 2, src := .msg { org with typ := 0x13, seq := 1 }, body := .drain [1] }] }, ⟨rfl, rfl⟩, 2, { id := 2, src := .msg { org with typ := 0x13, seq := 1 }, body := .drain [1] }, { org with typ := 0x13, seq := 1 }, rfl, rfl, _, rfl, (by decide +kernel)⟩,
   ⟨{ live with cmds := [{ id := 1, src := .msg { org with typ := 0x11, seq := 0 }, body := .access { kind := .write, gfa := 0, len := 8 } }, { id := 2, src := .msg { org with typ := 0x13, seq := 1 }, body := .held { kind := .write, gfa := 0, len := 8 } }] }, ⟨rfl, rfl⟩, 2, { id := 2, src := .msg { org with typ := 0x13, seq := 1 }, body := .held { kind := .write, gfa := 0, len := 8 } }, { org with typ := 0x13, seq := 1 }, rfl, rfl, _, rfl, (by decide +kernel)⟩,
   ⟨{ live with now := 9, xp := { live.xp with reqs := [(3, { kind := .recall 0 0, sess := 5, inc := 0, since := 9, peer := 0 })] } }, ⟨rfl, rfl⟩, 3, 3, _, rfl, 0, 0, rfl, (by decide +kernel)⟩,
   ⟨{ live with now := 9, xp := { live.xp with reqs := [(3, { kind := .fwd 0 0 0, sess := 5, inc := 0, since := 9, peer := 0 })] } }, ⟨rfl, rfl⟩, 3, 3, _, rfl, 0, 0, 0, rfl, (by decide +kernel)⟩,
   ⟨{ live with xp := { live.xp with reqs := [(3, { kind := .hdlPeer 7, sess := 5, inc := 0, since := 0, peer := 0 })] }, cmds := [engCmd (engine 7 5)] }, ⟨rfl, rfl⟩, 3, 3, _, rfl, 7, engine 7 5, rfl, rfl, (by decide +kernel)⟩,
   ⟨live, ⟨rfl, rfl⟩, 255, (by decide +kernel)⟩,
   ⟨live, ⟨rfl, rfl⟩, 7, (by decide +kernel)⟩,
   ⟨live, ⟨rfl, rfl⟩, 7, rfl⟩,
   ⟨withExt 0 .active 0, ⟨rfl, rfl⟩, 0, (by decide +kernel)⟩,
   ⟨withExt 0 .active 0, ⟨rfl, rfl⟩, 0, (by decide +kernel)⟩,
   ⟨live, ⟨rfl, rfl⟩, 0, (by decide +kernel)⟩,
   ⟨live, ⟨rfl, rfl⟩, 0, 5, (by decide +kernel)⟩,
   ⟨live, ⟨rfl, rfl⟩, 0, (by decide +kernel)⟩,
   ⟨live, ⟨rfl, rfl⟩, true, (by decide +kernel), (by decide +kernel)⟩,
   ⟨live, ⟨rfl, rfl⟩, 3, 7, (by decide +kernel)⟩,
   ⟨live, ⟨rfl, rfl⟩, 3, 7, 0, (by decide +kernel)⟩,
   ⟨live, ⟨rfl, rfl⟩, 3, 7, (by decide +kernel), (by decide +kernel)⟩,
   ⟨working [engCmd (engine 1 1)], ⟨rfl, rfl⟩, 7, _, rfl, by rintro t ⟨⟩⟩,
   ⟨live, ⟨rfl, rfl⟩, 3, 15, .teStore, 6, by simp, (by decide +kernel)⟩,
   ⟨live, ⟨rfl, rfl⟩, 255, (by decide +kernel)⟩,
   ⟨live, ⟨rfl, rfl⟩, 255, (by decide +kernel)⟩,
   ⟨live, ⟨rfl, rfl⟩, 3, (by decide +kernel)⟩,
   ⟨working [engCmd (engine 1 1)], ⟨rfl, rfl⟩, 7, _, rfl, (by decide +kernel)⟩,
   ⟨working [{ id := 7, src := .hurdle, body := .heat { group := 1, src := 2, quad := 0, payload := [], since := 2 ^ 40 } }], ⟨rfl, rfl⟩, 7, { group := 1, src := 2, quad := 0, payload := [], since := 2 ^ 40 }, (by decide +kernel), (by decide +kernel)⟩,
   ⟨{ live with now := 1, hdl := { watches := [{ n := 9, hurdle := 1, cond := 0, target := 0, to_ := .cmd 9, tenant := 0, since := 0, timeout := 2 }] } }, ⟨rfl, rfl⟩, 9, { n := 9, hurdle := 1, cond := 0, target := 0, to_ := .cmd 9, tenant := 0, since := 0, timeout := 2 }, rfl, (by decide +kernel)⟩,
   ⟨live, ⟨rfl, rfl⟩, 5, 3, (by decide +kernel)⟩,
   ⟨live, ⟨rfl, rfl⟩, 5, 3, (by decide +kernel)⟩,
   ⟨live, ⟨rfl, rfl⟩, 31, 7, rfl⟩,
   ⟨live, ⟨rfl, rfl⟩, 7, (by decide +kernel)⟩,
   ⟨live, ⟨rfl, rfl⟩, 7, (by decide +kernel)⟩,
   ⟨live, ⟨rfl, rfl⟩, 31, (by decide +kernel)⟩,
   ⟨live, ⟨rfl, rfl⟩, 31, (by decide +kernel)⟩,
   ⟨live, ⟨rfl, rfl⟩, 31, (by decide +kernel)⟩,
   ⟨live, ⟨rfl, rfl⟩, 31, lldp 0 none, (by decide +kernel)⟩,
   ⟨live, ⟨rfl, rfl⟩, (by decide +kernel)⟩,
   ⟨live, ⟨rfl, rfl⟩, (by decide +kernel)⟩,
   ⟨live, ⟨rfl, rfl⟩, (by decide +kernel)⟩,
   ⟨live, ⟨rfl, rfl⟩, (by decide +kernel)⟩,
   ⟨State.reset, ⟨rfl, rfl⟩, (by decide +kernel)⟩,
   ⟨live, ⟨rfl, rfl⟩, (by decide +kernel), (by decide +kernel)⟩,
   ⟨live, ⟨rfl, rfl⟩, 1, (by decide +kernel)⟩,
   ⟨live, ⟨rfl, rfl⟩, rfl⟩,
   ⟨live, ⟨rfl, rfl⟩, (by decide +kernel)⟩,
   ⟨State.reset, ⟨rfl, rfl⟩, { die := [], stk := [], coreW := 0 }, rfl⟩,
   ⟨live, ⟨rfl, rfl⟩, 0, (by decide +kernel)⟩,
   ⟨powered { resetAt := some 1 }, ⟨rfl, rfl⟩, 1, rfl, (by decide +kernel)⟩,
   ⟨powered, ⟨rfl, rfl⟩, rfl⟩,
   ⟨live, ⟨rfl, rfl⟩, rfl⟩,
   ⟨live, .secRecWrite 0, { reg := .secRecCtl }, 0, 0, 0, 0, 0, 0, 0, 0, 0, 0, 0, true, ⟨rfl, rfl⟩, (by decide +kernel), (by decide +kernel)⟩⟩

theorem witness_SwitchBufferNeverOverflows :
  (∃ (c : Instr) (s t : State), switchEvent c = true ∧ s.due = [] ∧ s.BufferFits ∧ exec c s = .next t) ∧
  (∃ (s : State), s.BufferFits) ∧
  (∃ (s : State) (e : EthFrame), s.BufferFits) :=
  ⟨⟨.frameReceive 0 (frameTo 2) false, queued 4, _, rfl, rfl, ⟨(by decide +kernel), (by decide +kernel), (by decide +kernel)⟩, rfl⟩,
   ⟨queued 32, ⟨(by decide +kernel), (by decide +kernel), (by decide +kernel)⟩⟩,
   ⟨queued 4, frameTo 2, ⟨(by decide +kernel), (by decide +kernel), (by decide +kernel)⟩⟩⟩

theorem witness_StoppedDeviceStaysStopped :
  (∃ (s t : State), s.Halted ∧ (∀ c cs, s.pending = c :: cs → resetsDevice c = false) ∧ step s = .next t) :=
  ⟨{ live with pending := [.flashProgramDone], err := { live.err with stopped := true } }, _, ⟨rfl, rfl⟩, by rintro c cs ⟨⟩; rfl, rfl⟩

theorem witness_RowsLeaveTheRest :
  (∃ (c : Instr) (s t : State), switchEvent c = true ∧ s.due = [] ∧ exec c s = .next t) ∧
  (∃ (c : Instr) (s t : State), transportEvent c = true ∧ s.due = [] ∧ exec c s = .next t) :=
  ⟨⟨.frameReceive 0 (frameTo 2) false, wired, _, rfl, rfl, rfl⟩,
   ⟨.sessionDrained 5, live, _, rfl, rfl, rfl⟩⟩

theorem witness_HbmReadsWhatWasWritten :
  (∃ (s : State) (a off : Nat) (bs : List Byte), s.mem.wf = true ∧ bs ≠ [] ∧ ∃ x, (x < a ∨ a + bs.length ≤ x)) ∧
  (∃ (s : State) (a off : Nat) (bs : List Byte), s.mem.wf = true ∧ bs ≠ [] ∧
    let t := s.writeHbm a bs off
    (∀ sc ∈ sectorsOf a bs.length, t.sectorBad sc = false)) ∧
  (∃ (s : State) (a off : Nat) (bs : List Byte), s.mem.wf = true ∧ bs ≠ [] ∧ ∃ sc, (sc * 64 + 64 ≤ a ∨ a + bs.length
    ≤ sc * 64)) ∧
  (∃ (s : State) (a off : Nat) (bs : List Byte), s.mem.wf = true ∧ bs ≠ [] ∧ ∃ sc, (sc * 64 < a ∨ a + bs.length < sc
    * 64 + 64) ∧ s.mem.poison.contains sc = true) :=
  ⟨⟨live, 64, 0, [1], (by decide +kernel), (by decide +kernel), 65, (by decide +kernel)⟩,
   ⟨live, 64, 0, [1], (by decide +kernel), (by decide +kernel), (by decide +kernel)⟩,
   ⟨{ live with mem := { poison := [0] } }, 64, 0, [1], (by decide +kernel), (by decide +kernel), 0, (by decide +kernel)⟩,
   ⟨{ live with mem := { poison := [0] } }, 63, 0, [1], (by decide +kernel), (by decide +kernel), 0, (by decide +kernel), (by decide +kernel)⟩⟩

theorem witness_RegisterFieldsByAccessType :
  (∃ (s : State) (a : RegAt) (v : Word), tsorted 0 s.cfg = true ∧ ∃ i, i < 64) ∧
  (∃ (s : State) (a : RegAt) (v : Word), tsorted 0 s.cfg = true ∧ ∃ b : RegAt, b.off ≠ a.off) :=
  ⟨⟨live, { reg := .fabHbCfg }, 0, (by decide +kernel), 63, (by decide +kernel)⟩,
   ⟨live, { reg := .fabHbCfg }, 0, (by decide +kernel), { reg := .fabSusCfg }, (by decide +kernel)⟩⟩

theorem witness_CountersWrap :
  (∃ (s : State) (r : Reg) (k inst : Nat), tsorted 0 s.stat = true ∧ k < 64 ∧
    RegAt.off { reg := r, inst := inst, i := k } ≠ RegAt.off { reg := wrapReg r, inst := inst } ∧
    ∃ x, x ≠ RegAt.off { reg := r, inst := inst, i := k } ∧ x ≠ RegAt.off { reg := wrapReg r, inst := inst }) ∧
  (∃ (s : State) (r : Reg), wrapReg r ≠ r ∧ tsorted 0 s.stat = true ∧ ∃ i, i < (r.desc.dims.map (·.1)).sum) :=
  ⟨⟨live, .swStat, 9, 0, by decide +kernel, by decide +kernel, by decide +kernel, 0, by decide +kernel, by decide +kernel⟩, ⟨live, .fabStat, by decide +kernel, by decide +kernel, 7, by decide +kernel⟩⟩

theorem witness_EventsAndRecords :
  (∃ (s : State) (ty : Nat) (b : List Byte), s.mgt.queue.length < 256) ∧
  (∃ (s : State) (ty : Nat) (b : List Byte), 256 ≤ s.mgt.queue.length) ∧
  (∃ (s : State) (ty : Nat) (b : List Byte), 1 ≤ ty ∧ ty ≤ 13) ∧
  (∃ (s : State) (r : ErrRec), s.err.log.length ≤ 1024 ∧ s.err.log.length < 1024 ∧ r.severity ≠ 0) ∧
  (∃ (s : State) (r : ErrRec), s.err.log.length ≤ 1024 ∧ s.err.log.length = 1024 ∧ r.severity = 0 ∧ mergeRec s.now
    { r with time := s.now } s.err.log = none) ∧
  (∃ (s : State) (r : ErrRec), s.err.log.length ≤ 1024 ∧ ∃ l, r.severity = 0 ∧ mergeRec s.now
    { r with time := s.now } s.err.log = some l) ∧
  (∃ (s : State) (r : ErrRec), s.err.log.length ≤ 1024 ∧ s.err.log.length < 1024 ∧ r.severity = 0 ∧ mergeRec s.now
    { r with time := s.now } s.err.log = none) ∧
  (∃ (s : State) (r : ErrRec), s.err.log.length ≤ 1024 ∧ s.err.log.length = 1024 ∧ r.severity ≠ 0 ∧ (∃ x ∈ s.err.log,
    x.severity = 0)) ∧
  (∃ (s : State) (r : ErrRec), s.err.log.length ≤ 1024 ∧ s.err.log.length = 1024 ∧ r.severity ≠ 0 ∧ (∀ x ∈ s.err.log,
    x.severity ≠ 0)) ∧
  (∃ (s : State) (r : ErrRec), s.err.log.length ≤ 1024 ∧ r.severity ≠ 0) :=
  ⟨⟨live, 1, [], (by decide +kernel)⟩,
   ⟨{ live with mgt := { queue := List.replicate 256 { type := 1, seq := 0, time := 0, body := [] } } }, 1, [], (by decide +kernel)⟩,
   ⟨live, 13, [], (by decide +kernel)⟩,
   ⟨logged 1023, { type := 1, severity := 1, die := 0 }, (by decide +kernel), (by decide +kernel), (by decide +kernel)⟩,
   ⟨logged 1024, { type := 1, severity := 0, die := 0 }, (by decide +kernel), (by decide +kernel), (by decide +kernel), (by decide +kernel)⟩,
   ⟨logged 1 0, { type := 2, severity := 0, die := 0 }, (by decide +kernel), _, (by decide +kernel), rfl⟩,
   ⟨logged 1023, { type := 1, severity := 0, die := 0 }, (by decide +kernel), (by decide +kernel), (by decide +kernel), (by decide +kernel)⟩,
   ⟨logged 1024 0, { type := 1, severity := 1, die := 0 }, (by decide +kernel), (by decide +kernel), (by decide +kernel), (by decide +kernel)⟩,
   ⟨logged 1024, { type := 1, severity := 1, die := 0 }, (by decide +kernel), (by decide +kernel), (by decide +kernel), (by decide +kernel)⟩,
   ⟨live, { type := 1, severity := 2, die := 0 }, (by decide +kernel), (by decide +kernel)⟩⟩

/-! ### Single steps -/

def nextOf (o : Host.Outcome State Fault Refusal) : State := match o with | .next t => t | _ => State.reset

/-- The front command is taken, the rest of the queue waits. -/
theorem test_step_takes_front :
    (nextOf (step { State.reset with pending := [.jtagInstruction .idcode, .pwrgdRise] })).pending = [.pwrgdRise] := by decide +kernel

/-- R579: the identification register of B0. -/
theorem test_idcode : (nextOf (exec (.jtagInstruction .idcode) live)).out = [.jtag 0x11600C2F] := by decide +kernel

/-- R59, R120: byte 0 of an extent over all stacks stands at address 0 of stack 0, and the write completes with OK. -/
theorem test_write_stores :
    (nextOf (exec (.memWrite (msg 0x11 65536 { ctx := 1, opLen := 2 } [0xAB, 0xCD]) .none)
      (regs (withExt 0 .active 0) [({ reg := .hubSegGfa, i := 1 }, 0)]))).mem.hbm = [(0, 0xAB), (1, 0xCD)] := by decide +kernel

/-- R100: the expected number rises by one, and wraps. -/
theorem test_sequence_wraps :
    ((nextOf (exec (.memFence (msg 0x14 65536 { seq := 0xFFFFFFFF } (zeros 32)))
      (live.setRx 65536 0 fun x => { x with expected := 0xFFFFFFFF }))).rxOf 65536 0).expected = 0 := by decide +kernel

/-- R107: a message with a wrong CRC has no other effect than its count. -/
theorem test_bad_crc :
    nextOf (exec (.memFence { msg 0x14 65536 {} [] with crc := 0 }) live) = live.count .hubRvtStat 5 := by decide +kernel

/-- R415: the lowest Hurdle is given, to the tenant of the command. -/
theorem test_hurdle_alloc :
    ((nextOf (exec (.hdlAlloc (msg 0x30 65536 { ctx := 1, addr := 0xFF07 } ([1] ++ zeros 31)))
      (regs live [({ reg := .hubTenQuota }, 1)]))).hurdle 0).alloc = true := by decide +kernel

/-- R433: a frame to a device with a route waits at that port; 257 bytes take two cells of 256. -/
theorem test_frame_queued :
    ((nextOf (exec (.frameReceive 0 { frameTo 2 with len := 257 } false) wired)).swQueue 4 0).map (·.cells) = [2] := by decide +kernel

/-- R539: the lock is set and is not cleared by a write of 0. -/
theorem test_lock_stays :
    ((nextOf (exec (.hubLock 0) (regs live [({ reg := .hubLock }, 1)]))).hub .hubLock) = 1 := by decide +kernel

/-- R568: a die at 125 °C stops the device and drives THERMTRIP. -/
theorem test_thermal_trip :
    let t := nextOf (exec (.thermalTrip false 7 125) powered)
    t.err.stopped = true ∧ t.pwr.thermtrip = true := by decide +kernel

/-- R19: a counter passes 2^64 and sets its wrap flag. -/
theorem test_counter_wraps :
    let t := ({ live with stat := [(RegAt.off { reg := .swStat }, BitVec.allOnes 64)] }).count .swStat 0
    t.hub .swStat = 0 ∧ tget 0 t.stat (RegAt.off { reg := .swStat }) = 0 ∧
      tget 0 t.stat (RegAt.off { reg := .swWrap }) = 1 := by decide +kernel

/-! ### What WellFormed refuses -/

theorem smoke_session : (Instr.openingTimeout 81920).check = some .session := by decide +kernel
theorem smoke_cls : (Instr.ackDelayExpiry 0 8).check = some .cls := by decide +kernel
theorem smoke_tag : (Instr.recallTimeout 16384).check = some .tag := by decide +kernel
theorem smoke_payload (f : Frame) (h : 65535 < f.payload.length) : (Instr.rvtAck f).check = some .payload := by
  simp [Instr.check, Instr.frame?, Frame.check, h]
theorem smoke_port : (Instr.outputService 38).check = some .port := by decide +kernel
theorem smoke_frame_len : (Instr.frameReceive 0 { frameTo 2 with len := 63 } false).check = some .frameLen := by decide +kernel
theorem smoke_line : (Instr.parkedRequestStart (2 ^ 40)).check = some .line := by decide +kernel
theorem smoke_page : (Instr.vrFold 0 (2 ^ 35)).check = some .page := by decide +kernel
theorem smoke_policer : (Instr.swPolRate 1023 0).check = some .policer := by decide +kernel
theorem smoke_count : (Instr.smbRead 256 0 true true).check = some .count := by decide +kernel
theorem smoke_sensors : (Instr.throttleEval { die := [], stk := [], coreW := 0 }).check = some .sensors := by decide +kernel
theorem smoke_nand : (Instr.perstRise 0 false true true (tray 0)).check = some .nand := by decide +kernel
theorem smoke_wf : (Instr.smbRead 255 0 true true).wf = true := by decide +kernel

end Sys2Proof.Tests
end

section
/-! SUPPORT. R19: what counting and a write of 1s do to the counters and their wrap flags, and O58. -/

namespace Sys2Proof.Machine

/-! ### Counting -/

/-- The offset of counter k of an array. -/
abbrev counterOff (r : Reg) (inst k : Nat) : Nat := RegAt.off { reg := r, inst := inst, i := k }

/-- The offset of the word that holds an array's wrap flags. -/
abbrev wrapOff (r : Reg) (inst : Nat) : Nat := RegAt.off { reg := wrapReg r, inst := inst }

/-- Below 2^64 only the counter changes. -/
theorem State.count_stat_of_lt {s : State} {r : Reg} {k n inst : Nat}
    (h : (tget 0 s.stat (counterOff r inst k)).toNat + n < 2 ^ 64) :
    (s.count r k n inst).stat =
      tset 0 s.stat (counterOff r inst k) (BitVec.ofNat 64 ((tget 0 s.stat (counterOff r inst k)).toNat + n)) := by
  unfold State.count
  rw [if_pos h]

section
variable {s : State} {r : Reg} {k n inst : Nat} (hne : counterOff r inst k ≠ wrapOff r inst)
include hne

/-- From 2^64 on the counter changes and its bit is set in the word of wrap flags. -/
theorem State.count_stat_of_le (h : 2 ^ 64 ≤ (tget 0 s.stat (counterOff r inst k)).toNat + n) :
    (s.count r k n inst).stat =
      tset 0
        (tset 0 s.stat (counterOff r inst k) (BitVec.ofNat 64 ((tget 0 s.stat (counterOff r inst k)).toNat + n)))
        (wrapOff r inst) (tget 0 s.stat (wrapOff r inst) ||| BitVec.ofNat 64 (2 ^ k)) := by
  unfold State.count
  rw [if_neg (Nat.not_lt.2 h)]
  dsimp only
  rw [tget_tset_ne hne.symm]

/-- The counter holds the sum modulo 2^64. -/
theorem State.tget_count_counter (hs : tsorted 0 s.stat = true) :
    tget 0 (s.count r k n inst).stat (counterOff r inst k) =
      BitVec.ofNat 64 ((tget 0 s.stat (counterOff r inst k)).toNat + n) := by
  rcases Nat.lt_or_ge ((tget 0 s.stat (counterOff r inst k)).toNat + n) (2 ^ 64) with h | h
  · rw [State.count_stat_of_lt h, tget_tset_same hs]
  · rw [State.count_stat_of_le hne h, tget_tset_ne hne, tget_tset_same hs]

/-- The flag of counter k is set when the sum passes 2^64; no flag is cleared and no other one is set. -/
theorem State.tget_count_flag (hs : tsorted 0 s.stat = true) (hk : k < 64) (j : Nat) :
    (tget 0 (s.count r k n inst).stat (wrapOff r inst)).getLsbD j =
      ((tget 0 s.stat (wrapOff r inst)).getLsbD j ||
        (decide (k = j) && decide (2 ^ 64 ≤ (tget 0 s.stat (counterOff r inst k)).toNat + n))) := by
  rcases Nat.lt_or_ge ((tget 0 s.stat (counterOff r inst k)).toNat + n) (2 ^ 64) with h | h
  · rw [State.count_stat_of_lt h, tget_tset_ne hne.symm, decide_eq_false (Nat.not_le.2 h), Bool.and_false,
      Bool.or_false]
  · have hbit : (BitVec.ofNat 64 (2 ^ k)).getLsbD j = decide (k = j) := by
      rw [BitVec.getLsbD_ofNat, Nat.testBit_two_pow, ← Bool.decide_and]
      exact decide_eq_decide.2 (by omega)
    rw [State.count_stat_of_le hne h, tget_tset_same (tsorted_tset hs), BitVec.getLsbD_or, hbit, decide_eq_true h,
      Bool.and_true]

/-- Counting leaves every other counter and word of flags. -/
theorem State.tget_count_ne {x : Nat} (ho : x ≠ counterOff r inst k) (hw : x ≠ wrapOff r inst) :
    tget 0 (s.count r k n inst).stat x = tget 0 s.stat x := by
  rcases Nat.lt_or_ge ((tget 0 s.stat (counterOff r inst k)).toNat + n) (2 ^ 64) with h | h
  · rw [State.count_stat_of_lt h, tget_tset_ne ho]
  · rw [State.count_stat_of_le hne h, tget_tset_ne hw, tget_tset_ne ho]

end

/-! ### Clearing flags -/

/-- A register that holds an array's wrap flags is written as one. -/
theorem State.regWrite_wrapReg (s : State) (r : Reg) (inst : Nat) (v : Word) : wrapReg r ≠ r →
    s.regWrite { reg := wrapReg r, inst := inst } v = s.wrapWrite { reg := wrapReg r, inst := inst } v := by
  fun_cases wrapReg r
  -- the last arm is no array of counters
  case case22 => exact fun h => absurd rfl h
  all_goals exact fun _ => rfl

/-- Every counter of an array has a W1C flag. -/
theorem wrapReg_w1c (r : Reg) : wrapReg r ≠ r →
    ∀ i, i < (r.desc.dims.map (·.1)).sum → (wrapReg r).desc.w1c.getLsbD i = true := by
  fun_cases wrapReg r
  case case22 => exact fun h => absurd rfl h
  all_goals decide

/-- A W1C flag stays unless it is written 1. -/
theorem State.tget_wrapWrite_flag {s : State} (hs : tsorted 0 s.stat = true) {a : RegAt} (v : Word) {i : Nat}
    (hi : a.reg.desc.w1c.getLsbD i = true) :
    (tget 0 (s.wrapWrite a v).stat a.off).getLsbD i = ((tget 0 s.stat a.off).getLsbD i && !v.getLsbD i) := by
  have hi64 : i < 64 := BitVec.lt_of_getLsbD hi
  unfold State.wrapWrite
  rw [tget_tset_same hs, BitVec.getLsbD_and, BitVec.getLsbD_not, BitVec.getLsbD_and, hi, decide_eq_true hi64,
    Bool.true_and, Bool.and_true]

theorem State.tget_wrapWrite_ne (s : State) (a : RegAt) (v : Word) {x : Nat} (h : x ≠ a.off) :
    tget 0 (s.wrapWrite a v).stat x = tget 0 s.stat x := tget_tset_ne h

/-- Settles O58: counting and the write of a flags' register, each by what the two words it touches then read. -/
theorem countersWrap : Obligations.CountersWrap := by
  unfold Obligations.CountersWrap
  constructor
  · intro s r k n inst hs hk o w t hne
    refine ⟨?_, ?_, fun j hj => ?_, fun x ho hw => State.tget_count_ne hne ho hw⟩
    · rw [State.tget_count_counter hne hs, BitVec.toNat_ofNat]
    · rw [State.tget_count_flag hne hs hk, decide_eq_true rfl, Bool.true_and]
    · rw [State.tget_count_flag hne hs hk, decide_eq_false hj.symm, Bool.false_and, Bool.or_false]
  · intro s r inst v hr hs a t
    have ht : t = s.wrapWrite a v := State.regWrite_wrapReg s r inst v hr
    rw [ht]
    exact ⟨rfl, fun i hi => State.tget_wrapWrite_flag hs v (wrapReg_w1c r hr i hi),
      fun x hx => State.tget_wrapWrite_ne s a v hx⟩

end Sys2Proof.Machine
end

section
/-! SUPPORT. R100: what row 3 makes of a sequenced message by its number's distance from the expected one, what
every row that is a sequenced message then does, and O6. -/

namespace Sys2Proof.Machine

/-! ### What stays while a message is ordered -/

theorem State.OnlyTransport.now {s t : State} (h : s.OnlyTransport t) : t.now = s.now := by
  obtain ⟨_, _, _, _, _, _, _, _, _, rfl⟩ := h; rfl

theorem State.OnlyTransport.rtoInit {s t : State} (h : s.OnlyTransport t) : t.rtoInit = s.rtoInit := by
  obtain ⟨_, _, _, _, _, _, _, _, _, rfl⟩ := h; rfl

@[simp] theorem State.noteCe_now (s : State) (n : Nat) (f : Frame) : (s.noteCe n f).now = s.now :=
  (s.only_noteCe n f).now

@[simp] theorem State.noteCe_rtoInit (s : State) (n : Nat) (f : Frame) : (s.noteCe n f).rtoInit = s.rtoInit :=
  (s.only_noteCe n f).rtoInit

@[simp] theorem State.noteCe_due (s : State) (n : Nat) (f : Frame) : (s.noteCe n f).due = s.due := by
  unfold State.noteCe
  dsimp only
  repeat' split
  all_goals simp only [State.setRx_due, State.count_due]

@[simp] theorem State.answerAckreq_due (s : State) (n i : Nat) (f : Frame) : (s.answerAckreq n i f).due = s.due := by
  unfold State.answerAckreq
  dsimp only
  split
  · exact s.sendBare_due _ _ _ _
  · rfl

/-! ### Row 3 by the distance of the number (R100) -/

/-- The distance of f's number from the one that its stream of session n expects, modulo 2^32. -/
def State.ahead (s : State) (n : Nat) (f : Frame) : Nat := (f.hdr.seq - (s.rxOf n f.hdr.cls).expected).toNat

/-- What an early message leaves that is answered by RVT_NAK. -/
def State.nakked (s : State) (n : Nat) (f : Frame) : State :=
  (((s.noteCe n f).setRx n f.hdr.cls fun x => { x with lastNak := some s.now }).count .hubRvtStat 4).sendBare
    n f.hdr.cls 0x05

section
variable {s : State} {n : Nat} {f : Frame}

theorem State.row3_of_expected (h : s.ahead n f = 0) : s.row3 n f = .inOrder
    ((((s.noteCe n f).setRx n f.hdr.cls fun x =>
      { x with expected := x.expected + 1
               ackDue := if x.ackDue.isSome then x.ackDue else some (s.noteCe n f).now }).count .hubRvtStat 0).gotAck
        n f.hdr.cls f.hdr.ack f.hdr.ece) :=
  if_pos h

/-- The stream's last RVT_NAK is at least rto_init ago, or there was none. -/
theorem State.row3_of_early_nak (h1 : 1 ≤ s.ahead n f) (h2 : s.ahead n f ≤ 65535)
    (hn : ∀ t, (s.rxOf n f.hdr.cls).lastNak = some t → s.rtoInit ≤ s.now - t) :
    s.row3 n f = .done ((s.nakked n f).answerAckreq n ((s.nakked n f).sess n).inc f) := by
  unfold State.ahead at h1 h2
  simp only [State.row3, State.noteCe_rtoInit, State.noteCe_now]
  rw [if_neg (by omega), if_pos h2, if_pos]
  · rfl
  · split
    · next t ht => exact decide_eq_true (hn t ht)
    · rfl

theorem State.row3_of_early_quiet (h1 : 1 ≤ s.ahead n f) (h2 : s.ahead n f ≤ 65535) {t : Nat}
    (ht : (s.rxOf n f.hdr.cls).lastNak = some t) (hr : s.now - t < s.rtoInit) :
    s.row3 n f = .done ((s.noteCe n f).answerAckreq n ((s.noteCe n f).sess n).inc f) := by
  unfold State.ahead at h1 h2
  simp only [State.row3, State.noteCe_rtoInit, State.noteCe_now, ht, decide_eq_true_eq]
  rw [if_neg (by omega), if_pos h2, if_neg (Nat.not_le.2 hr)]

theorem State.row3_of_invalid (h1 : 65536 ≤ s.ahead n f) (h2 : s.ahead n f ≤ 2 ^ 31) :
    s.row3 n f = .done (s.noteCe n f).discard := by
  unfold State.ahead at h1 h2
  simp only [State.row3]
  rw [if_neg (by omega), if_neg (by omega), if_pos h2]

theorem State.row3_of_duplicate (h : 2 ^ 31 < s.ahead n f) :
    s.row3 n f = .done (((s.noteCe n f).count .hubRvtStat 3).sendBare n f.hdr.cls 0x04) := by
  unfold State.ahead at h
  simp only [State.row3]
  rw [if_neg (by omega), if_neg (by omega), if_neg (by omega)]

/-- A message that ends at row 3 leaves nothing due. -/
theorem State.row3_done_due {t : State} (h : s.row3 n f = .done t) : t.due = s.due := by
  simp only [State.row3] at h
  split at h
  · cases h
  · split at h
    · cases h
      simp [apply_ite State.due]
    · split at h <;> cases h <;> simp [State.discard]

/-! ### Every sequenced message passes rows 1 to 3 -/

/-- The effect `g` of message f, of type byte typ, is row 3's alone when row 3 ends the message. -/
def EndsAtRow3 (typ : Byte) (f : Frame) (g : State → State) : Prop :=
  ∀ (s : State) (n : Nat) (t : State), s.listens = true → s.row1Bad typ f = false → s.row2 f = .sess n →
    s.row3 n f = .done t → g s = t

variable {typ : Byte}

theorem endsAtRow3_withRequest (fo : FlagsOk) (parse : State → Nat → Parse) (body : State → Origin → State) :
    EndsAtRow3 typ f fun s => s.withRequest typ f fo parse body := by
  intro s n t hl hw hs ht
  simp only [State.withRequest, hl, hw, hs, ht, Bool.not_true, Bool.false_eq_true, if_false]

theorem endsAtRow3_rvtCpl : EndsAtRow3 0x15 f fun s => s.rvtCpl f := by
  intro s n t hl hw hs ht
  simp only [State.rvtCpl, hl, hw, hs, ht, Bool.not_true, Bool.false_eq_true, if_false]

/-- A row that is a sequenced message is a completion or a request. -/
theorem exec_sequenced {c : Instr} (hm : messageOf c = some (typ, f)) (hq : 0x10 ≤ typ) :
    ∃ g, (∀ s, exec c s = s.perform g) ∧ EndsAtRow3 typ f g := by
  cases c <;> cases hm
  case rvtOpen | rvtAccept | rvtClose | rvtAck | rvtNak => exact absurd hq (by decide)
  case rvtCpl | cohRecallAnswer => exact ⟨_, fun _ => rfl, endsAtRow3_rvtCpl⟩
  all_goals
    refine ⟨_, fun _ => rfl, ?_⟩
    dsimp only [State.memRead, State.memWrite, State.memAtomic, State.memSignal, State.memFence, State.memDrain,
      State.mgRead, State.mgWrite, State.ptInval, State.engCmd, State.cohRequest, State.cohRecallReceived, State.guHeat,
      State.hdlPeer, State.batonOffer, State.batonData, State.batonCommit, State.batonRelease, State.batonQuery,
      State.secAttest]
    exact endsAtRow3_withRequest _ _ _

/-- A sequenced message that row 3 ends has no effect but row 3's. -/
theorem exec_of_row3_done {c : Instr} {t : State} (hr : s.Ready) (hl : s.listens = true)
    (hm : messageOf c = some (typ, f)) (hq : 0x10 ≤ typ) (hw : s.row1Bad typ f = false) (hs : s.row2 f = .sess n)
    (ht : s.row3 n f = .done t) : exec c s = .next t := by
  obtain ⟨g, he, hg⟩ := exec_sequenced hm hq
  rw [he, hr.perform, hg s n t hl hw hs ht,
    State.after_eq ((State.row3_done_due ht).trans hr.due) (State.row3_only (.inr ht)).pending]

end

/-- Settles O6: row 3's answer in each range of the distance, carried to the row by `exec_of_row3_done`. -/
theorem receiverKeepsTheOrder : Obligations.ReceiverKeepsTheOrder := by
  unfold Obligations.ReceiverKeepsTheOrder
  intro c typ f s n hr hl hm hq hw hs r d u answered
  have ends {t : State} : s.row3 n f = .done t → exec c s = .next t := exec_of_row3_done hr hl hm hq hw hs
  exact ⟨State.row3_of_expected,
    fun h1 h2 hn => ends (State.row3_of_early_nak h1 h2 hn),
    fun _ h1 h2 ht hlt => ends (State.row3_of_early_quiet h1 h2 ht hlt),
    fun h1 h2 => ends (State.row3_of_invalid h1 h2),
    fun h => ends (State.row3_of_duplicate h)⟩

end Sys2Proof.Machine
end

section
/-! SUPPORT. R438 to R440: what admission makes of a frame by its input and class, and O38. -/

namespace Sys2Proof.Machine

section
variable {s : State} {i o : Nat} {e : EthFrame} {yellow : Bool}

/-- R439: an endpoint waits exactly when its frame finds no place below xoff in the shared pool. -/
theorem State.mustWait_iff {c n : Nat} : s.mustWait i c n = true ↔ ¬ (s.inTotal i c < s.xoff ∧ n ≤ s.sharedFree) := by
  simp only [State.mustWait, Bool.or_eq_true, decide_eq_true_eq]
  omega

/-- R438, log 70: a lossless frame from an external input takes headroom where an endpoint would wait. -/
theorem State.admitFrame_lossless (hi : i < 32) (hl : s.lossless (frameCls e) = true) :
    s.admitFrame i o e yellow =
      if s.mustWait i (frameCls e) (cellsOf e.len) = true then
        if s.hdrmFree < cellsOf e.len then s.count .swStat 4
        else (s.enqueue o { s.itemOf i e with hdrm := true }).afterEnqueue i (frameCls e)
      else (s.enqueue o (s.itemOf i e)).afterEnqueue i (frameCls e) := by
  simp only [State.admitFrame, if_neg (Nat.not_le.2 hi), if_pos hl, State.mustWait]

/-- R440: the output's limits on a lossy frame from an external input. -/
theorem State.admitFrame_lossy (hi : i < 32) (hl : s.lossless (frameCls e) = false) :
    s.admitFrame i o e yellow =
      if bits (s.hub .swQCfg o (frameCls e)) 53 36 ≤ s.outTotal o (frameCls e) ∨ s.sharedFree < cellsOf e.len then
        s.count .swStat 3
      else if yellow = true ∧ bits (s.hub .swQCfg o (frameCls e)) 35 18 ≤ s.outTotal o (frameCls e) then
        s.count .swStat 9
      else (s.enqueue o (s.itemOf i e)).afterEnqueue i (frameCls e) := by
  simp only [State.admitFrame, if_neg (Nat.not_le.2 hi), hl, Bool.false_eq_true, if_false, Bool.or_eq_true,
    Bool.and_eq_true, decide_eq_true_eq]

/-- R439: no frame of the device's own is discarded, and none passes another of its endpoint and class. -/
theorem State.admitFrame_internal (hi : 32 ≤ i) :
    s.admitFrame i o e yellow =
      if s.heldAt i (frameCls e) ≠ [] ∨ s.mustWait i (frameCls e) (cellsOf e.len) = true then
        s.setHeld i (frameCls e) (s.heldAt i (frameCls e) ++ [(o, e)])
      else s.enqueue o (s.itemOf i e) := by
  simp only [State.admitFrame, if_pos hi, Bool.or_eq_true, bne_iff_ne]

end

/-- Settles O38: each clause picks its branch of the equation for its kind of input and class. -/
theorem admissionFollowsTheBuffer : Obligations.AdmissionFollowsTheBuffer := by
  unfold Obligations.AdmissionFollowsTheBuffer
  intro s i o e yellow c n q x fits admitted
  have waits : s.mustWait i c n = true ↔ ¬ fits := State.mustWait_iff
  refine ⟨fun hi hl => ?lossless, fun hi hl => ?lossy, fun hi => ?internal⟩
  case lossless =>
    rw [State.admitFrame_lossless hi hl]
    exact ⟨fun hf => if_neg fun hw => waits.1 hw hf,
      fun hf hn => (if_pos (waits.2 hf)).trans (if_neg (Nat.not_lt.2 hn)),
      fun hf hn => (if_pos (waits.2 hf)).trans (if_pos hn)⟩
  case lossy =>
    rw [State.admitFrame_lossy hi hl]
    have passes (hq : s.outTotal o c < bits q 53 36) (hn : n ≤ s.sharedFree) :
        ¬ (bits q 53 36 ≤ s.outTotal o c ∨ s.sharedFree < n) := by omega
    exact ⟨fun h => if_pos h,
      fun hq hn hy hm => (if_neg (passes hq hn)).trans (if_pos ⟨hy, hm⟩),
      fun hq hn hy => (if_neg (passes hq hn)).trans (if_neg fun ⟨h, hm⟩ => Nat.not_lt.2 hm (hy h))⟩
  case internal =>
    rw [State.admitFrame_internal hi]
    exact ⟨fun hf hh => if_neg fun h => h.elim (· hh) fun hw => waits.1 hw hf,
      fun h => if_pos (h.symm.imp_right waits.2)⟩

end Sys2Proof.Machine
end

section
/-! SUPPORT. What a step does with the queue of commands and with a command to a device that has stopped, and what
row 1 makes of a damaged message: O1 to O5. -/

namespace Sys2Proof.Machine

/-! ### Steps -/

/-- Settles O1, by the definition of a step. -/
theorem stepPerformsFrontCommand : Obligations.StepPerformsFrontCommand := by
  unfold Obligations.StepPerformsFrontCommand
  intro c cs s
  rfl

theorem step_of_pending_nil {s : State} (h : s.pending = []) : step s = .next s.tick := by
  unfold step
  rw [h]

theorem State.now_le_tick (s : State) : s.now ≤ s.tick.now := Nat.le_add_right _ _

/-- With nothing to slew and no rate correction the fraction grows by a whole nanosecond. -/
theorem State.tick_now {s : State} (hl : s.fab.servo.slewLeft = 0) (hp : s.fab.servo.ppm = 0) :
    s.tick.now = s.now + (s.frac + 1000000) / 1000000 := by
  unfold State.tick
  simp only [hl, hp, if_true, Int.add_zero]
  rfl

/-- Settles O2: a tick writes the time, its fraction and the servo. -/
theorem emptyQueuePassesTime : Obligations.EmptyQueuePassesTime := by
  unfold Obligations.EmptyQueuePassesTime
  intro s h
  exact ⟨step_of_pending_nil h, rfl, s.now_le_tick, State.tick_now⟩

/-- Settles O3, by the form of every command's meaning. -/
theorem everyCommandGoesOn : Obligations.EveryCommandGoesOn := by
  unfold Obligations.EveryCommandGoesOn
  intro c s
  obtain ⟨f, hf⟩ | ⟨-, f, hf⟩ := exec_form c
  · refine ⟨_, (hf s).trans (s.perform_next f), ?_⟩
    split
    · rfl
    · exact s.after_pending _
  · exact ⟨_, (hf s).trans (s.act_next f), s.after_pending _⟩

/-- Settles O4: a row that does not act on a stopped device is performed by a device that works. -/
theorem stoppedDeviceAcceptsNothing : Obligations.StoppedDeviceAcceptsNothing := by
  unfold Obligations.StoppedDeviceAcceptsNothing
  intro c s hs hc
  obtain ⟨f, hf⟩ | ⟨ha, -⟩ := exec_form c
  · rw [hf, State.perform_stopped hs]
  · exact absurd (ha.symm.trans hc) (by decide)

/-! ### Row 1 (R86, R107) -/

/-- The effect g of a message f of type byte typ discards it when row 1 finds it damaged. -/
def DropsDamaged (typ : Byte) (f : Frame) (g : State → State) : Prop :=
  ∀ s : State, s.listens = true → (s.starting = true → typ ≠ 0x02) → s.row1Bad typ f = true → g s = s.discard

section
variable {typ : Byte} {f : Frame}

theorem dropsDamaged_withRequest (fo : FlagsOk) (parse : State → Nat → Parse) (body : State → Origin → State) :
    DropsDamaged typ f fun s => s.withRequest typ f fo parse body := by
  intro s hl _ hw
  simp only [State.withRequest, hl, hw, Bool.not_true, Bool.false_eq_true, if_false, if_true]

theorem dropsDamaged_rvtCpl : DropsDamaged 0x15 f fun s => s.rvtCpl f := by
  intro s hl _ hw
  simp only [State.rvtCpl, hl, hw, Bool.not_true, Bool.false_eq_true, if_false, if_true]

theorem dropsDamaged_rvtOpen : DropsDamaged 0x01 f fun s => s.rvtOpen f := by
  intro s hl _ hw
  simp only [State.rvtOpen, hl, hw, Bool.not_true, Bool.true_or, Bool.false_eq_true, if_false, if_true]

/-- Outside the Starting block a device that listens serves at a valid address. -/
theorem State.serves_of_listens {s : State} (hl : s.listens = true) (hs : s.starting = false) :
    (s.serving && s.idValid) = true := by
  unfold State.listens at hl
  rwa [hs, Bool.or_false] at hl

theorem dropsDamaged_rvtAccept : DropsDamaged 0x02 f fun s => s.rvtAccept f := by
  intro s hl hs hw
  have serves := State.serves_of_listens hl (Bool.eq_false_iff.2 fun h => hs h rfl)
  simp only [State.rvtAccept, serves, hw, Bool.not_true, Bool.false_eq_true, if_false, if_true]

theorem State.bare_damaged {s : State} {pay : Nat} (hl : s.listens = true) (hw : s.row1Bad typ f = true) :
    s.bare typ f pay = (s.discard, none) := by
  simp only [State.bare, hl, hw, Bool.not_true, Bool.false_eq_true, if_false, if_true]

/-- Every row that is a message drops it when it is damaged. -/
theorem exec_message {c : Instr} (hm : messageOf c = some (typ, f)) :
    ∃ g, (∀ s, exec c s = s.perform g) ∧ DropsDamaged typ f g := by
  cases c <;> cases hm
  case rvtOpen => exact ⟨_, fun _ => rfl, dropsDamaged_rvtOpen⟩
  case rvtAccept => exact ⟨_, fun _ => rfl, dropsDamaged_rvtAccept⟩
  case rvtClose => exact ⟨_, fun _ => rfl, fun s hl _ hw => by simp only [State.rvtClose, State.bare_damaged hl hw]⟩
  case rvtAck => exact ⟨_, fun _ => rfl, fun s hl _ hw => by simp only [State.rvtAck, State.bare_damaged hl hw]⟩
  case rvtNak => exact ⟨_, fun _ => rfl, fun s hl _ hw => by simp only [State.rvtNak, State.bare_damaged hl hw]⟩
  case rvtCpl | cohRecallAnswer => exact ⟨_, fun _ => rfl, dropsDamaged_rvtCpl⟩
  all_goals
    refine ⟨_, fun _ => rfl, ?_⟩
    dsimp only [State.memRead, State.memWrite, State.memAtomic, State.memSignal, State.memFence, State.memDrain,
      State.mgRead, State.mgWrite, State.ptInval, State.engCmd, State.cohRequest, State.cohRecallReceived, State.guHeat,
      State.hdlPeer, State.batonOffer, State.batonData, State.batonCommit, State.batonRelease, State.batonQuery,
      State.secAttest]
    exact dropsDamaged_withRequest _ _ _

end

/-- Settles O5: row 1 drops the message, and a discard only counts. -/
theorem damagedMessageIsOnlyCounted : Obligations.DamagedMessageIsOnlyCounted := by
  unfold Obligations.DamagedMessageIsOnlyCounted
  intro c typ f s hr hl hs hm hw
  obtain ⟨g, he, hg⟩ := exec_message hm
  rw [he, hr.perform, hg s hl hs hw, State.after_eq (t := s.discard) ((s.count_due _ _ _ _).trans hr.due) (s.count_pending _ _ _ _)]
  rfl

end Sys2Proof.Machine
end

section
/-! SUPPORT. What every row by which frames and pauses enter, wait in and leave the switch keeps, and every row whose
own effect is the transport's alone: O53 and O55. -/

namespace Sys2Proof.Machine

/-! ### Rows of the switch -/

/-- The buffer goes on to fit, and only what the switch keeps differs, with the records and events that a bad word
of its buffer raises. -/
structure State.SwitchActs (s t : State) : Prop where
  fits : s.BufferFits → t.BufferFits
  only : s.OnlySwitch t

theorem State.Switches.acts {s t : State} (h : s.Switches t) : s.SwitchActs t := by
  refine ⟨h.fits, ?_⟩
  obtain ⟨sw, st, o, rfl⟩ := h.rest
  exact ⟨sw, st, o, s.mgt, s.err, rfl⟩

theorem State.SwitchActs.refl (s : State) : s.SwitchActs s := (State.Switches.refl s).acts

theorem State.SwitchActs.trans {s t u : State} (h : s.SwitchActs t) (k : t.SwitchActs u) : s.SwitchActs u := by
  refine ⟨fun x => k.fits (h.fits x), ?_⟩
  obtain ⟨_, _, _, _, _, rfl⟩ := h.only
  obtain ⟨a, b, c, d, e, rfl⟩ := k.only
  exact ⟨a, b, c, d, e, rfl⟩

theorem State.OnlySwitch.due {s t : State} (h : s.OnlySwitch t) : t.due = s.due := by
  obtain ⟨_, _, _, _, _, rfl⟩ := h; rfl

theorem State.OnlySwitch.pending {s t : State} (h : s.OnlySwitch t) : t.pending = s.pending := by
  obtain ⟨_, _, _, _, _, rfl⟩ := h; rfl

theorem State.acts_errRecord (s : State) (r : ErrRec) : s.SwitchActs (s.errRecord r) := by
  obtain ⟨l, o, st, m, h⟩ := s.errRecord_shape r
  exact ⟨fun k => k.of_queues (by rw [State.errRecord_sw]), s.sw, st, s.out, m, _, h⟩

theorem State.acts_wordBad (s : State) (d : Nat) (st : Byte) : s.SwitchActs (s.wordBad d st) :=
  (s.switches_count _ _ _ _).acts.trans (State.acts_errRecord _ _)

theorem State.acts_frameSeen (s : State) (i : Nat) (upset : Bool) : s.SwitchActs (s.frameSeen i upset) := by
  have counted : s.SwitchActs (if i < 32 then s.count .swStat 0 else s) := by
    split
    · exact (s.switches_count _ _ _ _).acts
    · exact .refl s
  unfold State.frameSeen
  dsimp only
  split
  · exact counted.trans (State.acts_wordBad _ _ _)
  · exact counted

theorem State.acts_frameReceive (s : State) (i : Nat) (e : EthFrame) (upset : Bool) :
    s.SwitchActs (s.frameReceive i e upset) := by
  have seen : s.SwitchActs ((s.frameSeen i upset).mirrorIn i e) :=
    (s.acts_frameSeen i upset).trans (State.switches_mirrorIn _ _ _).acts
  unfold State.frameReceive
  dsimp only
  split
  · exact .refl s
  · split
    · exact seen.trans (State.switches_count _ _ _ _ _).acts
    · split
      · exact seen.trans (State.switches_count _ _ _ _ _).acts
      · split
        · exact seen
        · refine seen.trans (State.Switches.trans ?_ (State.switches_sweep _)).acts
          split
          · exact State.switches_admitFrame _ _ _ _ _
          · exact State.switches_policed _ _ _ _

theorem State.switches_pauseRepeat (s : State) (i c : Nat) : s.Switches (s.pauseRepeat i c) := by
  unfold State.pauseRepeat
  dsimp only
  split
  · exact .refl s
  · split
    · exact .refl s
    · exact ((s.switches_swPause _ _ _).trans (State.switches_count _ _ _ _ _)).trans (State.switches_sw _ rfl)

theorem State.switches_pauseReceive (s : State) (p c : Nat) (q : BitVec 16) : s.Switches (s.pauseReceive p c q) := by
  unfold State.pauseReceive
  dsimp only
  split
  · exact .refl s
  · exact (s.switches_count _ _ _ _).trans (State.switches_sw _ rfl)

theorem State.switches_pauseExpiry (s : State) (p c : Nat) : s.Switches (s.pauseExpiry p c) := s.switches_sw rfl

theorem State.switches_setGates (s : State) (e : Nat) (f : Gates → Gates) : s.Switches (s.setGates e f) :=
  s.switches_sw rfl

theorem State.switches_gateListStart (s : State) (e : Nat) : s.Switches (s.gateListStart e) := by
  unfold State.gateListStart
  dsimp only
  split
  · exact State.Switches.trans (s.switches_setGates e _) (State.switches_sweep _)
  · exact .refl s

theorem State.switches_gateEntry (s : State) (e : Nat) : s.Switches (s.gateEntry e) := by
  unfold State.gateEntry
  dsimp only
  split
  · exact s.switches_setGates e _
  · exact .refl s

/-- Away from the hub endpoint, service of an output is the switch's own. -/
theorem State.switches_outputService (s : State) {o : Nat} (h : o ≠ 32) : s.Switches (s.outputService o) := by
  have served : s.Switches (s.serveOutput o).1 := s.switches_serveOutput o
  unfold State.outputService
  simp only [h, if_false]
  split
  · next e => rw [e] at served; exact served
  · next e => rw [e] at served; exact served

/-- Every row of the switch is performed as an operation of the switch. -/
theorem exec_switchEvent {c : Instr} (h : switchEvent c = true) :
    ∃ g : State → State, (∀ s, exec c s = s.perform g) ∧ ∀ s : State, s.SwitchActs (g s) := by
  cases c
  case outputService p => exact ⟨_, fun _ => rfl, fun s => (State.switches_outputService s (bne_iff_ne.1 h)).acts⟩
  case frameReceive i e u => exact ⟨_, fun _ => rfl, fun s => State.acts_frameReceive s i e u⟩
  case pfcPauseRepeat p k => exact ⟨_, fun _ => rfl, fun s => (State.switches_pauseRepeat s _ _).acts⟩
  case pauseFrameReceive p k q => exact ⟨_, fun _ => rfl, fun s => (State.switches_pauseReceive s _ _ _).acts⟩
  case pauseQuantaExpiry p k => exact ⟨_, fun _ => rfl, fun s => (State.switches_pauseExpiry s _ _).acts⟩
  case gateListStart e => exact ⟨_, fun _ => rfl, fun s => (State.switches_gateListStart s _).acts⟩
  case gateEntryChange e => exact ⟨_, fun _ => rfl, fun s => (State.switches_gateEntry s _).acts⟩
  all_goals exact absurd h Bool.false_ne_true

theorem acts_of_switchEvent {c : Instr} {s t : State} (h : switchEvent c = true) (hd : s.due = [])
    (ht : exec c s = .next t) : s.SwitchActs t := by
  obtain ⟨g, he, hg⟩ := exec_switchEvent h
  rw [he, State.perform_next] at ht
  split at ht
  · cases ht; exact .refl s
  · cases ht
    rw [State.settled_of_nil hd, State.after_eq ((hg s).only.due.trans hd) (hg s).only.pending]
    exact hg s

/-- Settles O53: every operation of the switch keeps the buffer within its cells. -/
theorem switchBufferNeverOverflows : Obligations.SwitchBufferNeverOverflows := by
  unfold Obligations.SwitchBufferNeverOverflows
  exact ⟨fun c s t h hd hf ht => (acts_of_switchEvent h hd ht).fits hf,
    fun s hf => (s.switches_serveOutput 32).fits hf, fun s e hf => (s.switches_launch e).fits hf⟩

/-! ### Rows of the transport -/

theorem State.only_closeSession (s : State) (n : Nat) : s.OnlyTransport (s.closeSession n) := s.only_setSess _ _

theorem State.only_sendClose (s : State) (n r : Nat) : s.OnlyTransport (s.sendClose n r) := by
  unfold State.sendClose
  dsimp only
  exact (s.only_setRx _ _ _).trans (State.only_emit _ _ _ _)

theorem State.only_resend (s : State) (n c : Nat) (m : Msg) : s.OnlyTransport (s.resend n c m) := by
  unfold State.resend
  dsimp only
  exact ((s.only_setRx _ _ _).trans (State.only_count _ _ _ _ _)).trans (State.only_emit _ _ _ _)

theorem State.only_foldl {α : Type} {f : State → α → State} (hf : ∀ s a, State.OnlyTransport s (f s a)) (l : List α)
    (s : State) : s.OnlyTransport (l.foldl f s) := by
  induction l generalizing s with
  | nil => exact .refl s
  | cons a l ih => exact (hf s a).trans (ih _)

/-- An unsequenced message, taken or not, has an effect of the transport alone before its own. -/
theorem State.only_bare (s : State) (typ : Byte) (f : Frame) (pay : Nat) : s.OnlyTransport (s.bare typ f pay).1 := by
  unfold State.bare
  dsimp only
  split
  · exact .refl s
  split
  · exact s.only_discard
  split
  · exact .refl s
  split
  · next h => exact State.row2_done h
  split
  · exact .refl s
  split
  · exact s.only_count _ _ _ _
  · exact s.only_unsequenced _ f

theorem State.only_rvtNak (s : State) (f : Frame) : s.OnlyTransport (s.rvtNak f) := by
  have taken := s.only_bare 0x05 f 0
  unfold State.rvtNak
  split
  · next e => rw [e] at taken; exact taken
  · next e =>
    rw [e] at taken
    exact taken.trans (State.only_foldl (fun s m => s.only_resend _ _ m) _ _)

theorem State.only_ackDelayExpiry (s : State) (n c : Nat) : s.OnlyTransport (s.ackDelayExpiry n c) := by
  unfold State.ackDelayExpiry
  dsimp only
  split
  · split
    · exact s.only_sendBare _ _ _ _
    · exact .refl s
  · exact .refl s

theorem State.only_sessionDrained (s : State) (n : Nat) : s.OnlyTransport (s.sessionDrained n) := by
  unfold State.sessionDrained
  dsimp only
  split
  · exact .refl s
  split
  · split
    · exact ((s.only_sendClose _ _).trans (State.only_closeSession _ _)).trans (State.only_owe _ (.inl rfl))
    · exact .refl s
  · exact (s.only_closeSession _).trans (State.only_owe _ (.inl rfl))
  · exact .refl s

/-- Every such row is performed as an effect of the transport alone. -/
theorem exec_transportEvent {c : Instr} (h : transportEvent c = true) :
    ∃ g : State → State, (∀ s, exec c s = s.perform g) ∧ ∀ s : State, s.OnlyTransport (g s) := by
  cases c
  case rvtAck f => exact ⟨_, fun _ => rfl, fun s => State.only_bare s _ _ _⟩
  case rvtNak f => exact ⟨_, fun _ => rfl, fun s => State.only_rvtNak s f⟩
  case ackDelayExpiry n c => exact ⟨_, fun _ => rfl, fun s => State.only_ackDelayExpiry s n c⟩
  case sessionDrained n => exact ⟨_, fun _ => rfl, fun s => State.only_sessionDrained s n⟩
  all_goals exact absurd h Bool.false_ne_true

/-- Settles O55: the switch's rows by what its operations change, the transport's by what is left when nothing was
due before. -/
theorem rowsLeaveTheRest : Obligations.RowsLeaveTheRest := by
  unfold Obligations.RowsLeaveTheRest
  refine ⟨⟨fun c s t h hd ht => (acts_of_switchEvent h hd ht).only, fun s => (s.switches_serveOutput 32).acts.only,
    fun s e => (s.switches_launch e).acts.only⟩, fun c s t h hd ht => ?_⟩
  obtain ⟨g, he, hg⟩ := exec_transportEvent h
  rw [he, State.perform_next] at ht
  split at ht
  · cases ht; exact ⟨s, .refl s, (State.after_eq hd rfl).symm⟩
  · cases ht; exact ⟨g s, hg s, by rw [State.settled_of_nil hd]⟩

end Sys2Proof.Machine
end

section
/-! SUPPORT. R495: what the rows that still act on a stopped device may change, and O54. -/

namespace Sys2Proof.Machine

/-! ### What may change on a device that has stopped -/

/-- A stopped device stays stopped, and only its switch, counters, pins and ports, neighbours, events and records and
the count of free values drawn may differ; what leaves it leaves beside its ports. -/
def State.Rests (s t : State) : Prop :=
  s.err.stopped = true → ∃ fr st sw fab er mg pw o, er.stopped = true ∧ (∀ x ∈ o, besidePorts x = true) ∧
    t = { s with free := fr, stat := st, sw := sw, fab := fab, err := er, mgt := mg, pwr := pw, out := s.out ++ o }

theorem State.Rests.refl (s : State) : s.Rests s := fun h =>
  ⟨s.free, s.stat, s.sw, s.fab, s.err, s.mgt, s.pwr, [], h, by simp, by simp⟩

theorem State.Rests.trans {s t u : State} (h : s.Rests t) (k : t.Rests u) : s.Rests u := by
  intro hs
  obtain ⟨_, _, _, _, er, _, _, o, he, ho, rfl⟩ := h hs
  obtain ⟨a, b, c, d, e, f, g, p, he', hp, rfl⟩ := k he
  refine ⟨a, b, c, d, e, f, g, o ++ p, he', fun x hx => ?_, by simp⟩
  exact (List.mem_append.1 hx).elim (ho x) (hp x)

theorem State.rests_ite {p : Prop} [Decidable p] {s t u : State} (h : s.Rests t) (k : s.Rests u) :
    s.Rests (if p then t else u) := by
  split
  · exact h
  · exact k

theorem State.rests_foldl {α : Type} {f : State → α → State} (hf : ∀ s a, State.Rests s (f s a)) (l : List α)
    (s : State) : s.Rests (l.foldl f s) := by
  induction l generalizing s with
  | nil => exact .refl s
  | cons a l ih => exact (hf s a).trans (ih _)

/-- Nothing leaves, and the records go on as they may. -/
theorem State.Rests.of_quiet {s t : State}
    (h : ∃ fr st sw fab er mg pw, er.stopped = s.err.stopped ∧
      t = { s with free := fr, stat := st, sw := sw, fab := fab, err := er, mgt := mg, pwr := pw }) : s.Rests t := by
  obtain ⟨fr, st, sw, fab, er, mg, pw, he, rfl⟩ := h
  exact fun hs => ⟨fr, st, sw, fab, er, mg, pw, [], he.trans hs, by simp, by simp⟩

theorem State.rests_sw (s : State) (w : Switch) : s.Rests { s with sw := w } := .of_quiet ⟨_, _, _, _, s.err, _, _, rfl, rfl⟩

theorem State.rests_pwr (s : State) (w : Power) : s.Rests { s with pwr := w } := .of_quiet ⟨_, _, _, _, s.err, _, _, rfl, rfl⟩

theorem State.rests_mgt (s : State) (m : Mgmt) : s.Rests { s with mgt := m } := .of_quiet ⟨_, _, _, _, s.err, _, _, rfl, rfl⟩

theorem State.rests_out (s : State) {o : Out} (h : besidePorts o = true) : s.Rests { s with out := s.out ++ [o] } :=
  fun hs => ⟨_, _, _, _, s.err, _, _, [o], hs, by simpa using h, rfl⟩

theorem State.rests_count (s : State) (r : Reg) (k n i : Nat) : s.Rests (s.count r k n i) := by
  obtain ⟨st, h⟩ := s.count_shape r k n i
  exact .of_quiet ⟨_, st, _, _, s.err, _, _, rfl, h⟩

theorem State.rests_event (s : State) (t : Nat) (b : List Byte) : s.Rests (s.event t b) := by
  obtain ⟨st, m, h⟩ := s.event_shape t b
  exact .of_quiet ⟨_, st, _, _, s.err, m, _, rfl, h⟩

theorem State.rests_errRecord (s : State) (r : ErrRec) : s.Rests (s.errRecord r) := by
  obtain ⟨l, o, st, m, h⟩ := s.errRecord_shape r
  exact .of_quiet ⟨_, st, _, _, { s.err with log := l, ovf := o }, m, _, rfl, h⟩

theorem State.rests_setOptical (s : State) (e : Nat) (f : PortSt → PortSt) : s.Rests (s.setOptical e f) := s.rests_pwr _

/-! ### Ports that go down -/

/-- A stopped device sends no pause. -/
theorem State.rests_swPause (s : State) (i c : Nat) (q : BitVec 16) : s.Rests (s.swPause i c q) := by
  intro hs
  rw [State.swPause, if_pos hs]
  exact State.Rests.refl s hs

theorem State.rests_setSwQueue (s : State) (o c : Nat) (f : List QItem → List QItem) : s.Rests (s.setSwQueue o c f) :=
  s.rests_sw _

theorem State.rests_setHeld (s : State) (i c : Nat) (l : List (Nat × EthFrame)) : s.Rests (s.setHeld i c l) := s.rests_sw _

theorem State.rests_enqueue (s : State) (o : Nat) (x : QItem) : s.Rests (s.enqueue o x) := by
  unfold State.enqueue
  dsimp only
  refine State.Rests.trans ?_ (State.rests_setSwQueue _ _ _ _)
  split
  · exact s.rests_count _ _ _ _
  · exact .refl s

theorem State.rests_goOnAt (k n : Nat) (s : State) : s.Rests (State.goOnAt k n s) := by
  induction n generalizing s with
  | zero => exact .refl s
  | succ n ih =>
    unfold State.goOnAt
    split
    · exact .refl s
    · split
      · exact .refl s
      · exact ((s.rests_setHeld _ _ _).trans (State.rests_enqueue _ _ _)).trans (ih _)

theorem State.rests_afterDequeue (s : State) : s.Rests s.afterDequeue := by
  unfold State.afterDequeue
  dsimp only
  refine State.Rests.trans ?_ (State.rests_foldl (fun t a => State.rests_goOnAt _ _ t) _ _)
  exact (State.rests_foldl (fun s p => s.rests_swPause _ _ _) _ _).trans (State.rests_sw _ _)

theorem State.rests_sweepGo (n : Nat) (s : State) : s.Rests (State.sweepGo n s) := by
  induction n generalizing s with
  | zero => exact .refl s
  | succ n ih =>
    unfold State.sweepGo
    split
    · exact .refl s
    · refine (State.Rests.trans (State.rests_foldl (fun t h => ?_) _ _) (State.rests_afterDequeue _)).trans (ih _)
      exact (t.rests_setSwQueue _ _ _).trans (State.rests_count _ _ _ _ _)

theorem State.rests_flushPort (s : State) (p : Nat) : s.Rests (s.flushPort p) := by
  have emptied (s : State) : s.Rests ((List.range 8).foldl (fun s c => s.setSwQueue p c fun _ => []) s) :=
    State.rests_foldl (fun s c => s.rests_setSwQueue _ _ _) _ s
  have released (f : Nat × List (Nat × EthFrame) → List (Nat × EthFrame)) (l : Table (List (Nat × EthFrame))) (s : State) :
      s.Rests (l.foldl (fun s h => s.setHeld (h.1 / 8) (h.1 % 8) (f h)) s) :=
    State.rests_foldl (fun s h => s.rests_setHeld _ _ _) _ s
  unfold State.flushPort
  dsimp only
  refine State.Rests.trans (State.Rests.trans ?_ (State.rests_afterDequeue _)) (State.rests_sweepGo _ _)
  split
  · exact (emptied s).trans (released _ _ _)
  · exact ((emptied s).trans (released _ _ _)).trans (State.rests_count _ _ _ _ _)

theorem State.rests_setNbr (s : State) (p : Nat) (x : Neighbour) : s.Rests (s.setNbr p x) := by
  unfold State.setNbr
  dsimp only
  have stored : s.Rests { s with fab := { s.fab with nbr := tset {} s.fab.nbr p x } } :=
    .of_quiet ⟨_, _, _, _, s.err, _, _, rfl, rfl⟩
  split
  · exact stored.trans (State.rests_event _ _ _)
  · exact stored

theorem State.rests_portDown (s : State) (p : Nat) : s.Rests (s.portDown p) := by
  unfold State.portDown
  dsimp only
  split
  · exact .refl s
  split
  · refine State.Rests.trans ?_ (State.rests_setNbr _ _ _)
    exact ((s.rests_setOptical _ _).trans (State.rests_flushPort _ _)).trans (State.rests_sw _ _)
  · exact ((s.rests_setOptical _ _).trans (State.rests_flushPort _ _)).trans (State.rests_sw _ _)

theorem State.rests_opticalDown (s : State) (e : Nat) : s.Rests (s.opticalDown e) :=
  State.rests_foldl (fun s _ => s.rests_portDown _) _ _

/-! ### The rows that still act -/

theorem State.rests_smbDone (s : State) (st : Byte) : s.Rests (s.smbDone st) := by
  have counted : s.Rests (if st = stOk then s else s.count .hubEvtStat 3) :=
    State.rests_ite (.refl s) (s.rests_count _ _ _ _)
  unfold State.smbDone
  exact State.rests_ite (counted.trans (State.rests_errRecord _ _)) counted

theorem State.rests_smbRead (s : State) (count off : Nat) (pecOk codeOk : Bool) :
    s.Rests (s.smbRead count off pecOk codeOk) := by
  unfold State.smbRead
  exact State.rests_ite (.refl s) (State.Rests.trans (s.rests_out rfl) (State.rests_smbDone _ _))

/-- R495: no write over SMBus reaches a register of a stopped device. -/
theorem State.smbCheck_stopped {s : State} (hs : s.err.stopped = true) (count want off : Nat) (pecOk codeOk : Bool) :
    (s.smbCheck true count want off pecOk codeOk).2 = none := by
  unfold State.smbCheck
  split
  · rfl
  split
  · rfl
  split
  · rfl
  · rw [if_pos (by simp [hs])]

theorem State.rests_smbWrite (s : State) (count off : Nat) (v : Word) (pecOk codeOk : Bool) :
    s.Rests (s.smbWrite count off v pecOk codeOk) := by
  intro hs
  unfold State.smbWrite
  dsimp only
  split
  · exact State.Rests.refl s hs
  · rw [State.smbCheck_stopped hs]
    exact ((s.rests_mgt _).trans (State.rests_smbDone _ _)) hs

theorem State.rests_avsWrite (s : State) (mv : Nat) (ok : Bool) : s.Rests (s.avsWrite mv ok) := by
  intro hs
  unfold State.avsWrite
  split
  · exact s.rests_pwr _ hs
  · exact ((s.rests_pwr _).trans (State.rests_count _ _ _ _ _)) hs

theorem State.rests_avsRetry (s : State) (ok : Bool) : s.Rests (s.avsRetry ok) := by
  unfold State.avsRetry
  split
  · exact s.rests_avsWrite _ _
  · exact .refl s

theorem State.rests_avsRead (s : State) (ok : Bool) (mv amps : Nat) : s.Rests (s.avsRead ok mv amps) := by
  unfold State.avsRead
  exact State.rests_ite (s.rests_pwr _) (s.rests_count _ _ _ _)

/-- A stopped device does not stop again; the record it would keep has drawn its type. -/
theorem State.rests_stopFor (s : State) (die : Nat) : s.Rests (s.stopFor die) := by
  intro hs
  have still : s.stopFor die = s.draw.1 := if_pos (c := s.draw.1.err.stopped = true) hs
  rw [still]
  exact State.Rests.of_quiet ⟨_, _, _, _, s.err, _, _, rfl, rfl⟩ hs

theorem State.rests_thermalTrip (s : State) (stack : Bool) (i temp : Nat) : s.Rests (s.thermalTrip stack i temp) := by
  unfold State.thermalTrip
  exact State.rests_ite (.refl s) (State.rests_ite (s.rests_pwr _) ((s.rests_pwr _).trans (State.rests_stopFor _ _)))

theorem State.rests_trainingLoss (s : State) (n : Nat) (r : Bool) : s.Rests (s.trainingLoss n r) := by
  intro hs
  rw [State.trainingLoss, if_pos (by simp [hs])]
  exact State.Rests.refl s hs

theorem State.rests_clockLost (s : State) (i : Nat) : s.Rests (s.clockLost i) := by
  unfold State.clockLost
  dsimp only
  split
  · exact .refl s
  · exact ((s.rests_pwr _).trans (State.rests_count _ _ _ _ _)).trans (State.rests_ite (State.rests_stopFor _ _)
      (State.rests_ite (State.rests_foldl (fun s _ => s.rests_opticalDown _) _ _)
        (State.rests_foldl (fun s _ => s.rests_trainingLoss _ _) _ _)))

theorem State.rests_clockBack (s : State) (i : Nat) : s.Rests (s.clockBack i) := s.rests_pwr _

theorem State.rests_unseat (s : State) (e : Nat) : s.Rests (s.unseat e) :=
  (s.rests_opticalDown e).trans (State.rests_setOptical _ _ _)

theorem State.rests_seat (s : State) (e : Nat) : s.Rests (s.seat e) := s.rests_setOptical _ _

theorem State.rests_supplyLow (s : State) (i : Nat) : s.Rests (s.supplyLow i) :=
  (State.rests_foldl (fun s _ => s.rests_opticalDown _) _ s).trans (State.rests_pwr _ _)

theorem State.rests_smbStatusRead (s : State) : s.Rests s.smbStatusRead :=
  State.rests_ite (s.rests_out rfl) (.refl s)

theorem State.rests_smbAlertResponse (s : State) : s.Rests s.smbAlertResponse :=
  State.rests_ite (s.rests_out rfl) (.refl s)

theorem State.rests_startComplete (s : State) (links : BitVec 32) : s.Rests (s.startComplete links) := by
  intro hs
  rw [State.startComplete, if_pos (by simp [hs])]
  exact State.Rests.refl s hs

theorem State.rests_pwrgdRise (s : State) : s.Rests s.pwrgdRise :=
  State.rests_ite (.refl s) (.of_quiet ⟨_, _, _, _, { s.err with fatal := none }, _, _, rfl, rfl⟩)

theorem State.rests_tap (s : State) (ir : TapIr) : s.Rests (s.tap ir) := by
  unfold State.tap
  exact State.rests_ite ((s.rests_pwr _).trans (State.rests_out _ rfl)) (s.rests_pwr _)

/-- Every row that acts on a stopped device and does not reset it leaves it at rest. -/
theorem exec_rests {c : Instr} (ha : actsStopped c = true) (hr : resetsDevice c = false) :
    ∃ g : State → State, (∀ s, exec c s = s.act g) ∧ ∀ s : State, s.Rests (g s) := by
  cases c
  case smbRead n o p k => exact ⟨(State.smbRead · n o.toNat p k), fun _ => rfl, fun s => State.rests_smbRead s _ _ _ _⟩
  case smbWrite n o v p k => exact ⟨(State.smbWrite · n o.toNat v p k), fun _ => rfl, fun s => State.rests_smbWrite s _ _ _ _ _⟩
  case smbStatusRead => exact ⟨State.smbStatusRead, fun _ => rfl, fun s => State.rests_smbStatusRead s⟩
  case smbAlertResponse => exact ⟨State.smbAlertResponse, fun _ => rfl, fun s => State.rests_smbAlertResponse s⟩
  case avsRead ok mv amps => exact ⟨(State.avsRead · ok mv amps), fun _ => rfl, fun s => State.rests_avsRead s _ _ _⟩
  case avsWriteRetry ok => exact ⟨(State.avsRetry · ok), fun _ => rfl, fun s => State.rests_avsRetry s _⟩
  case thermalTrip k i x => exact ⟨(State.thermalTrip · k i x), fun _ => rfl, fun s => State.rests_thermalTrip s _ _ _⟩
  case refclkLoss i => exact ⟨(State.clockLost · i.toNat), fun _ => rfl, fun s => State.rests_clockLost s _⟩
  case refclkReturn i => exact ⟨(State.clockBack · i.toNat), fun _ => rfl, fun s => State.rests_clockBack s _⟩
  case connectorUnseated e => exact ⟨(State.unseat · e.toNat), fun _ => rfl, fun s => State.rests_unseat s _⟩
  case connectorSeated e => exact ⟨(State.seat · e.toNat), fun _ => rfl, fun s => State.rests_seat s _⟩
  case startComplete l => exact ⟨(State.startComplete · l), fun _ => rfl, fun s => State.rests_startComplete s _⟩
  case supplyBelowMin i => exact ⟨(State.supplyLow · i.toNat), fun _ => rfl, fun s => State.rests_supplyLow s _⟩
  case jtagInstruction ir => exact ⟨(State.tap · ir), fun _ => rfl, fun s => State.rests_tap s _⟩
  case pwrgdRise => exact ⟨State.pwrgdRise, fun _ => rfl, State.rests_pwrgdRise⟩
  case perstFall | perstRise | pwrgdFall | coreUndervolt | deviceResetRegister =>
    exact absurd hr.symm Bool.false_ne_true
  all_goals exact absurd ha Bool.false_ne_true

theorem State.Halted.settled {s : State} (h : s.Halted) : s.settled = s := State.settled_of_nil h.due

/-- A row that does not reset a stopped device leaves it at rest, with nothing due. -/
theorem exec_of_halted {c : Instr} {s t : State} (hs : s.Halted) (hr : resetsDevice c = false) (ht : exec c s = .next t) :
    s.Rests t := by
  cases ha : actsStopped c
  · rw [stoppedDeviceAcceptsNothing c s hs.stop ha] at ht
    cases ht
    exact .refl s
  · obtain ⟨g, he, hg⟩ := exec_rests ha hr
    rw [he, State.act_eq hs.due] at ht
    cases ht
    have rest := hg s
    rw [State.after_eq]
    · exact rest
    all_goals
      obtain ⟨_, _, _, _, _, _, _, _, -, -, e⟩ := rest hs.stop
      rw [e]
    exact hs.due

/-- Settles O54: time alone passes on an empty queue, and every other step is a row that leaves the device at rest. -/
theorem stoppedDeviceStaysStopped : Obligations.StoppedDeviceStaysStopped := by
  unfold Obligations.StoppedDeviceStaysStopped
  intro s t hs hc ht
  cases hp : s.pending with
  | nil =>
    rw [step_of_pending_nil hp] at ht
    cases ht
    exact ⟨⟨hs.due, hs.stop⟩, hp, rfl, rfl, rfl, rfl, rfl, rfl, rfl, rfl, rfl, rfl, [], by simp [State.tick], by simp⟩
  | cons c cs =>
    have ht' : exec c { s with pending := cs } = .next t := by
      unfold step at ht
      rwa [hp] at ht
    obtain ⟨_, _, _, _, er, _, _, o, he, ho, rfl⟩ :=
      exec_of_halted (s := { s with pending := cs }) ⟨hs.due, hs.stop⟩ (hc c cs hp) ht' hs.stop
    exact ⟨⟨hs.due, he⟩, rfl, rfl, rfl, rfl, rfl, rfl, rfl, rfl, rfl, rfl, rfl, o, rfl, ho⟩

end Sys2Proof.Machine
end

section
/-! SUPPORT. R486, R160: what a write to HBM leaves of the bytes and the marks, and O56. -/

namespace Sys2Proof.Machine

/-! ### Sets of numbers and sectors -/

theorem mem_sinsert {k x : Nat} {l : List Nat} : x ∈ sinsert k l ↔ x = k ∨ x ∈ l := by
  induction l with
  | nil => simp [sinsert]
  | cons a t ih =>
    unfold sinsert
    split
    · simp
    · split
      · next h => subst h; simp
      · simp only [List.mem_cons, ih]; tauto

theorem mem_serase {k x : Nat} {l : List Nat} : x ∈ serase k l ↔ x ∈ l ∧ x ≠ k := by
  simp [serase]

/-- The sectors that n bytes from a touch. -/
theorem mem_sectorsOf {a n sc : Nat} (h : n ≠ 0) : sc ∈ sectorsOf a n ↔ a / 64 ≤ sc ∧ sc ≤ (a + n - 1) / 64 := by
  simp only [sectorsOf, if_neg h, List.mem_map, List.mem_range]
  constructor
  · rintro ⟨k, hk, rfl⟩
    omega
  · exact fun ⟨h1, h2⟩ => ⟨sc - a / 64, by omega, by omega⟩

/-! ### Marks (R486) -/

/-- Meeting another sector leaves this one's mark as it is. -/
theorem State.meetSector_mark_ne (s : State) {x sc : Nat} (off : Nat) (h : sc ≠ x) :
    sc ∈ (s.meetSector x off).mem.poison ↔ sc ∈ s.mem.poison := by
  rcases s.meetSector_mem x off with e | e | e <;> rw [e]
  simp only [mem_sinsert, h, false_or]

/-- Meeting a sector does not clear its mark. -/
theorem State.meetSector_mark (s : State) {sc : Nat} (off : Nat) (h : sc ∈ s.mem.poison) :
    sc ∈ (s.meetSector sc off).mem.poison := by
  rcases s.meetSector_mem sc off with e | e | e <;> rw [e]
  · exact h
  · exact h
  · exact mem_sinsert.2 (.inl rfl)

/-- What a write of n bytes at a, of which the first lies at device offset off, does to sector sc before its bytes go
in. -/
def State.writeSector (a n off : Nat) (s : State) (sc : Nat) : State :=
  if decide (a ≤ sc * 64) && decide (sc * 64 + 64 ≤ a + n) then
    { s with mem := { s.mem with poison := serase sc s.mem.poison
                                 flawed := serase sc s.mem.flawed
                                 broken := serase sc s.mem.broken } }
  else s.meetSector sc (off - a % 64 + (sc - a / 64) * 64)

section
variable {a n off sc : Nat}

theorem State.writeSector_mark_ne (s : State) {x : Nat} (h : sc ≠ x) :
    sc ∈ (s.writeSector a n off x).mem.poison ↔ sc ∈ s.mem.poison := by
  unfold State.writeSector
  split
  · exact mem_serase.trans (and_iff_left h)
  · exact s.meetSector_mark_ne _ h

theorem State.writeSector_unmarks (s : State) (h : a ≤ sc * 64 ∧ sc * 64 + 64 ≤ a + n) :
    sc ∉ (s.writeSector a n off sc).mem.poison := by
  rw [State.writeSector, if_pos (by simpa using h)]
  exact fun hm => (mem_serase.1 hm).2 rfl

theorem State.writeSector_keeps_mark (s : State) (h : sc * 64 < a ∨ a + n < sc * 64 + 64) (hm : sc ∈ s.mem.poison) :
    sc ∈ (s.writeSector a n off sc).mem.poison := by
  rw [State.writeSector, if_neg (by simp; omega)]
  exact s.meetSector_mark _ hm

theorem State.foldl_writeSector_mark_ne (l : List Nat) (s : State) (h : sc ∉ l) :
    sc ∈ (l.foldl (State.writeSector a n off) s).mem.poison ↔ sc ∈ s.mem.poison := by
  induction l generalizing s with
  | nil => rfl
  | cons x l ih =>
    obtain ⟨hx, hl⟩ := not_or.1 (List.mem_cons.not.1 h)
    exact (ih _ hl).trans (s.writeSector_mark_ne hx)

/-- A sector that is covered whole is unmarked when its turn has come. -/
theorem State.foldl_writeSector_unmarks (l : List Nat) (s : State) (h : a ≤ sc * 64 ∧ sc * 64 + 64 ≤ a + n)
    (hl : sc ∈ l ∨ sc ∉ s.mem.poison) : sc ∉ (l.foldl (State.writeSector a n off) s).mem.poison := by
  induction l generalizing s with
  | nil => exact hl.resolve_left (List.not_mem_nil)
  | cons x l ih =>
    refine ih _ ?_
    by_cases hx : sc = x
    · subst hx
      exact .inr (s.writeSector_unmarks h)
    · refine hl.imp (fun hm => (List.mem_cons.1 hm).resolve_left hx) fun hm => ?_
      exact (s.writeSector_mark_ne hx).not.2 hm

theorem State.foldl_writeSector_keeps_mark (l : List Nat) (s : State) (h : sc * 64 < a ∨ a + n < sc * 64 + 64)
    (hm : sc ∈ s.mem.poison) : sc ∈ (l.foldl (State.writeSector a n off) s).mem.poison := by
  induction l generalizing s with
  | nil => exact hm
  | cons x l ih =>
    refine ih _ ?_
    by_cases hx : sc = x
    · subst hx
      exact s.writeSector_keeps_mark h hm
    · exact (s.writeSector_mark_ne hx).2 hm

end

/-- The marks after a write are those that its sectors' turns leave. -/
theorem State.writeHbm_marks (s : State) (a : Nat) (bs : List Byte) (off : Nat) :
    (s.writeHbm a bs off).mem.poison =
      ((sectorsOf a bs.length).foldl (State.writeSector a bs.length off) s).mem.poison :=
  (Memory.put_marks _ a bs).1

/-! ### Reading back -/

theorem State.hbmBytes_of_good {s : State} {a : Nat} {bs : List Byte}
    (hg : ∀ sc ∈ sectorsOf a bs.length, s.sectorBad sc = false) (hb : ∀ i (h : i < bs.length), s.mem.byte (a + i) = bs[i]) :
    s.hbmBytes a bs.length = bs := by
  refine List.ext_getElem (by simp [State.hbmBytes]) fun i h _ => ?_
  have hi : i < bs.length := by simpa [State.hbmBytes] using h
  have good : s.sectorBad ((a + i) / 64) = false := hg _ ((mem_sectorsOf (by omega)).2 (by omega))
  simp only [State.hbmBytes, List.getElem_map, List.getElem_range, good, hb i hi, Bool.false_eq_true, if_false]

/-- Settles O56: the bytes by `writeHbm_byte`, the marks by what each sector's turn does to its own. -/
theorem hbmReadsWhatWasWritten : Obligations.HbmReadsWhatWasWritten := by
  unfold Obligations.HbmReadsWhatWasWritten
  intro s a off bs hw hbs t
  have hn : bs.length ≠ 0 := fun h => hbs (List.length_eq_zero_iff.1 h)
  have marks : t.mem.poison = _ := s.writeHbm_marks a bs off
  have contains (sc : Nat) (l : List Nat) : (l.contains sc = true) = (sc ∈ l) := by simp
  refine ⟨State.writeHbm_wf a bs off hw, fun x hx => ?_, fun hg => State.hbmBytes_of_good hg fun i hi => ?_,
    fun sc hsc h1 h2 => ?_, fun sc h => ?_, fun sc h hm => ?_⟩
  · rw [State.writeHbm_byte a bs off x hw, dif_neg (by omega)]
  · rw [State.writeHbm_byte a bs off (a + i) hw, dif_pos (by omega)]
    simp only [Nat.add_sub_cancel_left]
  · rw [Bool.eq_false_iff, ne_eq, contains, marks]
    exact State.foldl_writeSector_unmarks _ s ⟨h1, h2⟩ (.inl hsc)
  · rw [Bool.eq_iff_iff, contains, contains, marks]
    refine (State.foldl_writeSector_mark_ne _ s ?_).symm
    rw [mem_sectorsOf hn]
    omega
  · rw [contains] at hm ⊢
    rw [marks]
    exact State.foldl_writeSector_keeps_mark _ s h hm

end Sys2Proof.Machine
end

section
/-! SUPPORT. R14, R539: what a plain write leaves in each register, and O57. -/

namespace Sys2Proof.Machine

/-- A register reads the fields that were stored. -/
theorem State.at_putAt_same {s : State} (a : RegAt) (w : Word) (h : tsorted 0 s.cfg = true) : (s.putAt a w).at a = w :=
  tget_tset_same h

theorem State.at_putAt_ne (s : State) {a b : RegAt} (w : Word) (h : b.off ≠ a.off) : (s.putAt a w).at b = s.at b := by
  unfold State.at State.putAt tset
  dsimp only
  split
  · exact tget_terase_ne h
  · exact tget_tinsert_ne h

/-- Each bit of a write by the access type of its field (R14). -/
theorem getLsbD_storedWrite (s : State) (a : RegAt) (v : Word) {i : Nat} (hi : i < 64) :
    (storedWrite s a v).getLsbD i =
      if a.reg.desc.rw.getLsbD i || (a.reg.desc.rwl.getLsbD i && !s.devLock) then v.getLsbD i else (s.at a).getLsbD i := by
  have locked : (if s.devLock then (0 : Word) else a.reg.desc.rwl).getLsbD i = (a.reg.desc.rwl.getLsbD i && !s.devLock) := by
    cases s.devLock <;> simp
  simp only [storedWrite, BitVec.getLsbD_or, BitVec.getLsbD_and, BitVec.getLsbD_not, hi, locked, decide_true,
    Bool.true_and]
  cases a.reg.desc.rw.getLsbD i || (a.reg.desc.rwl.getLsbD i && !s.devLock) <;> simp

/-- Settles O57: a plain write stores `storedWrite`. -/
theorem registerFieldsByAccessType : Obligations.RegisterFieldsByAccessType := by
  unfold Obligations.RegisterFieldsByAccessType
  intro s a v hs t
  refine ⟨fun i hi => ?_, fun b hb => s.at_putAt_ne _ hb, rfl, tsorted_tset hs⟩
  have stored : t.at a = storedWrite s a v := State.at_putAt_same a _ hs
  rw [stored, getLsbD_storedWrite s a v hi]

end Sys2Proof.Machine
end

section
/-! SUPPORT. R500, R540, R542: what an event and an error record leave of the queue, the log and the alert bits, and
O59. -/

namespace Sys2Proof.Machine

/-! ### Events (R540, R542) -/

/-- The management state after an event: its record joins the queue while there is room, and is lost with ovf. -/
theorem State.event_mgt (s : State) (t : Nat) (b : List Byte) : (s.event t b).mgt =
    { s.mgt with
        nextSeq := s.mgt.nextSeq + 1
        queue := if s.mgt.queue.length < 256 then
            s.mgt.queue ++ [{ type := BitVec.ofNat 8 t, seq := s.mgt.nextSeq, time := s.now, body := evtBody b }]
          else s.mgt.queue
        alert := s.mgt.alert ||| BitVec.ofNat 13 (2 ^ (t - 1)) ||| (if s.mgt.queue.length < 256 then 0 else 0x1000) } := by
  unfold State.event
  dsimp only
  split <;> simp_all

/-- The alert bit of a type that the device has. -/
theorem getLsbD_alertBit {t : Nat} (h1 : 1 ≤ t) (h2 : t ≤ 13) : (BitVec.ofNat 13 (2 ^ (t - 1))).getLsbD (t - 1) = true := by
  rw [BitVec.getLsbD_ofNat, Nat.testBit_two_pow_self, Bool.and_true, decide_eq_true_eq]
  omega

/-! ### The log (R500) -/

theorem length_mergeRec {now : Nat} {r : ErrRec} {log l : List ErrRec} (h : mergeRec now r log = some l) :
    l.length = log.length := by
  unfold mergeRec at h
  dsimp only at h
  split at h
  · cases h
  split at h
  · cases h
  split at h <;> cases h
  simp

theorem length_dropFirst {α : Type} {p : α → Bool} {l : List α} (h : ∃ x ∈ l, p x = true) :
    (dropFirst p l).length + 1 = l.length := by
  induction l with
  | nil => simp at h
  | cons x xs ih =>
    unfold dropFirst
    split
    · rfl
    · next hx =>
      have hxs : ∃ y ∈ xs, p y = true := by simpa [hx] using h
      simpa using ih hxs

section
variable {s : State} {r : ErrRec}

/-- A record of severity 0 that merges joins the one it merges with. -/
theorem State.errRecord_of_merge (h : r.severity = 0) {l : List ErrRec}
    (hm : mergeRec s.now { r with time := s.now } s.err.log = some l) :
    s.errRecord r = { s with err := { s.err with log := l } } := by
  simp only [State.errRecord, h, if_true] at hm ⊢
  simp only [hm]

/-- One of severity 0 that merges with none joins the log while it has room. -/
theorem State.errRecord_of_new (h : r.severity = 0) (hm : mergeRec s.now { r with time := s.now } s.err.log = none) :
    s.errRecord r = if s.err.log.length < 1024 then
        { s with err := { s.err with log := s.err.log ++ [{ r with time := s.now }] } }
      else s.count .hubErrStat 7 := by
  simp only [State.errRecord, h, if_true] at hm ⊢
  simp only [hm]

/-- The log after a graver record, and whether it has lost one that was no less grave. -/
def State.graveLog (s : State) (r : ErrRec) : Errors :=
  if s.err.log.length < 1024 then { s.err with log := s.err.log ++ [r] }
  else if s.err.log.any (·.severity = 0) then { s.err with log := dropFirst (·.severity = 0) s.err.log ++ [r] }
  else { s.err with log := s.err.log.drop 1 ++ [r], ovf := true }

theorem State.errRecord_of_grave (h : r.severity ≠ 0) :
    s.errRecord r = State.event { s with err := s.graveLog { r with time := s.now } } 10 (ErrRec.bytes { r with time := s.now }) := by
  simp only [State.errRecord, h, if_false, State.graveLog]
  congr 1
  split
  · rfl
  · split <;> rfl

theorem State.errRecord_err_of_grave (h : r.severity ≠ 0) : (s.errRecord r).err = s.graveLog { r with time := s.now } := by
  rw [State.errRecord_of_grave h, State.event_err]

theorem State.graveLog_of_room (h : s.err.log.length < 1024) : (s.graveLog r).log = s.err.log ++ [r] := by
  rw [State.graveLog, if_pos h]

theorem State.graveLog_of_light (h : s.err.log.length = 1024) (hx : ∃ x ∈ s.err.log, x.severity = 0) :
    (s.graveLog r).log = dropFirst (·.severity = 0) s.err.log ++ [r] := by
  rw [State.graveLog, if_neg (by omega), if_pos (by simpa using hx)]

theorem State.graveLog_of_full (h : s.err.log.length = 1024) (hx : ∀ x ∈ s.err.log, x.severity ≠ 0) :
    s.graveLog r = { s.err with log := s.err.log.drop 1 ++ [r], ovf := true } := by
  rw [State.graveLog, if_neg (by omega), if_neg (by simpa using hx)]

/-- The log never holds more than 1,024 records. -/
theorem State.length_graveLog (h : s.err.log.length ≤ 1024) : (s.graveLog r).log.length ≤ 1024 := by
  rcases Nat.lt_or_eq_of_le h with h | h
  · rw [State.graveLog_of_room h, List.length_append]
    exact h
  · by_cases hx : ∃ x ∈ s.err.log, x.severity = 0
    · have dropped := length_dropFirst (p := fun x : ErrRec => decide (x.severity = 0)) (by simpa using hx)
      rw [State.graveLog_of_light h hx, List.length_append, List.length_singleton]
      omega
    · rw [State.graveLog_of_full h (by simpa using hx)]
      simp [h]

theorem State.length_errRecord_log (h : s.err.log.length ≤ 1024) : (s.errRecord r).err.log.length ≤ 1024 := by
  by_cases h0 : r.severity = 0
  · cases hm : mergeRec s.now { r with time := s.now } s.err.log with
    | some l => rw [State.errRecord_of_merge h0 hm]; exact (length_mergeRec hm).trans_le h
    | none =>
      rw [State.errRecord_of_new h0 hm]
      split
      · next hl => simpa using hl
      · rwa [State.count_err]
  · rw [State.errRecord_err_of_grave h0]
    exact State.length_graveLog h

end

/-- Settles O59: an event by the management state it leaves, a record by its severity and the room of the log. -/
theorem eventsAndRecords : Obligations.EventsAndRecords := by
  unfold Obligations.EventsAndRecords
  constructor
  · intro s ty b t
    have mgt : t.mgt = _ := s.event_mgt ty b
    rw [mgt]
    refine ⟨rfl, fun h => if_pos h, fun h => ⟨if_neg (Nat.not_lt.2 h), ?_⟩, fun h1 h2 => ?_⟩
    · simp [Nat.not_lt.2 h]
    · simp only [BitVec.getLsbD_or, getLsbD_alertBit h1 h2, Bool.or_true, Bool.true_or]
  · intro s r hl t
    refine ⟨State.length_errRecord_log hl, fun h hs => ?_, fun h hs hm => ?_, fun l hs hm => ?_, fun h hs hm => ?_,
      fun h hs hx => ?_, fun h hs hx => ?_, fun hs => ?_⟩
    · exact (congrArg _ (State.errRecord_err_of_grave hs)).trans (State.graveLog_of_room h)
    · change (s.errRecord r).err.log = _
      rw [State.errRecord_of_new hs hm, if_neg (by omega), State.count_err]
    · change (s.errRecord r).err.log = _ ∧ (s.errRecord r).mgt = _
      rw [State.errRecord_of_merge hs hm]
      exact ⟨rfl, rfl⟩
    · change (s.errRecord r).err.log = _
      rw [State.errRecord_of_new hs hm, if_pos h]
    · exact (congrArg _ (State.errRecord_err_of_grave hs)).trans (State.graveLog_of_light h hx)
    · change (s.errRecord r).err.log = _ ∧ (s.errRecord r).err.ovf = _
      rw [State.errRecord_err_of_grave hs, State.graveLog_of_full h hx]
      exact ⟨rfl, rfl⟩
    · change (s.errRecord r).mgt = _
      rw [State.errRecord_of_grave hs, State.event_mgt, State.event_mgt]

end Sys2Proof.Machine
end

section
/-! SUPPORT. R580: the state after reset, and O60. -/

namespace Sys2Proof.Machine

/-- The bank of stored fields lists nothing that differs from a reset value. -/
theorem State.reset_at (a : RegAt) : State.reset.at a = a.reg.desc.reset := rfl

theorem State.reset_bufferFits : State.reset.BufferFits := ⟨by decide, fun _ h => absurd h List.not_mem_nil, rfl⟩

/-- Settles O60: every table of the state after reset is empty. -/
theorem resetLeaves : Obligations.ResetLeaves := by
  unfold Obligations.ResetLeaves
  refine ⟨rfl, rfl, rfl, State.reset_bufferFits, rfl, rfl, rfl, fun _ => rfl, fun _ => rfl, fun _ => rfl, fun _ => rfl,
    State.reset_at, ?_⟩
  decide

end Sys2Proof.Machine
end

section
/-! SUPPORT. Bits of a written word, rows that are writes of one register, and rows that are requests: the rules that
the statements of single rows rest on. -/

namespace Sys2Proof.Machine

/-! ### Bits -/

theorem bit_eq_bits (w : Word) (i : Nat) : bit w i = (bits w i i == 1) := by
  unfold bit bits
  rw [Nat.add_sub_cancel_left, Nat.pow_one]

/-- A bit reads as it was written. -/
@[simp] theorem bit_putBits_one (w : Word) {i : Nat} (h : i < 64) : bit (putBits w i i 1) i = true := by
  rw [bit_eq_bits, bits_putBits w i i 1 h (Nat.le_refl i), Nat.add_sub_cancel_left]
  rfl

@[simp] theorem bit_putBits_zero (w : Word) {i : Nat} (h : i < 64) : bit (putBits w i i 0) i = false := by
  rw [bit_eq_bits, bits_putBits w i i 0 h (Nat.le_refl i), Nat.zero_mod]
  rfl

/-! ### Rows -/

/-- A row that is a write of a register which the write reaches. -/
theorem State.regRow_of_reaches {s : State} {a : RegAt} (v : Word) (h : s.reaches a = true) :
    s.regRow a v = s.regWrite a v := if_pos h

/-- A performed row on a device that works, by what its effect is. -/
theorem State.Ready.exec_after {s t : State} {c : Instr} {g : State → State} (h : s.Ready)
    (hc : exec c s = s.perform g) (hg : g s = t) : exec c s = .next (s.after t) := by
  rw [hc, h.perform, hg]

/-- A performed row whose effect leaves nothing due. -/
theorem State.Ready.exec_next {s t : State} {c : Instr} {g : State → State} (h : s.Ready)
    (hc : exec c s = s.perform g) (hg : g s = t) (hd : t.due = s.due) (hp : t.pending = s.pending) :
    exec c s = .next t := by
  rw [h.exec_after hc hg, State.after_eq (hd.trans h.due) hp]

/-- A request that is taken has its body's effect on the state that rows 1 to 3 leave. -/
theorem State.Takes.row {s r t : State} {typ : Byte} {f : Frame} {fo : FlagsOk} {n : Nat} {c : Instr} {p : Parse}
    {g : State → State} {parse : State → Nat → Parse} {body : State → Origin → State} (h : s.Takes typ f fo p n r)
    (hc : exec c s = s.perform g) (hg : g s = s.withRequest typ f fo parse body) (hp : parse r n = p)
    (hb : body r (r.originOf n typ f.hdr) = t) :
    exec c s = .next (s.after (t.answerAckreq n (r.originOf n typ f.hdr).inc f)) := by
  subst hp
  exact h.ready.exec_after hc (by rw [hg, State.withRequest_takes h, hb])

end Sys2Proof.Machine
end

section
/-! SUPPORT. Sessions, streams and acknowledgements: O7 to O10. -/

namespace Sys2Proof.Machine

/-! ### How sessions end -/

section
variable {s : State} {n : Nat} {f : Frame}

/-- A received close with reason 0 (R91). -/
theorem State.rvtClose_of_finish (h : Control s 0x03 f 4 n) (hf : field f.payload 0 4 = 0) :
    s.rvtClose f =
      (if isPeerSess n && ((s.unsequenced n f).sess n).state = .open then (s.unsequenced n f).leftOpen n
        else s.unsequenced n f).setSess n fun x => { x with state := .closing } := by
  simp only [State.rvtClose, State.bare_control h, hf]

theorem State.rvtClose_of_abort (h : Control s 0x03 f 4 n) (hf : field f.payload 0 4 = 1 ∨ field f.payload 0 4 = 2) :
    s.rvtClose f = (s.unsequenced n f).failSession n := by
  rcases hf with hf | hf <;> simp only [State.rvtClose, State.bare_control h, hf]

theorem State.rvtClose_of_other (h : Control s 0x03 f 4 n) (hf : 2 < field f.payload 0 4) :
    s.rvtClose f = s.unsequenced n f := by
  simp only [State.rvtClose, State.bare_control h]
  split
  · omega
  · omega
  · omega
  · rfl

theorem State.sessAbort_of_usable (h : (s.sess n).state = .open ∨ (s.sess n).state = .closing) :
    s.sessAbort n = (s.sendClose n 2).failSession n := if_pos h

theorem State.openingTimeout_of_due (h : (s.sess n).state = .opening) (ht : s.rtoMax ≤ s.now - (s.sess n).since) :
    s.openingTimeout n = (s.closeSession n).failWaiting (s.sess n).peerEp.toNat := by
  simp only [State.openingTimeout, h, ht, decide_true, Bool.and_true, if_true]

theorem State.sessionDrained_of_closing (hc : s.sessCmds n (s.sess n).inc = []) (h : (s.sess n).state = .closing)
    (ht : ((s.sess n).tx.all fun t => t.2.unacked.isEmpty && t.2.waiting.isEmpty) = true) :
    s.sessionDrained n = ((s.sendClose n 0).closeSession n).owe .tagFree := by
  simp only [State.sessionDrained, hc, h, ht, bne_self_eq_false, Bool.false_eq_true, if_false, if_true]

theorem State.sessionDrained_of_failed (hc : s.sessCmds n (s.sess n).inc = []) (h : (s.sess n).state = .failed) :
    s.sessionDrained n = (s.closeSession n).owe .tagFree := by
  simp only [State.sessionDrained, hc, h, bne_self_eq_false, Bool.false_eq_true, if_false]

end

/-- Settles O8: each row by its own equation. -/
theorem sessionsEnd : Obligations.SessionsEnd := by
  unfold Obligations.SessionsEnd
  intro s n f hs
  refine ⟨fun h => ?_, fun v hn hr hx => ?_, fun h ht => hs.exec_after rfl (State.openingTimeout_of_due h ht),
    fun hc h ht => hs.exec_after rfl (State.sessionDrained_of_closing hc h ht),
    fun hc h => hs.exec_after rfl (State.sessionDrained_of_failed hc h)⟩
  · exact ⟨fun hf => hs.exec_after rfl (State.rvtClose_of_finish h hf),
      fun hf => hs.exec_after rfl (State.rvtClose_of_abort h hf), fun hf => hs.exec_after rfl (State.rvtClose_of_other h hf)⟩
  · refine hs.exec_after rfl ?_
    rw [if_pos hn, State.regRow_of_reaches _ hr]
    exact (if_pos (bit_putBits_one v (by decide))).trans (State.sessAbort_of_usable hx)

/-! ### Timers of streams -/

section
variable {s : State} {n c : Nat}

theorem State.ackDelayExpiry_of_due {t : Nat} (h : (s.rxOf n c).ackDue = some t)
    (hx : (s.sess n).state = .open ∨ (s.sess n).state = .closing) (ht : s.ackDelay ≤ s.now - t) :
    s.ackDelayExpiry n c = s.sendBare n c 0x04 := by
  rcases hx with hx | hx <;> simp [State.ackDelayExpiry, h, hx, ht]

/-- The timer of a stream's oldest message has run out (R104, R106). -/
theorem State.retxTimerExpiry_of_due {t : Nat} {m : Msg} {ms : List Msg} (h : (s.txOf n c).armed = some t)
    (hm : (s.txOf n c).unacked = m :: ms) (ht : (s.txOf n c).rto ≤ s.now - t) :
    s.retxTimerExpiry n c = if s.retxLimit < (s.txOf n c).expiries + 1 then s.failSession n
      else (s.resend n c m).setTx n c fun x =>
        { x with expiries := x.expiries + 1, rto := min (2 * x.rto) (s.resend n c m).rtoMax
                 armed := some (s.resend n c m).now, cwnd := 9216, cwr := x.cwr || 9216 < x.cwnd } := by
  simp only [State.retxTimerExpiry, h, hm, if_neg (Nat.not_lt.2 ht)]

@[simp] theorem State.resend_due (s : State) (n c : Nat) (m : Msg) : (s.resend n c m).due = s.due := by
  simp [State.resend]

theorem State.OnlyTransport.rtoMax {s t : State} (h : s.OnlyTransport t) : t.rtoMax = s.rtoMax := by
  obtain ⟨_, _, _, _, _, _, _, _, _, rfl⟩ := h; rfl

end

/-- Settles O9: an acknowledgement leaves, or a message is resent, with nothing due; the limit fails the session. -/
theorem streamTimersComplete : Obligations.StreamTimersComplete := by
  unfold Obligations.StreamTimersComplete
  intro s n c hs
  refine ⟨fun t h hx ht => hs.exec_next rfl (State.ackDelayExpiry_of_due h hx ht) (State.sendBare_due _ _ _ _ _)
      (State.sendBare_pending _ _ _ _ _), fun t m ms h hm ht hl => hs.exec_next rfl ?_ ?_ ?_,
    fun t m ms h hm ht hl => hs.exec_after rfl ((State.retxTimerExpiry_of_due h hm ht).trans (if_pos hl))⟩
  · rw [State.retxTimerExpiry_of_due h hm ht, if_neg (Nat.not_lt.2 hl), (s.only_resend n c m).now,
      (s.only_resend n c m).rtoMax]
  · simp
  · exact (s.only_resend n c m).pending

/-- Settles O10, by what a message with nothing wrong in it leaves before its own effect. -/
theorem acknowledgementsComplete : Obligations.AcknowledgementsComplete := by
  unfold Obligations.AcknowledgementsComplete
  intro s f n hs g
  refine ⟨fun h => hs.exec_after rfl ?_, fun h => hs.exec_after rfl ?_⟩
  · rw [State.rvtAck, State.bare_control h]
  · unfold State.rvtNak
    rw [State.bare_control h]

end Sys2Proof.Machine
end

section
/-! SUPPORT. Opening a session from either side: O7. -/

namespace Sys2Proof.Machine

/-- An RVT_OPEN that passes every check on itself (R588). -/
structure GoodOpen (s : State) (f : Frame) (v : Nat) : Prop where
  listens : s.listens = true
  whole : s.row1Bad 0x01 f = false
  family : s.familyOn f.srcIp = true
  sess : f.hdr.dstSess = 0
  ver : f.hdr.ver = 1
  status : f.hdr.status = 0
  body : ctlBad f 16 = false
  zero2 : zeroAt f.payload 2 2 = true
  zero12 : zeroAt f.payload 12 4 = true
  odd : ctlOdd f.hdr = false
  common : s.commonVer (field f.payload 0 1) (field f.payload 1 1) (f.hdr.srcEp.toNat < 65536) = some v
  epoch : s.starting = true ∨ s.epochFences { f.hdr with ver := BitVec.ofNat 8 v } (s.isMgr f.hdr.srcEp) = false

/-- Session n is OPEN or CLOSING by this very RVT_OPEN, which has come again (R588). -/
def State.sameOpen (s : State) (f : Frame) (n : Nat) : Bool :=
  !(s.sess n).opener && (s.sess n).openSess = BitVec.ofNat 32 (field f.payload 4 4)
    && (s.sess n).openIsn = BitVec.ofNat 32 (field f.payload 8 4)
    && ((s.sess n).state = .open || (s.sess n).state = .closing)

/-- Session n opens anew at version v by f: what it held fails, its streams take the initial numbers of both sides, and
RVT_ACCEPT answers (R588, R90). -/
def State.opensAnew (s : State) (f : Frame) (v n : Nat) : State :=
  let isn := BitVec.ofNat 32 (field f.payload 8 4)
  let q := s.failSession n
  let mine := Config.isn q.free
  let r : State := (q.draw.1.freshTx mine).1
  let r : State := { r with xp := { r.xp with incs := r.xp.incs + 1 } }
  let r := r.setSess n fun _ =>
    { state := .open, ver := BitVec.ofNat 8 v, peerEp := f.hdr.srcEp, ip := f.srcIp
      peerSess := BitVec.ofNat 32 (field f.payload 4 4), openIsn := isn, openSess := BitVec.ofNat 32 (field f.payload 4 4)
      isn := mine, opener := false, since := r.now, inc := r.xp.incs, rx := freshRx isn, tx := (q.draw.1.freshTx mine).2 }
  ((r.sendAccept n).owe .tagFree).owe (.sessOpen n)

section
variable {s : State} {f : Frame} {v n : Nat}

theorem GoodOpen.unfenced (h : GoodOpen s f v) :
    (!s.starting && s.epochFences { f.hdr with ver := BitVec.ofNat 8 v } (s.isMgr f.hdr.srcEp)) = false := by
  rcases h.epoch with h | h <;> simp [h]

/-- The checks pass; what is left is which session it meets. -/
theorem GoodOpen.rvtOpen (h : GoodOpen s f v) : s.rvtOpen f =
    match s.sessOf f.hdr.srcEp.toNat with
    | some n => if s.sameOpen f n then s.sendAccept n else s.opensAnew f v n
    | none => match s.freeSess f.hdr.srcEp.toNat with
      | some n => s.opensAnew f v n
      | none => s.refuseOpen f stRetry := by
  have fenced := h.unfenced
  have isNew : (f.hdr.dstSess = 0) = True := eq_true h.sess
  have isNew' : (f.hdr.dstSess != 0) = false := bne_eq_false_iff_eq.2 h.sess
  have status : (f.hdr.status != 0) = false := bne_eq_false_iff_eq.2 h.status
  simp only [State.rvtOpen, h.listens, h.whole, h.family, isNew, isNew', h.ver, status, h.body, h.zero2, h.zero12, h.odd,
    h.common, fenced, bne_self_eq_false, Bool.not_true, Bool.or_false, Bool.false_eq_true, if_false, if_true]
  cases s.sessOf f.hdr.srcEp.toNat with
  | some n =>
    by_cases hs : s.sameOpen f n = true
    · simp only [hs, if_true]
      unfold State.sameOpen at hs
      simp only [hs]
    · simp only [hs]
      unfold State.sameOpen at hs
      simp only [hs]
      rfl
  | none => cases s.freeSess f.hdr.srcEp.toNat <;> rfl

theorem GoodOpen.rvtOpen_of_sess (h : GoodOpen s f v) (hn : s.sessOf f.hdr.srcEp.toNat = some n) :
    s.rvtOpen f = if s.sameOpen f n then s.sendAccept n else s.opensAnew f v n := by
  rw [h.rvtOpen, hn]

theorem GoodOpen.rvtOpen_of_free (h : GoodOpen s f v) (hn : s.sessOf f.hdr.srcEp.toNat = none)
    (hf : s.freeSess f.hdr.srcEp.toNat = some n) : s.rvtOpen f = s.opensAnew f v n := by
  rw [h.rvtOpen, hn, hf]

end

/-- An RVT_ACCEPT that passes every check on itself and meets the device's own OPENING session n (R588). -/
structure GoodAccept (s : State) (f : Frame) (n : Nat) : Prop where
  serves : (s.serving && s.idValid) = true
  whole : s.row1Bad 0x02 f = false
  index : n < 81920
  sess : f.hdr.dstSess.toNat = n
  state : (s.sess n).state = .opening
  ip : (s.sess n).ip = f.srcIp
  ver : f.hdr.ver = 1
  body : ctlBad f 16 = false
  zero1 : zeroAt f.payload 1 3 = true
  zero12 : zeroAt f.payload 12 4 = true
  odd : ctlOdd f.hdr = false

section
variable {s : State} {f : Frame} {n : Nat}

/-- The checks pass but for those on the version of one that accepts. -/
theorem GoodAccept.rvtAccept (h : GoodAccept s f n)
    (hv : f.hdr.status = stOk → field f.payload 0 1 = 2 ∧ 2 ≤ bits (s.hub .hubRvtCfg) 17 16) :
    s.rvtAccept f = if f.hdr.status = stOk then (((s.fencedAnswer f.hdr.status f.hdr.epoch).setSess n fun x =>
        { x with state := .open, ver := BitVec.ofNat 8 (field f.payload 0 1)
                 peerSess := BitVec.ofNat 32 (field f.payload 4 4)
                 rx := freshRx (BitVec.ofNat 32 (field f.payload 8 4)) }).owe .tagFree).owe (.sessOpen n)
      else ((s.fencedAnswer f.hdr.status f.hdr.epoch).closeSession n).failWaiting (s.sess n).peerEp.toNat := by
  have index : decide (81920 ≤ n) = false := decide_eq_false (Nat.not_le.2 h.index)
  have version : (decide (f.hdr.status = stOk) &&
      (field f.payload 0 1 != 2 || decide (bits (s.hub .hubRvtCfg) 17 16 < 2))) = false := by
    by_cases hst : f.hdr.status = stOk
    · obtain ⟨v, m⟩ := hv hst
      rw [v, decide_eq_false (Nat.not_lt.2 m), bne_self_eq_false, Bool.or_false, Bool.and_false]
    · rw [decide_eq_false hst, Bool.false_and]
  simp only [State.rvtAccept, h.serves, h.whole, h.sess, h.state, h.ip, h.ver, h.body, h.zero1, h.zero12, h.odd, index,
    version, bne_self_eq_false, Bool.not_true, Bool.or_false, Bool.false_eq_true, if_false]

theorem GoodAccept.rvtAccept_of_ok (h : GoodAccept s f n) (hst : f.hdr.status = stOk) (hv : field f.payload 0 1 = 2)
    (hm : 2 ≤ bits (s.hub .hubRvtCfg) 17 16) :
    s.rvtAccept f = ((s.setSess n fun x =>
        { x with state := .open, ver := 2, peerSess := BitVec.ofNat 32 (field f.payload 4 4)
                 rx := freshRx (BitVec.ofNat 32 (field f.payload 8 4)) }).owe .tagFree).owe (.sessOpen n) := by
  have unfenced : s.fencedAnswer f.hdr.status f.hdr.epoch = s := by rw [hst]; rfl
  rw [h.rvtAccept fun _ => ⟨hv, hm⟩, if_pos hst, unfenced, hv]
  rfl

theorem GoodAccept.rvtAccept_of_refused (h : GoodAccept s f n) (hst : f.hdr.status ≠ stOk) :
    s.rvtAccept f = ((s.fencedAnswer f.hdr.status f.hdr.epoch).closeSession n).failWaiting (s.sess n).peerEp.toNat := by
  rw [h.rvtAccept fun k => absurd k hst, if_neg hst]

end

/-- Settles O7: an RVT_OPEN by the session that its endpoint has, an RVT_ACCEPT by its status. -/
theorem sessionsOpen : Obligations.SessionsOpen := by
  unfold Obligations.SessionsOpen
  constructor
  · intro s f v hs hl hw hfam hsess hver hst hbody hz2 hz12 hodd hc he isn peer same opened
    have good : GoodOpen s f v := ⟨hl, hw, hfam, hsess, hver, hst, hbody, hz2, hz12, hodd, hc, he⟩
    have same_iff (n : Nat) : s.sameOpen f n = true ↔ same n := by
      simp [State.sameOpen, same, isn, peer, and_assoc]
    refine ⟨fun n hn => ⟨fun h => hs.exec_after rfl ?_, fun h => hs.exec_after rfl ?_⟩,
      fun n hn hf => hs.exec_after rfl (good.rvtOpen_of_free hn hf)⟩
    · rw [good.rvtOpen_of_sess hn, if_pos ((same_iff n).2 h)]
    · rw [good.rvtOpen_of_sess hn, if_neg fun k => h ((same_iff n).1 k)]
      rfl
  · intro s f n hs hserv hid hw hi hn ho hip hver hbody hz1 hz12 hodd
    have good : GoodAccept s f n :=
      ⟨by rw [hserv, hid]; rfl, hw, hi, hn, ho, hip, hver, hbody, hz1, hz12, hodd⟩
    exact ⟨fun h hv hm => hs.exec_after rfl (good.rvtAccept_of_ok h hv hm),
      fun h => hs.exec_after rfl (good.rvtAccept_of_refused h)⟩

end Sys2Proof.Machine
end

section
/-! SUPPORT. Completions, PT_INVAL, a received COH_RECALL and the event session's sender: O11. -/

namespace Sys2Proof.Machine

section
variable {s r : State} {f : Frame} {n : Nat}

/-- A completion with nothing wrong in it reaches its request (R109). -/
theorem State.rvtCpl_of_good (h : s.Arrives 0x15 f n r) (hv : r.verOn f.hdr = true)
    (hb : (r.headerBad n { f.hdr with status := 0 } {} || f.hdr.addr != 0 || f.hdr.opLen != 0) = false)
    (ho : (r.notHere 0x15 || flagsOdd { f.hdr with flags := f.hdr.flags &&& ~~~(BitVec.ofNat 16 8) } {}) = false)
    (h7 : r.row7 n f.hdr = false) :
    s.rvtCpl f = (r.takeCpl n f.hdr f.payload).answerAckreq n (r.originOf n 0x15 f.hdr).inc f := by
  simp only [State.rvtCpl, h.listens, h.whole, h.sess, h.order, hv, hb, ho, h7, Bool.not_true, Bool.false_eq_true,
    if_false, if_true]
  rfl

/-- A request that stage 1 refuses completes with its status; only FENCED and an engine command's refusal count. -/
theorem State.withRequest_of_refused {typ : Byte} {fo : FlagsOk} {parse : State → Nat → Parse}
    {body : State → Origin → State} {st : Byte} (h : s.Arrives typ f n r)
    (hst : r.stage1 n f.hdr fo { parse r n with odd := (parse r n).odd || r.notHere typ } = st)
    (h0 : st ≠ stOk) (hf : st ≠ stFenced) (ht : typ ≠ 0x30) :
    s.withRequest typ f fo parse body =
      (r.sendCpl (r.originOf n typ f.hdr) st []).answerAckreq n (r.originOf n typ f.hdr).inc f := by
  simp only [State.withRequest, h.listens, h.whole, h.sess, h.order, hst, h0, hf, ht, Bool.not_true, Bool.false_eq_true,
    if_false]

/-- The oldest record that is not out leaves on the event session (R543). -/
theorem State.eventSend_of_open {i : Nat} {e : EvtRec} (hs : s.serving = true) (he : s.evtEn = true)
    (hr : s.err.restarting = false) (ho : (s.sess s.evtSess).state = .open)
    (hi : (s.mgt.queue.findIdx? fun x => !x.outOn s.evtSess (s.sess s.evtSess).inc) = some i) (hq : s.mgt.queue[i]? = some e) :
    s.eventSend = State.sendSeq { s with mgt := { s.mgt with queue := (s.mgt.queue.set i
          { e with sent := some (s.evtSess, (s.sess s.evtSess).inc, (s.txOf s.evtSess 7).next) }) } }
        s.evtSess 7 0x23 {} e.bytes := by
  simp only [State.eventSend, hs, he, hr, ho, hi, hq, bne_self_eq_false, Bool.not_true, Bool.or_false, Bool.false_eq_true,
    if_false]

end

/-- Settles O11. -/
theorem otherMessagesComplete : Obligations.OtherMessagesComplete := by
  unfold Obligations.OtherMessagesComplete
  intro s f n r
  refine ⟨fun h hv hb ho h7 c hc => ?_, fun h => ?_, fun h hst => ?_,
    fun i e hr hs he hn ho hi hq => hr.exec_after rfl (State.eventSend_of_open hs he hn ho hi hq)⟩
  · have good := State.rvtCpl_of_good h hv hb ho h7
    rcases hc with rfl | rfl
    · exact h.ready.exec_after rfl good
    · exact h.ready.exec_after rfl good
  · intro o c tab i hq
    refine h.row rfl (by unfold State.ptInval; rfl) rfl ?_
    dsimp only
    rw [hq]
    rfl
  · intro o
    refine h.ready.exec_after rfl ?_
    unfold State.cohRecallReceived
    exact State.withRequest_of_refused h hst (by decide) (by decide) (by decide)

end Sys2Proof.Machine
end

section
/-! SUPPORT. Memory messages, fences, drains and held signals: O12 and O13. -/

namespace Sys2Proof.Machine

section
variable {s t : State} {o : Origin} {f : Frame} {p : Perm} {u : Upset} {mk : Nat → Access} {g : Nat}

theorem State.upsetAccess_header : s.upsetAccess o f p .header mk = s.hurtHeader o (if p.r then f.hdr.opLen.toNat else 0) :=
  if_pos rfl

/-- An access that passes stage 2 is accepted, whatever word of it was hurt but its header (R482). -/
theorem State.upsetAccess_of_stage2 (hu : u ≠ .header) (hs : (s.applyUpset u).err.stopped = false)
    (h : (s.applyUpset u).stage2 o f.hdr.addr.toNat f.hdr.opLen.toNat p = (t, .inr g)) :
    s.upsetAccess o f p u mk = (t.upsetNand g u).internal (.msg o) o.context (mk g) := by
  simp only [State.upsetAccess, hu, hs, h, Bool.false_eq_true, if_false]

theorem State.acceptAccess_of_stage2 {len : Nat} (h : s.stage2 o f.hdr.addr.toNat len p = (t, .inr g)) :
    s.acceptAccess o f len p mk = t.internal (.msg o) o.context (mk g) := by
  simp only [State.acceptAccess, h]

end

/-- Settles O12. -/
theorem memoryMessagesAreAccepted : Obligations.MemoryMessagesAreAccepted := by
  unfold Obligations.MemoryMessagesAreAccepted
  intro s f n r t g o len
  refine ⟨fun h => ⟨fun u hu hs hg => ?_, ?_⟩, fun h => ⟨fun u hu hs hg => ?_, ?_⟩, fun p h hp hg => ?_, fun p h hp hg => ?_⟩
  · refine h.row rfl (by unfold State.memRead; rfl) rfl ?_
    rw [State.upsetAccess_of_stage2 hu hs hg]
  · refine h.row rfl (by unfold State.memRead; rfl) rfl ?_
    rw [State.upsetAccess_header]
    rfl
  · refine h.row rfl (by unfold State.memWrite; rfl) rfl ?_
    rw [State.upsetAccess_of_stage2 hu hs hg]
  · refine h.row rfl (by unfold State.memWrite; rfl) rfl ?_
    rw [State.upsetAccess_header]
    rfl
  · refine h.row rfl (by unfold State.memAtomic; rfl) hp.symm ?_
    rw [State.acceptAccess_of_stage2 hg]
  · intro a
    refine h.row rfl (by unfold State.memSignal; rfl) hp.symm ?_
    dsimp only
    rw [hg]

/-! ### Fences, drains and held signals -/

section
variable {s : State} {id : Nat} {c : Cmd} {o : Origin} (h : s.findCmd id = some c) (hc : c.src = .msg o)
include h hc

theorem State.fenceComplete_of_done {upto : List (Nat × Word32)} (hb : c.body = .fence upto)
    (hd : s.sessLive o.sess o.inc = false ∨ s.fenceDone id o upto = true) :
    s.fenceComplete id = (s.dropCmd id).sendCpl o stOk [] := by
  rcases hd with hd | hd <;> simp [State.fenceComplete, h, hc, hb, hd]

theorem State.drainComplete_of_done {ids : List Nat} (hb : c.body = .drain ids)
    (hd : (s.cmds.any fun c => ids.contains c.id) = false) :
    s.drainComplete id = ((s.dropCmd id).sendCpl o stOk []).count .hubMmStat 3 := by
  simp only [State.drainComplete, h, hc, hb, hd, Bool.false_eq_true, if_false]

theorem State.orderedSignalRelease_of_free {a : Access} (hb : c.body = .held a) (hw : s.signalWaits o = false) :
    s.orderedSignalRelease id = (s.setCmd id fun c => { c with body := .access a }).startAccess id := by
  simp only [State.orderedSignalRelease, h, hc, hb, hw, Bool.false_eq_true, if_false]

end

/-- Settles O13. -/
theorem fencesAndDrains : Obligations.FencesAndDrains := by
  unfold Obligations.FencesAndDrains
  constructor
  · intro s f n r
    refine ⟨fun h => ?_, fun h => ?_⟩
    · intro o hq upto
      refine h.row rfl (by unfold State.memFence; rfl) rfl ?_
      dsimp only
      rw [hq]
      rfl
    · intro o hq
      refine h.row rfl (by unfold State.memDrain; rfl) rfl ?_
      dsimp only
      rw [hq]
      rfl
  · intro s id c o hs h hc
    exact ⟨fun upto hb hd => hs.exec_after rfl (State.fenceComplete_of_done h hc hb hd),
      fun ids hb hd => hs.exec_after rfl (State.drainComplete_of_done h hc hb hd),
      fun a hb hw => hs.exec_after rfl (State.orderedSignalRelease_of_free h hc hb hw)⟩

end Sys2Proof.Machine
end

section
/-! SUPPORT. Management accesses, engine commands, coherence requests and peer messages that are taken: O15 to O18. -/

namespace Sys2Proof.Machine

/-! ### Management accesses (R123, R498) -/

section
variable {bad : Option Nat} {n k off : Nat} {s : State} {bs : List Byte} {a : RegAt}

theorem State.readRegs_of_good (h : s.regHere off = some a) (hb : s.blockFailed a = false) (hk : bad ≠ some k) :
    State.readRegs bad (n + 1) k off s bs =
      State.readRegs bad n (k + 1) (off + 8) s (bs ++ leBytes 8 (s.regRead a).toNat) := by
  simp only [State.readRegs, h, hb, hk, Bool.false_eq_true, if_false]

theorem State.writeRegs_of_good (h : s.regHere off = some a) (hb : s.blockFailed a = false) (hk : bad ≠ some k) :
    State.writeRegs bad (n + 1) k off bs s =
      State.writeRegs bad n (k + 1) (off + 8) (bs.drop 8) (s.regWrite a (wordOf bs 0)) := by
  simp only [State.writeRegs, h, hb, hk, Bool.false_eq_true, if_false]

theorem State.readRegs_of_codeBad (h : s.regHere off = some a) (hb : s.blockFailed a = false) (hk : bad = some k) :
    State.readRegs bad (n + 1) k off s bs = (s.codeFailed, stRetry, []) := by
  simp only [State.readRegs, h, hb, hk, Bool.false_eq_true, if_false, if_true]

theorem State.writeRegs_of_codeBad (h : s.regHere off = some a) (hb : s.blockFailed a = false) (hk : bad = some k) :
    State.writeRegs bad (n + 1) k off bs s = (s.codeFailed, stRetry) := by
  simp only [State.writeRegs, h, hb, hk, Bool.false_eq_true, if_false, if_true]

theorem State.readRegs_of_none (h : s.regHere off = none) :
    State.readRegs bad (n + 1) k off s bs = (s, stUnsupported, []) := by
  simp only [State.readRegs, h]

theorem State.writeRegs_of_none (h : s.regHere off = none) :
    State.writeRegs bad (n + 1) k off bs s = (s, stUnsupported) := by
  simp only [State.writeRegs, h]

end

/-- Settles O15. -/
theorem managementAccessesComplete : Obligations.ManagementAccessesComplete := by
  unfold Obligations.ManagementAccessesComplete
  refine ⟨fun s f n r bad => ⟨fun h hq => ?_, fun h hq => ?_⟩,
    fun bad n k off s bs a h hb => ⟨State.readRegs_of_good h hb, State.writeRegs_of_good h hb,
      fun hk => ⟨State.readRegs_of_codeBad h hb hk, State.writeRegs_of_codeBad h hb hk⟩⟩,
    fun bad n k off s bs h => ⟨State.readRegs_of_none h, State.writeRegs_of_none h⟩⟩
  · intro x
    refine h.row rfl (by unfold State.mgRead; rfl) rfl ?_
    dsimp only
    rw [hq]
    rfl
  · intro x
    refine h.row rfl (by unfold State.mgWrite; rfl) rfl ?_
    dsimp only
    rw [hq]
    rfl

end Sys2Proof.Machine
end

section
/-! SUPPORT. Engine commands, coherence requests and peer messages that are taken: O16 to O18. -/

namespace Sys2Proof.Machine

/-! ### Engine commands -/

/-- Every engine row is the acceptance of an engine command. -/
theorem exec_engineRow {c : Instr} {f : Frame} (hm : messageOf c = some (0x30, f)) (s : State) :
    exec c s = s.perform fun s => s.engCmd f := by
  cases c <;> cases hm <;> rfl

/-- The quadrant whose unit serves an engine command with selector `sel`, of the operands `os` (R122). -/
def State.quadFor (t : State) (u sel : Nat) (y : UnitForm) (b : List Byte) (os : List Opnd) : Nat :=
  if sel = 0xFF then (if u ≤ 5 then t.routeTo ((os.getD (y.route b) ⟨0, 0, false, false⟩).gfa) else 0xFF) else sel

/-- An engine command that passes stage 2, to an enabled unit with room, is accepted and its queue is due (R122). -/
theorem State.engAccept_of_good {r t : State} {o : Origin} {f : Frame} {u q : Nat} {y : UnitForm} {os : List Opnd}
    (hc : r.ctxCheck o = stOk)
    (ht : r.transOps (o.ctxField.toNat % 4096) (if isCommon (BitVec.ofNat 8 (field f.payload 0 1))
      then commonOps f.payload else y.operands f.payload) = (t, some os))
    (hq : t.quadFor u (f.hdr.addr.toNat / 256 % 256) y f.payload os = q)
    (he : (t.unit u q).state = .enabled) (hl : t.overLimit o = false) :
    r.engAccept o f u y = (t.accept (.msg o) (o.ctxField.toNat % 4096) (.eng
      { unit := u, quad := q, queue := f.hdr.addr.toNat / 65536 % 65536, op := BitVec.ofNat 8 (field f.payload 0 1)
        body := f.payload, opnds := os, binds := t.bindsOf (o.ctxField.toNat % 4096) })).1.owe
          (.queue u q (f.hdr.addr.toNat / 65536 % 65536)) := by
  unfold State.quadFor at hq
  simp only [State.engAccept, hc, ht, hq, he, hl, bne_self_eq_false, Bool.false_eq_true, if_false]

/-- Settles O16. -/
theorem engineCommandsAreAccepted : Obligations.EngineCommandsAreAccepted := by
  unfold Obligations.EngineCommandsAreAccepted
  intro c f s n r t y os hm u sel k op o ctx h hy hc ht q he hl
  refine h.row (exec_engineRow hm s) (by unfold State.engCmd; rfl) rfl ?_
  have accepted := State.engAccept_of_good hc ht (u := u) (q := q) rfl he hl
  rw [hy]
  exact congrArg (State.noteSync · r.nextId) accepted

/-! ### Coherence requests -/

/-- A coherence request that passes stage 2 with room is accepted and goes to stage 3 (R175). -/
theorem State.takenCoh_of_good {s r t : State} {f : Frame} {typ : Byte} {k : CohKind} {p : Perm} {n g : Nat} {c : Instr}
    (he : exec c s = s.perform fun s => s.cohRequest f typ k p)
    (h : s.Takes typ f {} { bad := f.hdr.opLen != 128 || f.hdr.addr.toNat % 128 != 0
                              || f.hdr.payLen.toNat != (if k = .wb then 136 else 0) || (k = .wb && 2 ≤ field f.payload 128 8)
                            odd := r.v1 n || 4 < f.hdr.cls } n r) :
    let o := r.originOf n typ f.hdr
    let ctx := o.ctxField.toNat % 4096
    r.ctxCheck o = stOk → r.slotsOf ctx ≠ [] → r.translate ctx f.hdr.addr.toNat 128 p = (t, some g) → t.overLimit o = false →
    let m := match (r.slotsOf ctx).find? fun x => t.domState x.1 != .idle with
      | some x => x
      | none => (r.slotsOf ctx).headD (0, 0)
    let a := t.accept (.msg o) ctx (.coh { kind := k, line := gfaOff g / 128, domain := m.1, host := m.2
                                           data := f.payload.take 128, keep := field f.payload 128 8 % 2 = 1 })
    exec c s = .next (s.after ((a.1.cohStage3 a.2 g).answerAckreq n o.inc f)) := by
  intro o ctx hc hs ht hl m a
  refine h.row he (by unfold State.cohRequest; rfl) rfl ?_
  dsimp only
  rw [hc, ht]
  exact (if_neg hs).trans (if_neg (ne_true_of_eq_false hl))

/-- Settles O17: the five requests differ by their kind and permissions only. -/
theorem coherenceRequestsAreAccepted : Obligations.CoherenceRequestsAreAccepted := by
  unfold Obligations.CoherenceRequestsAreAccepted
  intro s f n r t g typ k p c hmem
  refine State.takenCoh_of_good ?_
  simp only [List.mem_cons, Prod.mk.injEq, List.not_mem_nil, or_false] at hmem
  rcases hmem with ⟨rfl, rfl, rfl, rfl⟩ | ⟨rfl, rfl, rfl, rfl⟩ | ⟨rfl, rfl, rfl, rfl⟩ | ⟨rfl, rfl, rfl, rfl⟩ |
    ⟨rfl, rfl, rfl, rfl⟩ <;> rfl

end Sys2Proof.Machine
end

section
/-! SUPPORT. Baton messages, Hurdle commands, attestation requests and Heat parts from a peer: O18. -/

namespace Sys2Proof.Machine

/-- A request from a peer's session that is taken has its unit's effect, behind the check of its session. -/
theorem State.Takes.peerRow {s r t : State} {typ : Byte} {f : Frame} {fo : FlagsOk} {n : Nat} {c : Instr} {p : Parse}
    {g : State → State} {parse : State → Nat → Parse} {act : State → Origin → State}
    (h : s.Takes typ f fo p n r) (hn : isPeerSess n = true) (hc : exec c s = s.perform g)
    (hg : g s = s.withRequest typ f fo parse fun s o => if !isPeerSess o.sess then s.sendCpl o stSegmentFault [] else act s o)
    (hp : parse r n = p) (ha : act r (r.originOf n typ f.hdr) = t) :
    exec c s = .next (s.after (t.answerAckreq n (r.originOf n typ f.hdr).inc f)) := by
  refine h.row hc hg hp ?_
  have peer : isPeerSess (r.originOf n typ f.hdr).sess = true := hn
  rw [peer]
  exact ha

/-- Settles O18: each message's checks pass by the premises, in the order in which its unit makes them. -/
theorem peerMessagesComplete : Obligations.PeerMessagesComplete := by
  unfold Obligations.PeerMessagesComplete
  constructor
  · intro s f n r b
    refine ⟨fun h hn => ?_, fun h hn hu => ?_, fun h => ?_⟩
    · intro o l hl h20 h42 h56 h25 h32 ha hr hcfg hcap
      refine h.peerRow hn rfl (by unfold State.batonOffer State.batonMsg; rfl) rfl ?_
      have reserved : (!zeroAt b 20 4 || !zeroAt b 42 6 || !zeroAt b 56 8 || !zeroAt b 25 1 || !zeroAt b 32 2) = false := by
        rw [h20, h42, h56, h25, h32]
        rfl
      have armed : ((r.lane l).state != LaneState.armed ||
          ((r.lane l).reqId != 0 && (r.lane l).reqId != BitVec.ofNat 64 (field b 8 8))) = false := by
        rcases hr with hr | hr <;> simp [ha, hr]
      have fits : (slice b 24 18 != (r.lane l).config || decide ((r.lane l).cap < field b 16 4)) = false := by
        simp [hcfg, hcap]
      exact (if_neg (Nat.not_lt.2 hl)).trans <| (if_neg (ne_true_of_eq_false reserved)).trans <|
        (if_neg (ne_true_of_eq_false armed)).trans <| (if_neg (ne_true_of_eq_false fits)).trans rfl
    · intro o
      refine h.peerRow hn rfl (by unfold State.hdlPeer; rfl) rfl ?_
      exact if_neg (by rw [hu]; decide)
    · intro o hm hid hlen
      have room : ¬ 16 ≤ r.attests.length := Nat.not_le.2 hlen
      refine ⟨fun hw => ?_, fun cert hw hcert => ?_⟩
      · refine h.row rfl (by unfold State.secAttest; rfl) rfl ?_
        rw [hm, hid, hw]
        exact if_neg room
      · refine h.row rfl (by unfold State.secAttest; rfl) rfl ?_
        rw [hm, hid, hw, hcert]
        exact if_neg room
  · intro s f n r b hn
    refine ⟨fun l h => ?_, fun l im h => ?_, fun l h => ?_, fun h => ?_, fun h => ?_⟩
    · intro o hl off x hs ho hlt hb w
      refine h.peerRow hn rfl (by unfold State.batonData State.batonMsg; rfl) rfl ?_
      have placed : (off % 4096 != 0 || decide (x.imageBytes ≤ off) || b.length != min 4096 (x.imageBytes - off)) = false := by
        simp [ho, Nat.not_le.2 hlt, hb]
      rw [hl]
      exact (if_neg (ne_true_of_eq_false placed)).trans (if_neg (ne_true_of_eq_false hs))
    · intro o hl hgen him hcrc
      refine h.peerRow hn rfl (by unfold State.batonCommit State.batonMsg; rfl) rfl ?_
      rw [hl]
      refine (if_neg (by simp [hgen, b])).trans ?_
      rw [him]
      exact if_neg (by simp [hcrc, b])
    · intro o hl
      refine h.peerRow hn rfl (by unfold State.batonRelease State.batonMsg; rfl) rfl ?_
      dsimp only
      rw [hl]
    · intro o req hrs
      refine ⟨fun hrec => ?_, fun l hrec => ?_⟩
      · refine h.peerRow hn rfl (by unfold State.batonQuery State.batonMsg; rfl) rfl ?_
        dsimp only
        rw [hrs, List.foldl_nil, hrec]
      · refine h.peerRow hn rfl (by unfold State.batonQuery State.batonMsg; rfl) rfl ?_
        dsimp only
        rw [hrs, List.foldl_nil, hrec]
    · intro o g q t running hold hg hu hpb hv hsrc hdev hdone hroom a
      refine h.peerRow hn rfl (by unfold State.guHeat; rfl) rfl ?_
      have named : (!(decide (g < 64) && t.groupValid g) || decide (t.groupSize g ≤ field b 2 1)
          || (t.groupMember g (field b 2 1)).device != n) = false := by
        simp [hg, hv, Nat.not_le.2 hsrc, hdev]
      have fresh : (match (t.group g).completed with | some k => decide (field b 8 8 ≤ k) | none => false) = false := by
        split
        next k hk => exact decide_eq_false (Nat.not_le.2 (hdone k hk))
        next => rfl
      have room : (hold && !(t.bufOn q && ((t.heldOn q).length + 1) * 4096 ≤ t.extLen (bits (t.quad q .guCfg) 11 0))) = false := by
        cases hh : hold
        · rfl
        · rw [hroom hh]
          rfl
      refine (if_neg hu).trans ((if_neg (ne_true_of_eq_false hpb)).trans ?_)
      refine (if_neg (ne_true_of_eq_false named)).trans ((if_neg (ne_true_of_eq_false fresh)).trans ?_)
      exact if_neg (ne_true_of_eq_false room)

end Sys2Proof.Machine
end

section
/-! SUPPORT. Which stacks stay alive while sectors are met, and what a data access does to memory: O14. -/

namespace Sys2Proof.Machine

/-! ### Failed stacks and quadrants stay failed, and none fails but by its own loss (R488) -/

@[simp] theorem State.errRecord_stackHealth (s : State) (r : ErrRec) (m : Nat) : (s.errRecord r).stackHealth m = s.stackHealth m := by
  obtain ⟨l, o, st, mg, h⟩ := s.errRecord_shape r
  rw [h]
  rfl

@[simp] theorem State.errRecord_quadHealth (s : State) (r : ErrRec) (m : Nat) : (s.errRecord r).quadHealth m = s.quadHealth m := by
  obtain ⟨l, o, st, mg, h⟩ := s.errRecord_shape r
  rw [h]
  rfl

/-- What a table reads after an entry other than its default is set. -/
theorem tget_tset_of_ne_default {α : Type} [DecidableEq α] {d v : α} (t : Table α) (k k' : Nat) (hv : v ≠ d) :
    tget d (tset d t k v) k' = if k' = k then v else tget d t k' := by
  rw [tset, if_neg hv]
  split
  · next h => rw [h, tget_tinsert_same]
  · next h => exact tget_tinsert_ne h

section
variable {s : State} {n m : Nat} {h : Health}

theorem State.setQuad_quadHealth (hh : h ≠ .ok) : (s.setQuad n h).quadHealth m = s.quadHealth m ∨
    s.quadHealth m ≠ .failed ∧ (s.setQuad n h).quadHealth m = h := by
  unfold State.setQuad
  dsimp only
  split
  · exact .inl rfl
  · next hf =>
    have set : State.quadHealth { s with err := { s.err with quads := tset .ok s.err.quads n h } } m =
        if m = n then h else s.quadHealth m := tget_tset_of_ne_default _ _ _ hh
    have keeps : ∀ t : State, (if h = Health.failed then t.owe (.quadFail n) else t).quadHealth m = t.quadHealth m := by
      intro t
      split <;> rfl
    rw [keeps, State.errRecord_quadHealth, set]
    by_cases hm : m = n
    · subst hm
      exact .inr ⟨fun k => hf (.inl k), if_pos rfl⟩
    · exact .inl (if_neg hm)

theorem State.setQuad_stackHealth : (s.setQuad n h).stackHealth m = s.stackHealth m := by
  unfold State.setQuad
  dsimp only
  split
  · rfl
  · split
    · exact State.errRecord_stackHealth _ _ _
    · exact State.errRecord_stackHealth _ _ _

theorem State.setStack_stackHealth (hh : h ≠ .ok) : (s.setStack n h).stackHealth m = s.stackHealth m ∨
    s.stackHealth m ≠ .failed ∧ (s.setStack n h).stackHealth m = h := by
  unfold State.setStack
  dsimp only
  split
  · exact .inl rfl
  · next hf =>
    have set : State.stackHealth { s with err := { s.err with stk := tset .ok s.err.stk n h } } m =
        if m = n then h else s.stackHealth m := tget_tset_of_ne_default _ _ _ hh
    have owes : ∀ t : State, (if h = Health.failed then t.owe (.stackFail n) else t).stackHealth m = t.stackHealth m := by
      intro t
      split <;> rfl
    have degrades : ∀ (c : Bool) (t : State), (if c then t.setQuad (n / 4) .degraded else t).stackHealth m = t.stackHealth m := by
      intro c t
      split
      · exact State.setQuad_stackHealth
      · rfl
    rw [degrades, owes, State.errRecord_stackHealth, set]
    by_cases hm : m = n
    · subst hm
      exact .inr ⟨fun k => hf (.inl k), if_pos rfl⟩
    · exact .inl (if_neg hm)

theorem State.setStack_quadHealth : (s.setStack n h).quadHealth m = s.quadHealth m ∨
    s.quadHealth m ≠ .failed ∧ (s.setStack n h).quadHealth m = .degraded := by
  unfold State.setStack
  dsimp only
  split
  · exact .inl rfl
  · have degrades : ∀ (c : Bool) (t : State), t.quadHealth m = s.quadHealth m →
        (if c then t.setQuad (n / 4) .degraded else t).quadHealth m = s.quadHealth m ∨
        s.quadHealth m ≠ .failed ∧ (if c then t.setQuad (n / 4) .degraded else t).quadHealth m = .degraded := by
      intro c t ht
      rw [← ht]
      split
      · exact State.setQuad_quadHealth (by decide)
      · exact .inl rfl
    refine degrades _ _ ?_
    split
    · exact State.errRecord_quadHealth _ _ _
    · exact State.errRecord_quadHealth _ _ _

/-- A degraded stack gives data, and so does every other that gave data. -/
theorem State.setStack_degraded_stackDead : (s.setStack n .degraded).stackDead m = s.stackDead m := by
  unfold State.stackDead
  rcases s.setStack_stackHealth (n := n) (m := m) (h := .degraded) (by decide) with hs | ⟨hs, hs'⟩ <;>
  rcases s.setStack_quadHealth (n := n) (m := m / 4) (h := .degraded) with hq | ⟨hq, hq'⟩ <;> simp [*]

/-- A stack that is lost stays lost. -/
theorem State.setStack_stackDead (hh : h ≠ .ok) (hd : s.stackDead m = true) : (s.setStack n h).stackDead m = true := by
  unfold State.stackDead at *
  rcases s.setStack_stackHealth (n := n) (m := m) hh with hs | ⟨hs, hs'⟩ <;>
  rcases s.setStack_quadHealth (n := n) (m := m / 4) (h := h) with hq | ⟨hq, hq'⟩ <;> simp_all

end

/-! ### Sectors that read well -/

section
variable {s : State} {sc x off : Nat}

theorem State.stackDead_of_health {t : State} {m : Nat} (h : t.err.stk = s.err.stk) (hq : t.err.quads = s.err.quads) :
    t.stackDead m = s.stackDead m := by
  unfold State.stackDead State.stackHealth State.quadHealth
  rw [h, hq]

theorem State.errRecord_stackDead (r : ErrRec) (m : Nat) : (s.errRecord r).stackDead m = s.stackDead m := by
  obtain ⟨l, o, st, mg, h⟩ := s.errRecord_shape r
  rw [h]
  rfl

/-- A sector whose data are not lost, met, costs no stack. -/
theorem State.meetSector_stackDead_of_whole (hb : sc ∉ s.mem.broken) (m : Nat) :
    (s.meetSector sc off).stackDead m = s.stackDead m := by
  unfold State.meetSector
  dsimp only
  split
  · rfl
  · split
    · next h => exact absurd (by simpa using h) hb
    · split
      · have met (t : State) (l : Table Nat) : ({ t with err := { t.err with ceTimes := l } } : State).stackDead m = t.stackDead m := rfl
        split
        · rw [State.setStack_degraded_stackDead, met, State.errRecord_stackDead]
          exact State.stackDead_of_health (by simp) (by simp)
        · rw [met, State.errRecord_stackDead]
          exact State.stackDead_of_health (by simp) (by simp)
      · rfl

theorem State.meetSector_stackDead {m : Nat} (h : s.stackDead m = true) : (s.meetSector sc off).stackDead m = true := by
  by_cases hb : sc ∈ s.mem.broken
  · unfold State.meetSector
    dsimp only
    split
    · exact h
    · have marked (t : State) (l : Table Nat) : ({ t with err := { t.err with ueMarks := l } } : State).stackDead m = t.stackDead m := rfl
      have lost (c : Prop) [Decidable c] (t : State) (k : Nat) (ht : t.stackDead m = true) :
          (if c then t.setStack k .failed else t).stackDead m = true := by
        split
        · exact State.setStack_stackDead (by decide) ht
        · exact ht
      rw [if_pos (by simpa using hb)]
      refine lost _ _ _ ?_
      rw [marked, State.errRecord_stackDead]
      exact (State.stackDead_of_health (by simp) (by simp)).trans h
  · rw [State.meetSector_stackDead_of_whole hb, h]

theorem State.meetSector_broken : x ∈ (s.meetSector sc off).mem.broken → x ∈ s.mem.broken := by
  rcases s.meetSector_mem sc off with e | e | e <;> rw [e]
  · exact id
  · exact id
  · exact fun h => (mem_serase.1 h).1

theorem State.meetSector_broken_ne (h : x ≠ sc) (hx : x ∈ s.mem.broken) : x ∈ (s.meetSector sc off).mem.broken := by
  rcases s.meetSector_mem sc off with e | e | e <;> rw [e]
  · exact hx
  · exact hx
  · exact mem_serase.2 ⟨hx, h⟩

theorem State.sectorBad_iff : s.sectorBad sc = true ↔ s.stackDead (secStack sc) = true ∨ sc ∈ s.mem.poison := by
  simp [State.sectorBad]

/-- A bad sector stays bad when any sector is met. -/
theorem State.meetSector_sectorBad (h : s.sectorBad x = true) : (s.meetSector sc off).sectorBad x = true := by
  rw [State.sectorBad_iff] at h ⊢
  refine h.imp State.meetSector_stackDead fun hp => ?_
  rcases s.meetSector_mem sc off with e | e | e <;> rw [e]
  · exact hp
  · exact hp
  · exact mem_sinsert.2 (.inr hp)

/-- A sector whose data are lost is bad once it is met (R485). -/
theorem State.meetSector_sectorBad_of_broken (h : sc ∈ s.mem.broken) : (s.meetSector sc off).sectorBad sc = true := by
  rw [State.sectorBad_iff]
  by_cases hd : s.stackDead (secStack sc) = true
  · exact .inl (State.meetSector_stackDead hd)
  · right
    unfold State.meetSector
    dsimp only
    rw [if_neg hd, if_pos (by simpa using h)]
    split <;> simp [mem_sinsert]

theorem State.foldl_meetSector_sectorBad (g : Nat → Nat) (l : List Nat) (s : State) (h : s.sectorBad x = true) :
    (l.foldl (fun s sc => s.meetSector sc (g sc)) s).sectorBad x = true := by
  induction l generalizing s with
  | nil => exact h
  | cons y l ih => exact ih _ (State.meetSector_sectorBad h)

theorem State.foldl_meetSector_sectorBad_of_broken (g : Nat → Nat) (l : List Nat) (s : State) (hx : x ∈ l)
    (h : x ∈ s.mem.broken) : (l.foldl (fun s sc => s.meetSector sc (g sc)) s).sectorBad x = true := by
  induction l generalizing s with
  | nil => exact absurd hx List.not_mem_nil
  | cons y l ih =>
    by_cases hxy : x = y
    · subst hxy
      exact State.foldl_meetSector_sectorBad g l _ (State.meetSector_sectorBad_of_broken h)
    · exact ih _ ((List.mem_cons.1 hx).resolve_left hxy) (State.meetSector_broken_ne hxy h)

end

/-- Every sector of [k, k+n) stands in a stack that gives data, and none has lost its own. -/
structure State.Whole (s : State) (k n : Nat) : Prop where
  live : ∀ sc ∈ sectorsOf k n, s.stackDead (secStack sc) = false
  kept : ∀ sc ∈ sectorsOf k n, sc ∉ s.mem.broken

section
variable {s : State} {k n off : Nat}

/-- Bytes that read well stand in whole sectors. -/
theorem State.whole_of_readHbm (h : (s.readHbm k n off).2.2 = false) : s.Whole k n := by
  have good : ∀ sc ∈ sectorsOf k n, (s.readHbm k n off).1.sectorBad sc = false := fun sc hsc =>
    Bool.eq_false_iff.2 (List.any_eq_false.1 h sc hsc)
  have fails {sc : Nat} (hsc : sc ∈ sectorsOf k n) (hb : (s.readHbm k n off).1.sectorBad sc = true) : False :=
    Bool.false_ne_true ((good sc hsc).symm.trans hb)
  refine ⟨fun sc hsc => Bool.eq_false_iff.2 fun hd => fails hsc ?_, fun sc hsc hb => fails hsc ?_⟩
  · exact State.foldl_meetSector_sectorBad _ _ s (State.sectorBad_iff.2 (.inl hd))
  · exact State.foldl_meetSector_sectorBad_of_broken _ _ s hsc hb

/-- Bytes that read well are those of memory. -/
theorem State.readHbm_bytes (h : (s.readHbm k n off).2.2 = false) : (s.readHbm k n off).2.1 = s.mem.bytes k n := by
  have same : ∀ x, (s.readHbm k n off).1.mem.byte x = s.mem.byte x := fun x => by
    simp only [Memory.byte, State.readHbm_hbm]
  refine List.map_congr_left fun i hi => ?_
  have hi := List.mem_range.1 hi
  have good : (s.readHbm k n off).1.sectorBad ((k + i) / 64) = false :=
    Bool.eq_false_iff.2 (List.any_eq_false.1 h _ ((mem_sectorsOf (by omega)).2 (by omega)))
  exact (if_neg (ne_true_of_eq_false good)).trans (same _)

theorem State.Whole.stackDead (h : s.Whole k n) {i : Nat} (hi : i < n) : s.stackDead ((k + i) / 2 ^ 36) = false := by
  have := h.live ((k + i) / 64) ((mem_sectorsOf (by omega)).2 (by omega))
  rwa [secStack, Nat.div_div_eq_div_mul] at this

theorem State.Whole.meetSector {sc : Nat} (h : s.Whole k n) (hsc : sc ∈ sectorsOf k n) (off : Nat) :
    (s.meetSector sc off).Whole k n :=
  ⟨fun x hx => (State.meetSector_stackDead_of_whole (h.kept sc hsc) _).trans (h.live x hx),
    fun x hx hb => h.kept x hx (State.meetSector_broken hb)⟩

theorem State.Whole.writeSector {a m sc : Nat} (h : s.Whole k n) (hsc : sc ∈ sectorsOf k n) :
    (s.writeSector a m off sc).Whole k n := by
  unfold State.writeSector
  split
  · exact ⟨h.live, fun x hx hb => h.kept x hx (mem_serase.1 hb).1⟩
  · exact h.meetSector hsc _

/-- A write within whole sectors leaves them whole. -/
theorem State.Whole.writeHbm {a : Nat} {bs : List Byte} (h : s.Whole k n) (ha : k ≤ a) (hb : a + bs.length ≤ k + n) :
    (s.writeHbm a bs off).Whole k n := by
  have within : ∀ sc ∈ sectorsOf a bs.length, sc ∈ sectorsOf k n := by
    intro sc hsc
    by_cases h0 : bs.length = 0
    · rw [sectorsOf, if_pos h0] at hsc
      exact absurd hsc List.not_mem_nil
    · rw [mem_sectorsOf h0] at hsc
      rw [mem_sectorsOf (by omega)]
      omega
  have turns : ∀ (l : List Nat) (t : State), (∀ sc ∈ l, sc ∈ sectorsOf k n) → t.Whole k n →
      (l.foldl (State.writeSector a bs.length off) t).Whole k n := by
    intro l
    induction l with
    | nil => exact fun t _ ht => ht
    | cons y l ih => exact fun t hl ht => ih _ (fun x hx => hl x (.tail _ hx)) (ht.writeSector (hl y (.head _)))
  obtain ⟨live, kept⟩ := turns _ s within h
  refine ⟨live, fun sc hsc => ?_⟩
  obtain ⟨-, -, hk⟩ := Memory.put_marks ((sectorsOf a bs.length).foldl (State.writeSector a bs.length off) s).mem a bs
  exact fun hm => kept sc hsc (hk ▸ hm)

end

end Sys2Proof.Machine
end

section
/-! SUPPORT. The bytes that a write-back's mask holds, and what a data access does over one run: O14. -/

namespace Sys2Proof.Machine

/-! ### The windows of a mask (R131) -/

/-- Some window, by its first byte and length, holds byte i. -/
def Covered (ws : List (Nat × Nat)) (i : Nat) : Prop := ∃ w ∈ ws, w.1 ≤ i ∧ i < w.1 + w.2

theorem covered_append {vs ws : List (Nat × Nat)} {i : Nat} : Covered (vs ++ ws) i ↔ Covered vs i ∨ Covered ws i := by
  simp only [Covered, List.mem_append, or_and_right, exists_or]

theorem covered_singleton {o n i : Nat} : Covered [(o, n)] i ↔ o ≤ i ∧ i < o + n := by simp [Covered]

/-- Bit i of a mask joins the last window or begins one. -/
def maskStep (m : BitVec 128) (rs : List (Nat × Nat)) (i : Nat) : List (Nat × Nat) :=
  if m.getLsbD i then
    match rs.getLast? with
    | some (o, n) => if o + n = i then rs.dropLast ++ [(o, n + 1)] else rs ++ [(i, 1)]
    | none => [(i, 1)]
  else rs

theorem dirtyRuns_eq (m : BitVec 128) : dirtyRuns m = (List.range 128).foldl (maskStep m) [] := rfl

/-- The windows of the bits below n: each ends at n or before it, and together they hold the bits set. -/
structure WindowsOf (m : BitVec 128) (n : Nat) (rs : List (Nat × Nat)) : Prop where
  bound : ∀ w ∈ rs, w.1 + w.2 ≤ n ∧ 0 < w.2
  holds : ∀ i, Covered rs i ↔ i < n ∧ m.getLsbD i = true

theorem WindowsOf.maskStep {m : BitVec 128} {n : Nat} {rs : List (Nat × Nat)} (h : WindowsOf m n rs) :
    WindowsOf m (n + 1) (maskStep m rs n) := by
  obtain ⟨bound, holds⟩ := h
  unfold Machine.maskStep
  split
  · next hb =>
    have joined (i : Nat) : (i < n ∧ m.getLsbD i = true) ∨ i = n ↔ i < n + 1 ∧ m.getLsbD i = true := by
      constructor
      · rintro (⟨h1, h2⟩ | rfl)
        · exact ⟨by omega, h2⟩
        · exact ⟨by omega, hb⟩
      · rintro ⟨h1, h2⟩
        by_cases hi : i = n
        · exact .inr hi
        · exact .inl ⟨by omega, h2⟩
    have fresh : WindowsOf m (n + 1) (rs ++ [(n, 1)]) := by
      refine ⟨fun w hw => ?_, fun i => ?_⟩
      · rcases List.mem_append.1 hw with hw | hw
        · exact ⟨by have := (bound w hw).1; omega, (bound w hw).2⟩
        · rw [List.mem_singleton.1 hw]
          exact ⟨Nat.le_refl _, Nat.one_pos⟩
      · rw [covered_append, covered_singleton, holds, ← joined]
        exact or_congr_right (by omega)
    split
    · next o k hl =>
      have split_last : rs = rs.dropLast ++ [(o, k)] := by
        obtain ⟨ys, rfl⟩ := List.getLast?_eq_some_iff.1 hl
        simp
      split
      · next hok =>
        refine ⟨fun w hw => ?_, fun i => ?_⟩
        · rcases List.mem_append.1 hw with hw | hw
          · have := bound w (List.mem_of_mem_dropLast hw)
            exact ⟨by omega, this.2⟩
          · rw [List.mem_singleton.1 hw]
            exact ⟨by dsimp only; omega, Nat.succ_pos _⟩
        · have hc := holds i
          rw [split_last, covered_append, covered_singleton] at hc
          rw [covered_append, covered_singleton, ← joined, ← hc, or_assoc]
          exact or_congr_right (by omega)
      · exact fresh
    · next hl =>
      rw [List.getLast?_eq_none_iff.1 hl] at fresh
      exact fresh
  · next hb =>
    refine ⟨fun w hw => ⟨by have := (bound w hw).1; omega, (bound w hw).2⟩, fun i => (holds i).trans ?_⟩
    refine ⟨fun ⟨h1, h2⟩ => ⟨by omega, h2⟩, fun ⟨h1, h2⟩ => ⟨?_, h2⟩⟩
    by_contra hi
    exact hb (by rwa [show i = n by omega] at h2)

theorem windowsOf_dirtyRuns (m : BitVec 128) : WindowsOf m 128 (dirtyRuns m) := by
  have upTo (n : Nat) : WindowsOf m n ((List.range n).foldl (maskStep m) []) := by
    induction n with
    | zero => exact ⟨fun w hw => absurd hw List.not_mem_nil, fun i => by simp [Covered]⟩
    | succ n ih =>
      rw [List.range_succ, List.foldl_append]
      exact ih.maskStep
  rw [dirtyRuns_eq]
  exact upTo 128

theorem getLsbD_lineMask_zero (n i : Nat) : (lineMask 0 n).getLsbD i = (decide (i < 128) && decide (i < n)) := by
  rw [lineMask, Nat.pow_zero, Nat.mul_one, BitVec.getLsbD_ofNat, Nat.testBit_two_pow_sub_one]

section
variable {a : Access} {p : Part}

/-- The windows of a part stand within it. -/
theorem Access.writes_bound (hp : 0 < p.len) : ∀ w ∈ a.writes p, w.1 + w.2 ≤ p.len ∧ 0 < w.2 := by
  unfold Access.writes
  split
  · intro w hw
    rw [List.mem_singleton.1 hw]
    exact ⟨by dsimp only; omega, hp⟩
  · next m _ =>
    intro w hw
    have win := windowsOf_dirtyRuns ((m >>> p.pos) &&& lineMask 0 p.len)
    obtain ⟨-, hpos⟩ := win.bound w hw
    refine ⟨?_, hpos⟩
    obtain ⟨-, last⟩ := (win.holds (w.1 + w.2 - 1)).1 ⟨w, hw, by omega, by omega⟩
    rw [BitVec.getLsbD_and, getLsbD_lineMask_zero] at last
    simp only [Bool.and_eq_true, decide_eq_true_eq] at last
    omega

/-- The windows of a part hold the bytes that its mask holds (R131). -/
theorem Access.writes_covered {i : Nat} (hi : i < p.len) :
    Covered (a.writes p) i ↔ (a.mask.map fun m => m.getLsbD (p.pos + i)) ≠ some false := by
  unfold Access.writes
  split
  · next h => simp [h, covered_singleton, hi]
  · next m h =>
    rw [(windowsOf_dirtyRuns _).holds, h, BitVec.getLsbD_and, getLsbD_lineMask_zero, BitVec.getLsbD_ushiftRight]
    have inLine : m.getLsbD (p.pos + i) = true → i < 128 := fun hm => by
      have := BitVec.lt_of_getLsbD hm
      omega
    by_cases hb : m.getLsbD (p.pos + i) = true
    · simp [hb, hi, inLine hb]
    · simp [hb]

end

end Sys2Proof.Machine
end

section
/-! SUPPORT. The data access itself: O14. -/

namespace Sys2Proof.Machine

section
variable {s : State} {k n off o : Nat} {bs : List Byte} {a : Access} {p : Part} {id home : Nat}

/-! ### One run of HBM -/

theorem subRuns_hbm {w : Nat × Nat} (h : w.1 + w.2 ≤ n) (h0 : 0 < w.2) :
    subRuns [(.hbm k, n, off)] w.1 w.2 = [(.hbm (k + w.1), w.2, off + w.1)] := by
  unfold subRuns
  rw [if_neg (by omega)]
  dsimp only
  rw [show min w.2 (n - w.1) = w.2 by omega, if_neg (by omega)]
  rfl

theorem State.writeRuns_hbm (h : s.stackDead (k / 2 ^ 36) = false) :
    s.writeRuns [(.hbm k, n, off)] bs [] = s.writeHbm k (bs.take n) off :=
  (if_neg (ne_true_of_eq_false h)).trans rfl

theorem State.runsDead_hbm : s.runsDead [(.hbm k, n, off)] = s.stackDead (k / 2 ^ 36) := by
  simp [State.runsDead, State.locDead]

theorem State.readRuns_hbm : s.readRuns [(.hbm k, n, off)] = s.readHbm k n off := by
  simp [State.readRuns, State.readLoc]

/-- Bytes read back as they were written. -/
theorem State.writeHbm_bytes (hw : s.mem.wf = true) : (s.writeHbm k bs off).mem.bytes k bs.length = bs := by
  refine List.ext_getElem (by simp [Memory.bytes]) fun i hi _ => ?_
  have hi : i < bs.length := by simpa [Memory.bytes] using hi
  simp only [Memory.bytes, List.getElem_map, List.getElem_range]
  rw [State.writeHbm_byte _ _ _ _ hw, dif_pos (by omega)]
  simp only [Nat.add_sub_cancel_left]

/-! ### A write's windows, one by one -/

/-- What a write of a part leaves in memory: the bytes of its windows are its data, every other is as before. -/
structure Put (a : Access) (p : Part) (k : Nat) (s : State) (ws : List (Nat × Nat)) (t : State) : Prop where
  wf : t.mem.wf = true
  whole : t.Whole k p.len
  out : ∀ x, x < k ∨ k + p.len ≤ x → t.mem.byte x = s.mem.byte x
  covered : ∀ i, i < p.len → p.pos + i < a.data.length → Covered ws i → t.mem.byte (k + i) = a.data.getD (p.pos + i) 0
  rest : ∀ i, i < p.len → ¬ Covered ws i → t.mem.byte (k + i) = s.mem.byte (k + i)

/-- One more window of the data. -/
theorem Put.window {ws : List (Nat × Nat)} {t : State} {w : Nat × Nat} (h : Put a p k s ws t) (hw : w.1 + w.2 ≤ p.len) :
    Put a p k s (ws ++ [w]) (t.writeHbm (k + w.1) (((a.data.drop (p.pos + w.1)).take w.2).take w.2) o) := by
  obtain ⟨wf, whole, out, covered, rest⟩ := h
  rw [List.take_take, Nat.min_self]
  have len : ((a.data.drop (p.pos + w.1)).take w.2).length = min w.2 (a.data.length - (p.pos + w.1)) := by simp
  refine ⟨State.writeHbm_wf _ _ _ wf, whole.writeHbm (by omega) (by omega), fun x hx => ?_, fun i hi hd hc => ?_, fun i hi hc => ?_⟩
  · rw [State.writeHbm_byte _ _ _ _ wf, dif_neg (by omega), out x hx]
  · rw [State.writeHbm_byte _ _ _ _ wf]
    by_cases hwi : w.1 ≤ i ∧ i < w.1 + w.2
    · rw [dif_pos (by omega), List.getElem_take, List.getElem_drop, List.getD_eq_getElem _ _ hd]
      congr 1
      omega
    · rw [dif_neg (by omega)]
      rw [covered_append, covered_singleton] at hc
      exact covered i hi hd (hc.resolve_right hwi)
  · rw [covered_append, covered_singleton, not_or] at hc
    rw [State.writeHbm_byte _ _ _ _ wf, dif_neg (by omega), rest i hi hc.1]

theorem State.putPart_put (hm : a.marks = []) (hp : 0 < p.len) (hw : s.mem.wf = true) (h : s.Whole k p.len) :
    Put a p k s (a.writes p) (s.putPart a p [(.hbm k, p.len, off)]) := by
  have windows : ∀ (ws vs : List (Nat × Nat)) (t : State), (∀ w ∈ ws, w.1 + w.2 ≤ p.len ∧ 0 < w.2) → Put a p k s vs t →
      Put a p k s (vs ++ ws) (ws.foldl (fun s w =>
        s.writeRuns (subRuns [(.hbm k, p.len, off)] w.1 w.2) ((a.data.drop (p.pos + w.1)).take w.2) []) t) := by
    intro ws
    induction ws with
    | nil => exact fun vs t _ ht => by simpa using ht
    | cons w ws ih =>
      intro vs t hws ht
      obtain ⟨hlen, hpos⟩ := hws w (.head _)
      rw [List.foldl_cons, subRuns_hbm hlen hpos, State.writeRuns_hbm (ht.whole.stackDead (by omega)),
        show vs ++ w :: ws = (vs ++ [w]) ++ ws by simp]
      exact ih _ _ (fun x hx => hws x (.tail _ hx)) (ht.window hlen)
  have unmarked := windows (a.writes p) [] s (Access.writes_bound hp)
    ⟨hw, h, fun _ _ => rfl, fun _ _ _ hc => by simp [Covered] at hc, fun _ _ _ => rfl⟩
  unfold State.putPart
  simpa only [hm, List.filterMap_nil, List.nil_append] using unmarked

end

end Sys2Proof.Machine
end

section
/-! SUPPORT. Reads, writes, signals and atomics over one run, and O14. -/

namespace Sys2Proof.Machine

/-! ### Numbers of n bytes -/

theorem leBytes_mod (n v : Nat) : leBytes n (v % 256 ^ n) = leBytes n v := by
  induction n generalizing v with
  | zero => rfl
  | succ n ih =>
    have low : v % 256 ^ (n + 1) % 256 = v % 256 := Nat.mod_mod_of_dvd _ (Dvd.intro_left _ (Nat.pow_succ ..).symm)
    have high : v % 256 ^ (n + 1) / 256 = v / 256 % 256 ^ n := by
      rw [Nat.pow_succ, Nat.mul_comm, Nat.mod_mul_right_div_self]
    unfold leBytes
    rw [high, ih]
    congr 1
    exact BitVec.eq_of_toNat_eq low

/-! ### The table of R151 -/

/-- The new value of an atomic, by its code. -/
theorem atomicOp_table {aop : Byte} (n old x y : Nat) :
    let new := atomicOp aop.toNat n old x y
    (aop = 0x01 → new = (old + x) % 2 ^ n) ∧ (aop = 0x02 → new = old &&& x) ∧ (aop = 0x03 → new = old ||| x) ∧
    (aop = 0x04 → new = old ^^^ x) ∧ (aop = 0x05 → signed n new = min (signed n old) (signed n x)) ∧
    (aop = 0x06 → signed n new = max (signed n old) (signed n x)) ∧ (aop = 0x07 → new = min old x) ∧
    (aop = 0x08 → new = max old x) ∧ (aop = 0x09 → new = x) ∧
    (aop = 0x0A → new = if old = x then y else old) ∧ (aop = 0x0B → new = fadd32 old x) := by
  refine ⟨?_, ?_, ?_, ?_, ?_, ?_, ?_, ?_, ?_, ?_, ?_⟩
  case refine_5 =>
    rintro rfl
    change signed n (if signed n old ≤ signed n x then old else x) = _
    rw [apply_ite (signed n), min_def]
  case refine_6 =>
    rintro rfl
    change signed n (if signed n x ≤ signed n old then old else x) = _
    rw [apply_ite (signed n), max_comm, max_def]
  all_goals
    rintro rfl
    rfl

section
variable {s : State} {k off id home : Nat} {a : Access} {p : Part}

/-! ### The kinds of access -/

/-- The bytes that a signal or an atomic puts over those it found. -/
def Access.update (a : Access) (p : Part) (bs : List Byte) : List Byte :=
  if a.kind = .atomic && a.aop = aopRow then rowAdd (p.len / 4) bs (a.data.drop p.pos)
  else leBytes p.len (if a.kind = .atomic
    then atomicOp a.aop.toNat (8 * p.len) (leNat bs) (a.a.toNat % 2 ^ (8 * p.len)) (a.b.toNat % 2 ^ (8 * p.len))
    else if a.aop = 1 then a.a.toNat else (leNat bs + a.a.toNat) % 2 ^ 64)

/-- A part over one run of HBM that reads well, on a quadrant and stack that work, of an access with nothing hurt. -/
structure Served (s : State) (a : Access) (p : Part) (k off home : Nat) : Prop where
  wf : s.mem.wf = true
  quad : s.quadDead home = false
  stack : s.stackDead (k / 2 ^ 36) = false
  pos : 0 < p.len
  good : (s.readHbm k p.len off).2.2 = false
  hurt : a.hurt = none
  marks : a.marks = []

variable (h : Served s a p k off home)
include h

theorem Served.doPart_read (hk : a.kind = .read) : s.doPart id a p [(.hbm k, p.len, off)] home none =
    ((s.readHbm k p.len off).1, .ended { stage := 6, status := stOk, data := s.mem.bytes k p.len }) := by
  have unhurt : a.hurtHere p = none := by simp [Access.hurtHere, Access.hurtIn, h.hurt]
  simp only [State.doPart, h.quad, hk, unhurt, State.readRuns_hbm, h.good, State.readHbm_bytes h.good, List.any_cons,
    List.any_nil, Bool.or_false, Bool.false_and, Bool.false_eq_true, if_false]

theorem Served.doPart_write (hk : a.kind = .write) : s.doPart id a p [(.hbm k, p.len, off)] home none =
    (s.putPart a p [(.hbm k, p.len, off)], .ended { stage := 6, status := stOk, data := [] }) := by
  have unhurt : a.hurtHere p = none := by simp [Access.hurtHere, Access.hurtIn, h.hurt]
  simp only [State.doPart, h.quad, hk, unhurt, State.runsDead_hbm, h.stack, List.any_cons,
    List.any_nil, Bool.or_false, Bool.false_and, Bool.false_eq_true, if_false]

theorem Served.whole : (s.readHbm k p.len off).1.Whole k p.len := by
  have met : ∀ (l : List Nat) (t : State) (g : Nat → Nat), (∀ sc ∈ l, sc ∈ sectorsOf k p.len) → t.Whole k p.len →
      (l.foldl (fun s sc => s.meetSector sc (g sc)) t).Whole k p.len := by
    intro l
    induction l with
    | nil => exact fun t g _ ht => ht
    | cons y l ih => exact fun t g hl ht => ih _ g (fun x hx => hl x (.tail _ hx)) (ht.meetSector (hl y (.head _)) _)
  exact met _ s _ (fun _ hx => hx) (State.whole_of_readHbm h.good)

theorem Served.doPart_update (hk : a.kind = .atomic ∨ a.kind = .signal) :
    s.doPart id a p [(.hbm k, p.len, off)] home none =
      ((s.readHbm k p.len off).1.writeHbm k ((a.update p (s.mem.bytes k p.len)).take p.len) off,
        .ended { stage := 6, status := stOk, data := s.mem.bytes k p.len }) := by
  have live : (s.readHbm k p.len off).1.stackDead (k / 2 ^ 36) = false := h.whole.stackDead (i := 0) h.pos
  rw [← State.writeRuns_hbm live]
  rcases hk with hk | hk <;>
  simp only [State.doPart, h.quad, hk, State.readRuns_hbm, State.runsDead_hbm, h.stack, h.good, State.readHbm_bytes h.good,
    Access.update, List.any_cons, List.any_nil, Bool.or_false, Bool.false_and, Bool.false_eq_true, if_false,
    if_true, reduceCtorEq]

omit h in
/-- A read changes no byte. -/
theorem State.readHbm_byte (n x : Nat) : (s.readHbm k n off).1.mem.byte x = s.mem.byte x := by
  simp only [Memory.byte, State.readHbm_hbm]

/-- A signal or an atomic leaves its new bytes and no other. -/
theorem Served.update_bytes {new : List Byte} (hn : new.length = p.len) :
    ((s.readHbm k p.len off).1.writeHbm k (new.take p.len) off).mem.bytes k p.len = new := by
  rw [List.take_of_length_le hn.le, ← hn]
  exact State.writeHbm_bytes (State.readHbm_wf _ _ _ h.wf)

end

/-- Settles O14: a read leaves the bytes, a write puts the windows of its mask, a signal and an atomic put their new
bytes. -/
theorem dataAccessesAct : Obligations.DataAccessesAct := by
  unfold Obligations.DataAccessesAct
  intro s id a p k home off hw hq hd hp hg hh hm did t bytes ends
  have h : Served s a p k off home := ⟨hw, hq, hd, hp, hg, hh, hm⟩
  have put := State.putPart_put (off := off) hm hp hw (State.whole_of_readHbm hg)
  have readT (hk : a.kind = .read) : t = _ := congrArg Prod.fst (h.doPart_read hk)
  have writeT (hk : a.kind = .write) : t = _ := congrArg Prod.fst (h.doPart_write hk)
  have updateT (hk : a.kind = .atomic ∨ a.kind = .signal) : t = _ := congrArg Prod.fst (h.doPart_update hk)
  have new_le : ((a.update p bytes).take p.len).length ≤ p.len := List.length_take_le _ _
  have update_wf := State.writeHbm_wf k ((a.update p bytes).take p.len) off (State.readHbm_wf k p.len off hw)
  refine ⟨?wf, fun x hx => ?out, fun hk => ?read, fun hk _ => ?write, fun hk hp8 => ?signal, fun hk hlen h1 hB => ?atomic⟩
  case wf =>
    cases hk : a.kind
    case read => exact (readT hk).symm ▸ State.readHbm_wf _ _ _ hw
    case write => exact (writeT hk).symm ▸ put.wf
    case atomic => exact (updateT (.inl hk)).symm ▸ update_wf
    case signal => exact (updateT (.inr hk)).symm ▸ update_wf
  case out =>
    have kept : ((s.readHbm k p.len off).1.writeHbm k ((a.update p bytes).take p.len) off).mem.byte x = s.mem.byte x := by
      rw [State.writeHbm_byte _ _ _ _ (State.readHbm_wf _ _ _ hw), dif_neg (by omega), State.readHbm_byte]
    cases hk : a.kind
    case read => exact (readT hk).symm ▸ State.readHbm_byte _ _
    case write => exact (writeT hk).symm ▸ put.out x hx
    case atomic => exact (updateT (.inl hk)).symm ▸ kept
    case signal => exact (updateT (.inr hk)).symm ▸ kept
  case read =>
    refine ⟨congrArg Prod.snd (h.doPart_read hk), ?_⟩
    rw [readT hk]
    exact List.map_congr_left fun i _ => State.readHbm_byte _ _
  case write =>
    refine ⟨congrArg Prod.snd (h.doPart_write hk), fun i hi hdata => ?_⟩
    rw [writeT hk]
    split
    · next hmask => exact put.rest i hi ((Access.writes_covered hi).not.2 (not_not.2 hmask))
    · next hmask => exact put.covered i hi hdata ((Access.writes_covered hi).2 hmask)
  case signal =>
    have hnew : a.update p bytes = leBytes 8 (if a.aop = 1 then a.a.toNat else (leNat bytes + a.a.toNat) % 2 ^ 64) := by
      simp [Access.update, hk, hp8]
    have left : t.mem.bytes k 8 = a.update p bytes := by
      rw [updateT (.inr hk), ← hp8]
      exact h.update_bytes (by rw [hnew, leBytes_length, hp8])
    rw [left, hnew]
    refine ⟨congrArg Prod.snd (h.doPart_update (.inr hk)), fun h1 => by rw [if_pos h1], fun h2 => ?_⟩
    rw [h2, if_neg (by decide)]
    exact leBytes_mod 8 _
  case atomic =>
    intro n old x y
    have plain : a.aop ≠ aopRow := fun he => by
      rw [he] at hB
      exact absurd hB (by decide)
    have hnew : a.update p bytes = leBytes p.len (atomicOp a.aop.toNat n old x y) := by
      have one : (decide (a.kind = .atomic) && decide (a.aop = aopRow)) = false := by
        rw [decide_eq_false plain, Bool.and_false]
      rw [Access.update, if_neg (ne_true_of_eq_false one), if_pos hk]
    refine ⟨atomicOp a.aop.toNat n old x y, congrArg Prod.snd (h.doPart_update (.inl hk)), ?_, atomicOp_table n old x y⟩
    rw [updateT (.inl hk), ← hnew]
    exact h.update_bytes (by rw [hnew, leBytes_length])

end Sys2Proof.Machine
end

section
/-! SUPPORT. Rows that are writes of one register; domains, extents and segments: O19 to O22. -/

namespace Sys2Proof.Machine

section
variable {s t : State} {c : Instr} {a : RegAt} {v : Word}

/-- A row that is a write of a register which it reaches has the write's effect. -/
theorem State.Ready.regRow_after (h : s.Ready) (hc : exec c s = s.perform fun s => s.regRow a v) (hr : s.reaches a = true)
    (hw : s.regWrite a v = t) : exec c s = .next (s.after t) :=
  h.exec_after hc ((s.regRow_of_reaches v hr).trans hw)

/-- The same, of a write that leaves nothing due. -/
theorem State.Ready.regRow_next (h : s.Ready) (hc : exec c s = s.perform fun s => s.regRow a v) (hr : s.reaches a = true)
    (hw : s.regWrite a v = t) (hd : t.due = s.due) (hp : t.pending = s.pending) : exec c s = .next t :=
  h.exec_next hc ((s.regRow_of_reaches v hr).trans hw) hd hp

end

/-! ### Domains (R165) -/

section
variable {s : State} {d k : Nat} {v : Word}

/-- A write of a domain's register while it is IDLE takes its fields. -/
theorem State.domCfgWrite_of_idle (h : s.domState d = .idle) (hk : bits v 35 34 = k) : s.domCfgWrite d v =
    (s.putAt { reg := .dirDomCfg, i := d } (storedWrite s { reg := .dirDomCfg, i := d } v)).domOp d k := by
  simp only [State.domCfgWrite, h, hk, if_true]

theorem State.domCfgWrite_of_busy (h : s.domState d ≠ .idle) (hk : bits v 35 34 = k) : s.domCfgWrite d v = s.domOp d k := by
  simp only [State.domCfgWrite, h, hk, if_false]

theorem State.domOp_up_of_idle (h : s.domState d = .idle) : s.domOp d 1 =
    if s.membersOk d then s.setDom d fun _ => { state := .up, lastStatus := stOk }
    else s.setDom d fun x => { x with lastStatus := stUnsupported } := by
  unfold State.domOp
  rw [h]
  rfl

theorem State.domOp_up_of_busy (h : s.domState d ≠ .idle) :
    s.domOp d 1 = s.setDom d fun x => { x with lastStatus := stUnsupported } := by
  unfold State.domOp
  generalize s.domState d = x at h
  cases x
  case idle => exact absurd rfl h
  all_goals rfl

theorem State.domOp_down_of_up (h : s.domState d = .up) :
    s.domOp d 2 = (s.setDom d fun x => { x with lastStatus := stOk }).domFail d 0xFF := by
  unfold State.domOp
  rw [h]
  rfl

theorem State.domOp_clear_of_down (h : s.domState d = .down) :
    s.domOp d 3 = s.setDom d fun _ => { state := .idle, lastStatus := stOk } := by
  unfold State.domOp
  rw [h]
  rfl

end

/-- Settles O19. -/
theorem domainOpsComplete : Obligations.DomainOpsComplete := by
  unfold Obligations.DomainOpsComplete
  intro s d v hs n a w
  have op (k : Nat) (hk : k < 4) : bits (putBits v 35 34 k) 35 34 = k := by
    rw [bits_putBits v 35 34 k (by decide) (by decide)]
    omega
  refine ⟨fun hr => ⟨fun hi hm => ?_, fun hi hm => ?_, fun hi => ?_, fun hu => ?_, fun hd => ?_⟩, fun q hr => ?_⟩
  · have idle : (w 1).domState n = .idle := hi
    refine hs.regRow_next rfl hr ((State.domCfgWrite_of_idle hi (op 1 (by decide))).trans ?_) rfl rfl
    exact (State.domOp_up_of_idle idle).trans (if_pos hm)
  · have idle : (w 1).domState n = .idle := hi
    refine hs.regRow_next rfl hr ((State.domCfgWrite_of_idle hi (op 1 (by decide))).trans ?_) rfl rfl
    exact (State.domOp_up_of_idle idle).trans (if_neg (ne_true_of_eq_false hm))
  · exact hs.regRow_next rfl hr ((State.domCfgWrite_of_busy hi (op 1 (by decide))).trans (State.domOp_up_of_busy hi)) rfl rfl
  · have busy : s.domState n ≠ .idle := by rw [hu]; decide
    exact hs.regRow_after rfl hr ((State.domCfgWrite_of_busy busy (op 2 (by decide))).trans (State.domOp_down_of_up hu))
  · have busy : s.domState n ≠ .idle := by rw [hd]; decide
    exact hs.regRow_next rfl hr ((State.domCfgWrite_of_busy busy (op 3 (by decide))).trans (State.domOp_clear_of_down hd)) rfl rfl
  · intro p
    exact hs.regRow_next rfl hr rfl rfl rfl

/-! ### Timers of the directory -/

section
variable {s : State}

theorem State.recallTimeout_of_due {tag t l i : Nat} {r : DevReq} (h : s.xp.reqs.find? (·.1 = tag) = some (t, r))
    (hk : r.kind = .recall l i) (ht : s.recallTo (s.entry l).domain ≤ s.now - r.since) :
    s.recallTimeout tag = s.recallFails l i := by
  simp only [State.recallTimeout, h, hk, ht, if_true]

theorem State.domainEnterDown_of_clear {d : Nat} (hf : s.domState d = .failing)
    (hc : (s.cmds.any fun c => c.ctx != 0 && (s.slotIn d c.ctx).isSome) = false)
    (he : (s.dir.entries.any fun x => x.2.domain = d) = false) :
    s.domainEnterDown d = (s.setDom d fun x => { x with state := .down }).event 3
      [BitVec.ofNat 8 d, (tget {} s.dir.domains d).member] := by
  simp only [State.domainEnterDown, hf, hc, he, decide_true, Bool.not_false, Bool.and_self, if_true]

theorem State.parkedStart_of_free {l : Nat} {x : Nat × Nat × Nat} (hb : s.busy l = false)
    (hx : s.dir.parked.find? (·.1 = l) = some x) :
    let t := State.run4 { s with dir := { s.dir with parked := dropFirst (· = x) s.dir.parked } } x.2.1 x.2.2 .parked
    s.parkedStart l = State.drainInput (t.lineHome l) t.dir.input.length t := by
  simp only [State.parkedStart, hb, hx, Bool.false_eq_true, if_false]

end

/-- Settles O20. -/
theorem directoryTimersComplete : Obligations.DirectoryTimersComplete := by
  unfold Obligations.DirectoryTimersComplete
  intro s hs
  refine ⟨fun tag t r l i h hk ht => hs.exec_after rfl (State.recallTimeout_of_due h hk ht), fun d hf hc he => ?_,
    fun l x hb hx => hs.exec_after rfl (State.parkedStart_of_free hb hx), fun id a ha => ?_⟩
  · exact hs.exec_next rfl (State.domainEnterDown_of_clear hf hc he) (by simp) (by simp)
  · intro t
    refine hs.exec_after rfl ?_
    unfold State.retryBackoff
    rewrite [ha]
    rfl

section
/-! ### Extents and segments -/

variable {s : State} {n : Nat} {v : Word}

/-- A write of HUB_EXT_CTL takes the fields and then has its op's effect (R53). -/
theorem State.extCtl_write {k : Nat} (hk : k < 16) :
    let u := if s.extFree n then s.extUnfault n 3 else s
    let a : RegAt := { reg := .hubExtCtl, i := n }
    s.regWrite a (putBits v 19 16 k) =
      (if u.extFree n then u.putAt a (storedWrite u a (putBits v 19 16 k)) else u).extOp n k := by
  intro u a
  have op : bits (putBits v 19 16 k) 19 16 = k := by
    rw [bits_putBits v 19 16 k (by decide) (by decide)]
    omega
  change State.extOp _ n (bits (putBits v 19 16 k) 19 16) = _
  rw [op]

theorem State.activate_of_ok (h : s.activateCheck n = stOk) : s.activate n =
    s.setExt n fun x => { x with state := if s.extZeroFill n then .filling else .active, lastStatus := stOk } := by
  simp only [State.activate, h, bne_self_eq_false, Bool.false_eq_true, if_false]

theorem State.activate_of_refused (h : s.activateCheck n ≠ stOk) :
    s.activate n = s.setExt n fun x => { x with lastStatus := s.activateCheck n } :=
  if_pos (bne_iff_ne.2 h)

theorem State.revoke_of_refused (hf : s.extState n ≠ .filling) (ha : s.extState n ≠ .active) :
    s.revoke n = s.setExt n fun x => { x with lastStatus := stUnsupported } :=
  if_pos (by simp [hf, ha])

theorem State.releaseExt_of_drained (h : s.extState n = .drained) :
    s.releaseExt n = s.setExt n fun x => { x with state := .free, lastStatus := stOk } := if_pos h

theorem State.releaseExt_of_refused (h : s.extState n ≠ .drained) :
    s.releaseExt n = s.setExt n fun x => { x with lastStatus := stUnsupported } := if_neg h

end

/-- The state after the fields of an extent's register have been written has the queue and the due list of before. -/
theorem State.extFields_due (s : State) (n : Nat) (v : Word) :
    let u := if s.extFree n then s.extUnfault n 3 else s
    let a : RegAt := { reg := .hubExtCtl, i := n }
    let w := if u.extFree n then u.putAt a (storedWrite u a v) else u
    w.due = s.due ∧ w.pending = s.pending := by
  dsimp only
  by_cases h : s.extFree n = true
  · rw [if_pos h]
    split <;> exact ⟨rfl, rfl⟩
  · rw [if_neg h, if_neg h]
    exact ⟨rfl, rfl⟩

/-! ### Segments (R63, R64) -/

/-- The offset of a segment's register of base b. -/
def segOff (b c sg : Nat) : Nat := b + (c * 512 + sg * 32)

/-- The four writes of a segment's commit. -/
def State.putSeg (s : State) (c sg : Nat) (h l g w : Word) : State :=
  (((s.putAt { reg := .hubSegHbase, i := c, j := sg } h).putAt { reg := .hubSegLen, i := c, j := sg } l).putAt
    { reg := .hubSegGfa, i := c, j := sg } g).putAt { reg := .hubSegAttr, i := c, j := sg } w

/-- A segment's four registers read as they were committed. -/
theorem State.hub_putSeg {s : State} (c sg : Nat) (h l g w : Word) (hs : tsorted 0 s.cfg = true) :
    (s.putSeg c sg h l g w).hub .hubSegHbase c sg = h ∧ (s.putSeg c sg h l g w).hub .hubSegLen c sg = l ∧
    (s.putSeg c sg h l g w).hub .hubSegGfa c sg = g ∧ (s.putSeg c sg h l g w).hub .hubSegAttr c sg = w := by
  let at_ (r : Reg) : RegAt := { reg := r, i := c, j := sg }
  have oB : (at_ .hubSegHbase).off = segOff 0x200000 c sg := by simp [at_, RegAt.off, Reg.desc, Blk.base, dimsOff, segOff]
  have oL : (at_ .hubSegLen).off = segOff 0x200008 c sg := by simp [at_, RegAt.off, Reg.desc, Blk.base, dimsOff, segOff]
  have oG : (at_ .hubSegGfa).off = segOff 0x200010 c sg := by simp [at_, RegAt.off, Reg.desc, Blk.base, dimsOff, segOff]
  have oA : (at_ .hubSegAttr).off = segOff 0x200018 c sg := by simp [at_, RegAt.off, Reg.desc, Blk.base, dimsOff, segOff]
  unfold segOff at oB oL oG oA
  have sorted {t : State} (a : RegAt) (x : Word) (ht : tsorted 0 t.cfg = true) : tsorted 0 (t.putAt a x).cfg = true := tsorted_tset ht
  have sB := sorted (at_ .hubSegHbase) h hs
  have sL := sorted (at_ .hubSegLen) l sB
  have sG := sorted (at_ .hubSegGfa) g sL
  refine ⟨?_, ?_, ?_, ?_⟩
  · change ((((s.putAt (at_ .hubSegHbase) h).putAt (at_ .hubSegLen) l).putAt (at_ .hubSegGfa) g).putAt (at_ .hubSegAttr) w).at
      (at_ .hubSegHbase) = h
    rw [State.at_putAt_ne _ _ (by omega), State.at_putAt_ne _ _ (by omega), State.at_putAt_ne _ _ (by omega),
      State.at_putAt_same _ _ hs]
  · change ((((s.putAt (at_ .hubSegHbase) h).putAt (at_ .hubSegLen) l).putAt (at_ .hubSegGfa) g).putAt (at_ .hubSegAttr) w).at
      (at_ .hubSegLen) = l
    rw [State.at_putAt_ne _ _ (by omega), State.at_putAt_ne _ _ (by omega), State.at_putAt_same _ _ sB]
  · change ((((s.putAt (at_ .hubSegHbase) h).putAt (at_ .hubSegLen) l).putAt (at_ .hubSegGfa) g).putAt (at_ .hubSegAttr) w).at
      (at_ .hubSegGfa) = g
    rw [State.at_putAt_ne _ _ (by omega), State.at_putAt_same _ _ sL]
  · exact State.at_putAt_same _ _ sG

/-- A commit writes the four registers of its segment and ends its staging. -/
theorem State.segCommit_eq (s : State) (c sg : Nat) (v : Word) : let x := s.segStaged c sg
    ∃ e, s.segCommit c sg v = { s.putSeg c sg x.1 x.2.1 x.2.2 (if segOverflows x.1 x.2.1 x.2.2
      then v &&& Reg.hubSegAttr.desc.rw &&& ~~~1 else v &&& Reg.hubSegAttr.desc.rw) with ext := e } := by
  unfold State.segCommit
  obtain ⟨h, l, g⟩ := s.segStaged c sg
  exact ⟨_, rfl⟩

/-- Settles O21. -/
theorem extentOpsComplete : Obligations.ExtentOpsComplete := by
  unfold Obligations.ExtentOpsComplete
  refine ⟨fun s e v hs => ?_, fun s c g v hs => ?_⟩
  · intro n a u w hr
    have due (k : Nat) := s.extFields_due n (putBits v 19 16 k)
    have op {k : Nat} (hk : k < 16) {t : State} (ht : (w k).extOp n k = t) : s.regWrite a (putBits v 19 16 k) = t :=
      (State.extCtl_write hk).trans ht
    refine ⟨fun h => ?_, fun h => ?_, fun h => ?_, fun hf ha => ?_, fun h => ?_, fun h => ?_⟩
    · exact hs.regRow_next rfl hr (op (by decide) (State.activate_of_ok h)) (due 1).1 (due 1).2
    · exact hs.regRow_next rfl hr (op (by decide) (State.activate_of_refused h)) (due 1).1 (due 1).2
    · exact hs.regRow_after rfl hr (op (t := (w 2).revoke n) (by decide) rfl)
    · exact hs.regRow_next rfl hr (op (by decide) (State.revoke_of_refused hf ha)) (due 2).1 (due 2).2
    · exact hs.regRow_next rfl hr (op (by decide) (State.releaseExt_of_drained h)) (due 3).1 (due 3).2
    · exact hs.regRow_next rfl hr (op (by decide) (State.releaseExt_of_refused h)) (due 3).1 (due 3).2
  · intro i j hsort hr x
    obtain ⟨e, he⟩ := s.segCommit_eq i j v
    obtain ⟨hB, hL, hG, hA⟩ := State.hub_putSeg i j x.1 x.2.1 x.2.2 (if segOverflows x.1 x.2.1 x.2.2
      then v &&& Reg.hubSegAttr.desc.rw &&& ~~~1 else v &&& Reg.hubSegAttr.desc.rw) hsort
    refine ⟨_, hs.regRow_next rfl hr he rfl rfl, hB, hL, hG, hA, ?_⟩
    refine ⟨?_, ?_, ?_, ?_⟩ <;> rfl

/-! ### The zero fill and the drain of an extent -/

/-- A key that a filter keeps reads as before; one that it drops reads as unlisted. -/
theorem tget_filter {α : Type} {d : α} (p : Nat → Bool) (t : Table α) (k : Nat) :
    tget d (t.filter fun c => p c.1) k = if p k then tget d t k else d := by
  induction t with
  | nil => simp [tget]
  | cons e t ih =>
    obtain ⟨k', w⟩ := e
    by_cases hk : k = k'
    · subst hk
      by_cases hp : p k = true
      · simp [hp, tget]
      · simp [hp, ih]
    · by_cases hp : p k' = true
      · simp [hp, tget, hk, ih]
      · simp [hp, tget, hk, ih]

/-- Byte x stands in the first k bytes that tier 0 extent n has in each stack (R54, R55). -/
def State.inBack (s : State) (n k x : Nat) : Bool :=
  decide ((s.extStacks n).1 ≤ x / 2 ^ 36) && decide (x / 2 ^ 36 ≤ (s.extStacks n).2.1)
    && decide (s.extBack n ≤ x % 2 ^ 36) && decide (x % 2 ^ 36 < s.extBack n + k)

theorem State.zeroBack_byte {s : State} {n : Nat} (ht : s.extTier n = 0) (k x : Nat) :
    (s.zeroBack n k).mem.byte x = if s.inBack n k x then 0 else s.mem.byte x := by
  have mem : (s.zeroBack n k).mem.hbm = s.mem.hbm.filter fun c => !s.inBack n k c.1 := by
    simp only [State.zeroBack, ht, if_true]
    rfl
  rw [Memory.byte, mem, tget_filter (fun y => !s.inBack n k y)]
  cases s.inBack n k x <;> rfl

section
variable {s : State} {n : Nat}

theorem State.fillDone_of_filling (h : s.extState n = .filling) : s.fillDone n =
    (s.zeroBack n (if s.extTier n = 0 then (s.extStacks n).2.2 else s.extLen n)).setExt n fun x => { x with state := .active } :=
  if_pos h

theorem State.zeroBack_due (s : State) (n k : Nat) :
    (s.zeroBack n k).due = s.due ∧ (s.zeroBack n k).pending = s.pending := by
  unfold State.zeroBack
  dsimp only
  split
  · exact ⟨rfl, rfl⟩
  · split <;> exact ⟨rfl, rfl⟩

/-- The guard of a drain is passed by a REVOKING extent that no marked request holds. -/
theorem State.extentDrained_of_idle (h : s.extState n = .revoking) (hf : s.extInFlight n = 0) :
    s.extentDrained n =
      if s.extLines n then s.recallRange (s.extOff n) (s.extLen n) (.revoke n)
      else
        let mine := s.regionsIn n ++ s.regionsPooled n
        let t := s.setExt n fun x => { x with state := .drained }
        let t : State := { t with vr := { t.vr with pages := t.vr.pages.filter fun g => g.ext != n } }
        ((t.freePages fun g => mine.contains g.region).detachExt n).event 2 (leBytes 2 n) :=
  if_neg (by simp [h, hf])

end

/-- Settles O22. -/
theorem extentTimersComplete : Obligations.ExtentTimersComplete := by
  unfold Obligations.ExtentTimersComplete
  intro s e hs n
  refine ⟨fun h => ?_, fun ht k x h1 h2 h3 h4 => ?_, fun k x ht hx => ?_, fun h hf hl => ?_, fun h hf hl => ?_, fun v hr => ?_⟩
  · obtain ⟨hd, hp⟩ := s.zeroBack_due n (if s.extTier n = 0 then (s.extStacks n).2.2 else s.extLen n)
    exact hs.exec_next rfl (State.fillDone_of_filling h) hd hp
  · rw [State.zeroBack_byte ht, if_pos]
    simp only [State.inBack, Bool.and_eq_true, decide_eq_true_eq]
    exact ⟨⟨⟨h1, h2⟩, h3⟩, h4⟩
  · rw [State.zeroBack_byte ht, if_neg]
    simp only [State.inBack, Bool.and_eq_true, decide_eq_true_eq]
    omega
  · exact hs.exec_after rfl ((State.extentDrained_of_idle h hf).trans (if_neg (ne_true_of_eq_false hl)))
  · exact hs.exec_after rfl ((State.extentDrained_of_idle h hf).trans (if_pos hl))
  · exact hs.regRow_next rfl hr (if_pos (bit_putBits_one v (by decide))) rfl rfl

end Sys2Proof.Machine
end

section
/-! SUPPORT. Versioned regions, their pools and their version commands: O23 to O25. -/

namespace Sys2Proof.Machine

section
variable {s : State} {n e : Nat}

/-! ### DECLARE and UNDECLARE (R200, R227) -/

theorem State.declare_of_refused (hf : (s.region n).state = .free) (h : s.declareCheck n ≠ stOk) :
    s.declare n = s.setRegSt n (s.declareCheck n) :=
  (if_neg (by simp [hf])).trans (if_pos (bne_iff_ne.2 h))

theorem State.declare_of_taken (hf : (s.region n).state ≠ .free) : s.declare n = s.setRegSt n stUnsupported :=
  if_pos (bne_iff_ne.2 hf)

theorem State.declare_of_plain (hf : (s.region n).state = .free) (h : s.declareCheck n = stOk)
    (he : s.findExt (s.regBase n) = some e) (hc : s.extCoherent e = false) : s.declare n = s.setRegion n fun x =>
      { x with state := .ready, lastStatus := stOk, slots := [(0, { published := true, lap := x.curLap })] } := by
  simp only [State.declare, hf, h, he, hc, bne_self_eq_false, Bool.false_eq_true, if_false]

theorem State.declare_of_coherent (hf : (s.region n).state = .free) (h : s.declareCheck n = stOk)
    (he : s.findExt (s.regBase n) = some e) (hc : s.extCoherent e = true) :
    let t := s.setRegion n fun x =>
      { x with state := .declaring, lastStatus := stOk, slots := [(0, { published := true, lap := x.curLap })] }
    s.declare n = t.recallRange (t.regBase n) (t.regLen n) (.declare n) := by
  simp only [State.declare, hf, h, he, hc, bne_self_eq_false, Bool.false_eq_true, if_false, if_true]

theorem State.undeclare_of_ready (h : (s.region n).state = .ready) :
    let t := ((s.region n).slots.filter fun v => !(v.2.published && v.2.lap = (s.region n).curLap)).foldl
      (fun s v => s.forceRetire n v) s
    s.undeclare n = (t.setRegion n fun x => { x with state := .folding, lastStatus := stOk }).retire n := by
  unfold State.undeclare
  dsimp only
  rw [h]

theorem State.undeclare_of_ended (h : (s.region n).state = .ended) : s.undeclare n = (s.setRegSt n stOk).regFree n := by
  unfold State.undeclare
  dsimp only
  rw [h]

theorem State.undeclare_of_other (hr : (s.region n).state ≠ .ready) (he : (s.region n).state ≠ .ended) :
    s.undeclare n = s.setRegSt n stUnsupported := by
  unfold State.undeclare
  dsimp only
  split
  · next h => exact absurd h hr
  · next h => exact absurd h he
  · rfl

end

/-- Settles O23. -/
theorem regionOpsComplete : Obligations.RegionOpsComplete := by
  unfold Obligations.RegionOpsComplete
  refine ⟨fun s r v hs => ?_, fun s q k v hs => ?_⟩
  · intro n hr
    have op {k : Nat} (hk : k < 8) {t : State} (ht : s.regOp n k = t) :
        s.regWrite { reg := .vrRegCtl, i := n } (putBits v 18 16 k) = t := by
      have written : bits (putBits v 18 16 k) 18 16 = k := by
        rw [bits_putBits v 18 16 k (by decide) (by decide)]
        omega
      change s.regOp n (bits (putBits v 18 16 k) 18 16) = t
      rw [written, ht]
    have declares {t : State} (ht : s.declare n = t) := op (k := 1) (by decide) ht
    have undeclares {t : State} (ht : s.undeclare n = t) := op (k := 2) (by decide) ht
    exact ⟨fun e hf h he hc => hs.regRow_next rfl hr (declares (State.declare_of_plain hf h he hc)) rfl rfl,
      fun e hf h he hc => hs.regRow_after rfl hr (declares (State.declare_of_coherent hf h he hc)),
      fun hf h => hs.regRow_next rfl hr (declares (State.declare_of_refused hf h)) rfl rfl,
      fun hf => hs.regRow_next rfl hr (declares (State.declare_of_taken hf)) rfl rfl,
      fun h => hs.regRow_after rfl hr (undeclares (State.undeclare_of_ready h)),
      fun h => hs.regRow_after rfl hr (undeclares (State.undeclare_of_ended h)),
      fun h h' => hs.regRow_next rfl hr (undeclares (State.undeclare_of_other h h')) rfl rfl⟩
  · intro a i setP w hr
    have pool {t : State} (ht : s.poolWrite q.toNat k.toNat v = t) : s.regWrite a v = t := ht
    refine ⟨fun hp hv => ?_, fun hp hv ho => ?_, fun hp hv ho => ?_, fun hp hv => ?_, fun hp hv => ?_⟩
    · refine hs.regRow_next rfl hr (pool ((if_neg (ne_true_of_eq_false hp)).trans ?_)) rfl rfl
      exact if_pos (by rw [hv]; rfl)
    · refine hs.regRow_next rfl hr (pool ((if_neg (ne_true_of_eq_false hp)).trans ?_)) rfl rfl
      exact (if_neg (by rw [hv]; decide)).trans (if_pos ho)
    · refine hs.regRow_next rfl hr (pool ((if_neg (ne_true_of_eq_false hp)).trans ?_)) rfl rfl
      exact (if_neg (by rw [hv]; decide)).trans (if_neg (ne_true_of_eq_false ho))
    · exact hs.regRow_next rfl hr (pool ((if_pos hp).trans (if_pos hv))) rfl rfl
    · exact hs.regRow_after rfl hr (pool ((if_pos hp).trans (if_neg (ne_true_of_eq_false hv))))

/-! ### The ends of recalls and of folding (R200, R223, R227) -/

section
variable {s : State} {n : Nat}

theorem State.declareDone_of_declaring (h : (s.region n).state = .declaring) : s.declareDone n =
    if s.regLines n then s.recallRange (s.regBase n) (s.regLen n) (.declare n)
    else s.setRegion n fun x => { x with state := .ready } :=
  if_neg (by simp [h])

theorem State.foldPage_of_foldable {page e : Nat} {g : PoolPage}
    (h : (s.region n).state = .ready ∨ (s.region n).state = .folding) (hg : s.foldable n page = some g)
    (he : s.regExt n = some e) :
    let t := s.dropPage n page
    s.foldPage n page = ((t.copyRuns (t.poolRuns g 0 4096)
      (t.runs e (t.regBase n - t.extOff e + page * 4096) 4096)).freePages fun h => h = g).count .vrStat 7 := by
  have folds : ((s.region n).state != .ready && (s.region n).state != .folding) = false := by
    rcases h with h | h <;> simp [h]
  simp only [State.foldPage, folds, hg, he, Bool.false_eq_true, if_false]

theorem State.foldingDone_of_folded (h : (s.region n).state = .folding) (hp : (s.vr.pages.any fun g => g.region = n) = false) :
    s.foldingDone n = s.regFree n :=
  if_pos (by simp [h, hp])

end

/-- Settles O24. -/
theorem regionTimersComplete : Obligations.RegionTimersComplete := by
  unfold Obligations.RegionTimersComplete
  intro s r hs n
  exact ⟨fun h hl => hs.exec_next rfl ((State.declareDone_of_declaring h).trans (if_neg (ne_true_of_eq_false hl))) rfl rfl,
    fun h hl => hs.exec_after rfl ((State.declareDone_of_declaring h).trans (if_pos hl)),
    fun page g e h hg he => hs.exec_after rfl (State.foldPage_of_foldable h hg he),
    fun h hp => hs.exec_after rfl (State.foldingDone_of_folded h hp)⟩

/-- No number is newer than itself (R20). -/
theorem newer_self (w : Word32) : newer w w = false := by simp [newer]

/-- Settles O25. -/
theorem versionCommandsAct : Obligations.VersionCommandsAct := by
  unfold Obligations.VersionCommandsAct
  intro s id c r b j x hready
  refine ⟨fun i v hb hw hcur hv hfull hi => ?_, fun hb hm hwait => ⟨fun hl => ?_, fun hl => ?_⟩, fun hb => ?_⟩
  · intro t
    simp only [State.vrOpenRun, hb, hw, hcur, hready, if_true, hv, hfull, hi, newer_self, Option.any_none,
      Option.isNone_none, Bool.true_and, bne_self_eq_false, Bool.or_false, Bool.false_eq_true, if_false]
    rfl
  · simp only [State.vrPublishRun, hready, hb, hm, hwait, hl, bne_self_eq_false, Bool.false_eq_true, if_false]
  · simp only [State.vrPublishRun, hready, hb, hm, hwait, bne_iff_ne.2 hl, bne_self_eq_false, Bool.false_eq_true, if_false,
      if_true]
  · simp only [State.vrReleaseRun, hready, hb, bne_self_eq_false, Bool.false_eq_true, if_false]

end Sys2Proof.Machine
end

section
/-! SUPPORT. The flash tier's start, waits and upkeep: O26 to O28. -/

namespace Sys2Proof.Machine

/-! ### START (R238) -/

section
variable {s : State} {v : Word}

theorem State.flsCfgWrite_start (v : Word) : s.flsCfgWrite (putBits v 33 32 1) =
    (if s.flash.state = .off then
      s.putAt { reg := .flsCfg } (storedWrite s { reg := .flsCfg } (putBits v 33 32 1)) else s).flashOp 1 := by
  have op : bits (putBits v 33 32 1) 33 32 = 1 := bits_putBits v 33 32 1 (by decide) (by decide)
  rw [State.flsCfgWrite, op]

theorem State.flashOp_start_of_ok (h : s.flash.state = .off) (hk : s.flashStartOk = true) : s.flashOp 1 =
    { s with flash := { (if bit (s.hub .flsCfg) 34 then
        { s.flash with nand := [], blocks := s.flash.blocks.map fun e => (e.1, { e.2 with used := 0, reads := 0 })
                       open_ := [], credit := [] } else s.flash) with
      state := .starting, lastStatus := stOk, recorded := some s.userCap } } := by
  simp only [State.flashOp, h, hk, decide_true, Bool.and_self, if_true]

theorem State.flashOp_start_of_refused (h : (s.flash.state = .off && s.flashStartOk) = false) :
    s.flashOp 1 = { s with flash := { s.flash with lastStatus := stUnsupported } } := by
  simp only [State.flashOp, h, Bool.false_eq_true, if_false]

end

/-- Settles O26. -/
theorem flashStartCompletes : Obligations.FlashStartCompletes := by
  unfold Obligations.FlashStartCompletes
  intro s v hs hr w
  have written (h : s.flash.state = .off) {t : State} (ht : w.flashOp 1 = t) :
      s.regWrite { reg := .flsCfg } (putBits v 33 32 1) = t := by
    refine (State.flsCfgWrite_start v).trans ?_
    rw [if_pos h]
    exact ht
  refine ⟨fun h hk hf => ?_, fun h hk hf => ?_, fun h hk => ?_, fun h => ?_, fun h => ?_, fun h => ?_⟩
  · refine hs.regRow_next rfl hr (written h ((State.flashOp_start_of_ok (s := w) h hk).trans ?_)) rfl rfl
    rw [if_neg (ne_true_of_eq_false hf)]
  · refine hs.regRow_next rfl hr (written h ((State.flashOp_start_of_ok (s := w) h hk).trans ?_)) rfl rfl
    rw [if_pos hf]
  · exact hs.regRow_next rfl hr (written h (State.flashOp_start_of_refused (by rw [hk, Bool.and_false]))) rfl rfl
  · refine hs.regRow_next rfl hr ((State.flsCfgWrite_start v).trans ?_) rfl rfl
    rw [if_neg h]
    exact State.flashOp_start_of_refused (by rw [decide_eq_false h, Bool.false_and])
  · intro r
    refine ⟨hs.exec_after rfl ?_, hs.exec_after rfl ?_⟩
    · unfold State.flashStarted
      rw [h]
    · unfold State.flashStarted
      rw [h]
  · refine hs.exec_after rfl ?_
    unfold State.flashStarted
    rw [h]

/-! ### Waits and their ends (R234, R240, R242) -/

section
variable {s : State} {tag t c p : Nat} {r : DevReq} {lender : Bool}

theorem State.borrowTimeout_of_due (h : s.xp.reqs.find? (·.1 = tag) = some (t, r)) (hk : r.kind = .fwd c p lender)
    (ht : s.borrowTo ≤ s.now - r.since) :
    s.borrowTimeout tag = State.endReq (if lender then
        let u := s.count .hubBorrowStat 1
        { u with xp := { u.xp with late := u.xp.late ++ [(tag, r.sess, r.inc)] } }
      else s) tag stTimeout false [] := by
  simp only [State.borrowTimeout, h, hk, ht, if_true]

end

/-- Settles O27. -/
theorem tierTimersComplete : Obligations.TierTimersComplete := by
  unfold Obligations.TierTimersComplete
  intro s hs
  refine ⟨fun id a ha => ⟨hs.exec_after rfl ?_, hs.exec_after rfl ?_⟩, fun tag t r c p h ht => ⟨fun hk => ?_, fun hk => ?_⟩⟩
  · unfold State.flashRetry
    rw [ha]
  · unfold State.tier1Timeout
    rewrite [ha]
    rfl
  · exact hs.exec_after rfl (State.borrowTimeout_of_due h hk ht)
  · exact hs.exec_after rfl (State.borrowTimeout_of_due h hk ht)

/-! ### Upkeep (R244 to R247) -/

section
variable {s : State} {c b p : Nat}

theorem State.flashGc_of_victim {failed : Bool} (h : s.flash.state = .ready) (hf : s.freePm c < bits (s.hub .flsFtl) 23 16)
    (hv : s.gcVictim c = some b) :
    let m := s.moveBlock c b
    let t := if m.2 = 0 then m.1 else m.1.count .flsStat 4 m.2
    t.blockValid c b = [] → s.flashGc c failed = if failed then t.retireBlock c b else
      let u := t.erase c b
      let k := if u.gcCritical c then tget 0 u.flash.credit c + (u.popOr NandPop.blockPages - m.2) else 0
      ({ u with flash := { u.flash with credit := tset 0 u.flash.credit c k } } : State).flashGoOn := by
  intro m t ht
  have runs : (s.flash.state != .ready || bits (s.hub .flsFtl) 23 16 ≤ s.freePm c) = false := by
    simp [h, hf]
  unfold State.flashGc
  rw [if_neg (ne_true_of_eq_false runs), hv]
  exact if_neg (by rw [bne_iff_ne]; exact not_not.2 ht)

/-- The highest and the lowest erase count of channel c's blocks that are not retired (R244). -/
def State.eraseSpread (s : State) (c : Nat) : Nat × Nat :=
  let all := (List.range (s.popOr NandPop.blocksUsed)).filter fun b => !(s.block c b).retired
  let hi := all.foldl (fun m b => max m (s.block c b).erases) 0
  (hi, all.foldl (fun m b => min m (s.block c b).erases) hi)

theorem State.wearLevel_of_spread (h : s.flash.state = .ready)
    (hw : bits (s.hub .flsFtl) 63 48 < (s.eraseSpread c).1 - (s.eraseSpread c).2)
    (hb : ((s.closedBlocks c).find? fun b => (s.block c b).erases = (s.eraseSpread c).2) = some b) :
    let m := s.moveBlock c b
    let t := if m.2 = 0 then m.1 else m.1.count .flsStat 6 m.2
    t.blockValid c b = [] → s.wearLevel c = t.erase c b := by
  intro m t ht
  have runs : (s.flash.state != .ready || decide ((s.eraseSpread c).1 - (s.eraseSpread c).2 ≤ bits (s.hub .flsFtl) 63 48))
      = false := by
    rw [h, decide_eq_false (Nat.not_le.2 hw)]
    rfl
  refine (if_neg (ne_true_of_eq_false runs)).trans ?_
  unfold State.eraseSpread at hb
  dsimp only at hb ⊢
  rw [hb]
  exact if_neg (by rw [bne_iff_ne]; exact not_not.2 ht)

theorem State.flashRefresh_of_valid {patrol correctable : Bool} (h : s.flash.state = .ready)
    (hv : (tget {} s.flash.nand p).valid = true) :
    let r := if patrol then s.nandRead p else s
    let c := p % 32
    let b := (tget {} s.flash.nand p).block
    s.flashRefresh p patrol correctable =
      if !correctable then r.flashBad p
      else if bits (r.hub .flsFtl) 47 32 * 1000 < (r.block c b).reads then
        let m := r.moveBlock c b
        let t := if m.2 = 0 then m.1 else m.1.count .flsStat 5 m.2
        if t.blockValid c b != [] then t else t.erase c b
      else if patrol then r
      else if (r.relocate p).2 then (r.relocate p).1.closePages.count .flsStat 5 else (r.relocate p).1 := by
  intro r c b
  have runs : (s.flash.state != .ready || !(tget {} s.flash.nand p).valid) = false := by
    rw [h, hv]
    rfl
  refine (if_neg (ne_true_of_eq_false runs)).trans ?_
  congr 3
  rcases r.relocate p with ⟨u, _ | _⟩ <;> rfl

end

/-- Settles O28. -/
theorem flashUpkeepCompletes : Obligations.FlashUpkeepCompletes := by
  unfold Obligations.FlashUpkeepCompletes
  intro s hs h
  refine ⟨?_, fun ch b failed hf hv => ?_, fun ch b => ?_, fun p patrol hv => ?_⟩
  · intro x bad u
    refine hs.exec_after rfl ?_
    exact if_neg (by simp [h])
  · intro m t ht
    have gc := State.flashGc_of_victim (failed := failed) h hf hv ht
    refine ⟨fun hx => ?_, fun hx => ?_⟩
    · subst hx
      exact hs.exec_after rfl (gc.trans (if_neg Bool.false_ne_true))
    · subst hx
      exact hs.exec_after rfl (gc.trans (if_pos rfl))
  · intro all hi lo hw hb m t ht
    exact hs.exec_after rfl (State.wearLevel_of_spread h hw hb ht)
  · intro r c b
    have spent {correctable : Bool} := State.flashRefresh_of_valid (patrol := patrol) (correctable := correctable) h hv
    have good : ¬ (!true) = true := by decide
    refine ⟨hs.exec_after rfl (spent.trans (if_pos rfl)), fun hr => ?_, fun hr hp => ?_, fun hr hp hm => ?_⟩
    · intro m t ht
      refine hs.exec_after rfl (spent.trans ((if_neg good).trans ((if_pos hr).trans (if_neg ?_))))
      rw [bne_iff_ne]
      exact not_not.2 ht
    · exact hs.exec_after rfl (spent.trans ((if_neg good).trans ((if_neg (Nat.not_lt.2 hr)).trans (if_pos hp))))
    · subst hp
      exact hs.exec_after rfl (spent.trans ((if_neg good).trans ((if_neg (Nat.not_lt.2 hr)).trans ((if_neg Bool.false_ne_true).trans (if_pos hm)))))

end Sys2Proof.Machine
end

section
/-! SUPPORT. The Pacer's streams and commands: O29. -/

namespace Sys2Proof.Machine

section
variable {s : State} {q k : Nat}

/-! ### Streams (R258, R262) -/

theorem State.paceFetch_of_room (h : (s.stream q k).state = .running)
    (hl : (s.stream q k).nextFetch < (s.stream q k).head + (s.stream q k).lead)
    (hi : (s.stream q k).inflight.length < s.maxInflight q) (hb : (s.stream q k).beyond (s.stream q k).nextFetch = false) :
    let x := s.stream q k
    let t := x.nextFetch
    let src := x.src + tileOff x.sched (t % max 1 x.perPass)
    let ctx := match s.findCmd x.cmd with | some c => c.ctx | none => 0
    s.paceFetch q k = (List.range 16).foldl (fun s p =>
      s.internal (.tile q k t p false) ctx { kind := .read, gfa := src + p * 4096, len := 4096 })
      (s.setStream q k fun x => { x with nextFetch := t + 1, inflight := x.inflight ++ [(t, 16)]
                                         state := if x.beyond (t + 1) then .draining else .running }) := by
  have goes : ((s.stream q k).state != .running || decide ((s.stream q k).head + (s.stream q k).lead ≤ (s.stream q k).nextFetch)
      || decide (s.maxInflight q ≤ (s.stream q k).inflight.length) || (s.stream q k).beyond (s.stream q k).nextFetch) = false := by
    rw [h, decide_eq_false (Nat.not_le.2 hl), decide_eq_false (Nat.not_le.2 hi), hb]
    rfl
  exact if_neg (ne_true_of_eq_false goes)

theorem State.tileStaged_of_done {t : Nat} (h : (s.stream q k).state = .running ∨ (s.stream q k).state = .draining)
    (ht : (s.stream q k).inflight.contains (t, 0) = true) :
    let x := s.stream q k
    let u := (s.dropTile q (x.stage + t % max 1 x.slots * 65536)).setStream q k fun x =>
      { x with inflight := x.inflight.filter (·.1 != t), staged := x.staged ++ [t] }
    s.tileStaged q k t = (u.countQ q .qdPaceStat 0).owe (.streamWake q k) := by
  have goes : ((decide ((s.stream q k).state = .running) || decide ((s.stream q k).state = .draining))
      && (s.stream q k).inflight.contains (t, 0)) = true := by
    rw [ht]
    rcases h with h | h <;> rw [h] <;> rfl
  exact if_pos goes

theorem State.streamIdle_of_done (h : (s.stream q k).state = .draining ∧ (s.stream q k).inflight = []
      ∧ (s.stream q k).beyond (s.stream q k).head = true
      ∨ (s.stream q k).state = .ending ∧ ((s.stream q k).inflight.all fun e => e.2 = 0) = true) :
    let x := s.stream q k
    let st := if x.state = .draining then stOk else x.endStatus
    let u := (s.setStream q k fun _ => { lastStatus := st }).endEng x.cmd st []
    let u := (u.stops q k).foldl (fun s id => s.endEng id stOk []) u
    s.streamIdle q k = (u.starts q k).foldl (fun s i => s.owe (.eng i)) (u.owe (.streamWake q k)) := by
  intro x st u u
  unfold State.streamIdle
  refine if_neg ?_
  rcases h with ⟨h, hi, hb⟩ | ⟨h, hi⟩
  · simp only [h, hi, hb]
    decide
  · simp only [h, hi]
    decide

/-! ### Commands at their turn (R254, R255, R257) -/

variable {id : Nat} {e : Eng}

/-- A PACE_START at its turn, on an IDLE stream. -/
theorem State.paceBegin_of_turn (hi : (s.stream e.quad e.queue).state = .idle)
    (hf : ((s.starts e.quad e.queue).any (· < id)) = false) :
    ¬ ((s.stream e.quad e.queue).state != .idle || (s.starts e.quad e.queue).any (· < id)) = true := by
  rw [hi, hf]
  decide

end

/-- Settles O29. -/
theorem pacerTimersComplete : Obligations.PacerTimersComplete := by
  unfold Obligations.PacerTimersComplete
  refine ⟨fun s q k hs => ?_, fun s id e => ?_⟩
  · intro x
    exact ⟨fun h hl hi hb => hs.exec_after rfl (State.paceFetch_of_room h hl hi hb),
      fun t h ht => hs.exec_after rfl (State.tileStaged_of_done h ht), fun h => hs.exec_after rfl (State.streamIdle_of_done h)⟩
  · intro q k op fails
    refine ⟨fun hi hf => ?_, fun hp => ⟨fun h => ?_, fun h => ?_⟩, fun hw => ?_, ?_⟩
    · have turn := State.paceBegin_of_turn hi hf
      refine ⟨fun ho => (if_neg turn).trans (if_pos (by rw [ho]; rfl)), fun t b bad ho hr => ?_⟩
      intro es odd
      have sound : ¬ (!s.stageOk q (op 2).gfa (op 2).len) = true := by rw [ho]; decide
      have read : s.paceBegin id e = _ := (if_neg turn).trans (if_neg sound)
      rw [hr] at read
      refine ⟨fun hb => read.trans (if_pos hb), fun hb h => read.trans ((if_neg (ne_true_of_eq_false hb)).trans (if_pos h)),
        fun hb h => read.trans ((if_neg (ne_true_of_eq_false hb)).trans (if_neg (ne_true_of_eq_false h)))⟩
    · refine (if_neg hp).trans ?_
      rw [h]
    · refine (if_neg hp).trans ?_
      split
      · next hi => exact absurd hi h
      · rfl
    · intro n
      have quiet : ¬ (e.waits != 0) = true := by rw [hw]; decide
      refine ⟨fun ho => ?_, fun i pz ho hm => ⟨fun hn => ?_, fun hn his => ?_⟩⟩
      · unfold State.moveRun
        exact (if_neg quiet).trans (if_pos ho)
      · unfold State.moveRun
        rw [hm]
        exact (if_neg quiet).trans ((if_neg (ne_true_of_eq_false ho)).trans (if_pos hn))
      · unfold State.moveRun
        rw [hm]
        exact (if_neg quiet).trans ((if_neg (ne_true_of_eq_false ho)).trans
          ((if_neg (Nat.not_le.2 hn)).trans (if_pos his)))
    · intro t
      refine ⟨fun h => if_pos (bne_iff_ne.2 h), fun h hx => ?_, fun x h hx hne => ?_⟩
      · have ready : ¬ (s.flash.state != .ready) = true := by rw [h]; decide
        refine (if_neg ready).trans ?_
        split
        · next y hy => exact absurd (hx _ hy) (by simp)
        · rfl
      · have ready : ¬ (s.flash.state != .ready) = true := by rw [h]; decide
        refine (if_neg ready).trans ?_
        rw [hx]
        obtain ⟨j, _ | ⟨p, ps⟩⟩ := x
        · exact absurd rfl hne
        · rfl

end Sys2Proof.Machine
end

section
/-! SUPPORT. Tensor programs: how entries begin, waits end and a program is read: O30. -/

namespace Sys2Proof.Machine

section
variable {s : State} {q k id : Nat} {e : Eng} {p : TeProg}

theorem State.entryBegin_of_next {op : Nat} (h : s.nextEntry q k op = some (id, p)) : s.entryBegin q k op =
    ((s.setEng id fun x => { x with fetched := [], issued := false }).setTe id fun x =>
      { x with busy := true, lanes := s.rowLanes q op p }).owe (.eng id) := by
  simp only [State.entryBegin, h]

/-- The only program whose quantum has passed leaves its slot while another is ready (R302). -/
theorem State.teSwitch_of_due {slot : Nat}
    (h : (s.programs q).filter (fun x => x.2.slot.isSome && !x.2.entries.isEmpty && !x.2.busy &&
      decide (max 1 (bits (s.quad q .teCfg) 31 16) * 1000 ≤ s.now - x.2.since)) = [(id, p)])
    (hs : s.saveOn q = true) (hw : ((s.programs q).any fun x => x.2.slot.isNone) = true)
    (he : s.eng id = some e) (hp : p.slot = some slot) :
    s.teSwitch q = ((s.teSave id e p slot).countQ q .teStat 5).teAdmitAll q := by
  simp only [State.teSwitch, h, hs, hw, he, hp, List.foldl_cons, List.foldl_nil, Bool.and_self, if_true]

/-- A row of the only command of the unit has waited too long for its Lane (R318). -/
theorem State.batonWaitTimeout_of_late {c : Cmd} (h : s.unitCmds 1 q = [c]) (hc : c.body = .eng e) (hk : e.queue = k)
    (hw : (match e.prog? with
      | some p => p.rowWait.any fun r => max 1 (bits (s.hub .sqCfg) 47 32) * 100000 ≤ s.now - r.2
      | none => false) = true) : s.batonWaitTimeout q k = s.addCond c.id stTimeout := by
  simp only [State.batonWaitTimeout, h, List.foldl_cons, List.foldl_nil, hc]
  refine if_pos ?_
  rw [decide_eq_true hk, Bool.true_and]
  exact hw

theorem State.lateTimeout_of_late {t : Nat} (h : s.eng id = some e) (hp : (e.prog?.bind fun p => p.waitSince) = some t)
    (ht : s.lateTo e.quad ≤ s.now - t) : s.lateTimeout id =
      (((s.waitOver e.quad t).countQ e.quad .qdPaceStat 3).setTe id fun p => { p with waitSince := none }).addCond id stTimeout := by
  simp only [State.lateTimeout, h, hp, ht, if_true]

end

/-- Settles O30. -/
theorem tensorRowsComplete : Obligations.TensorRowsComplete := by
  unfold Obligations.TensorRowsComplete
  refine ⟨⟨fun s q k row op id p hs hmem hn => ?_, fun s q k hs => ⟨?_, ?_, ?_⟩⟩, fun s t id e b bad hr => ⟨fun hb => ?_, fun hb => ?_⟩⟩
  · have begins : ∀ x ∈ [(Instr.teLoad, 1), (Instr.teMatmul, 2), (Instr.teAttend, 3), (Instr.teNorm, 4), (Instr.teAcc, 5),
        (Instr.teStore, 6)], exec (x.1 q k) s = s.perform fun s => s.entryBegin q.toNat k.toNat x.2 := by
      simp only [List.forall_mem_cons, List.not_mem_nil, false_imp_iff, implies_true, and_true]
      exact ⟨rfl, rfl, rfl, rfl, rfl, rfl⟩
    exact hs.exec_after (begins (row, op) hmem) (State.entryBegin_of_next hn)
  · exact fun id p e slot h hsave hw he hp => hs.exec_after rfl (State.teSwitch_of_due h hsave hw he hp)
  · exact fun c e h hc hk hw => hs.exec_after rfl (State.batonWaitTimeout_of_late h hc hk hw)
  · exact fun id e t h hp ht => hs.exec_after rfl (State.lateTimeout_of_late h hp ht)
  · unfold State.teRead
    dsimp only
    rw [hr]
    exact if_pos hb
  · intro es u
    have read : s.teRead id e = match es.findIdx? fun x => entCheck e x != stOk with
        | some i => u.teEnd id (entCheck e (es.getD i [])) (some i)
        | none => u := by
      unfold State.teRead
      dsimp only
      rw [hr]
      exact if_neg (ne_true_of_eq_false hb)
    refine ⟨fun hall => ?_, fun i x hx hbad hbefore => ?_⟩
    · rw [read, List.findIdx?_eq_none_iff.2 fun x hx => by rw [hall x hx]; rfl]
    · obtain ⟨hi, rfl⟩ := List.getElem?_eq_some_iff.1 hx
      have found : (es.findIdx? fun x => entCheck e x != stOk) = some i := by
        refine List.findIdx?_eq_some_iff_getElem.2 ⟨hi, bne_iff_ne.2 hbad, fun j hj => ?_⟩
        simp [hbefore j _ hj (List.getElem?_eq_getElem (Nat.lt_trans hj hi))]
      rw [read, found]
      dsimp only
      rw [List.getD_eq_getElem _ _ hi]

end Sys2Proof.Machine
end

section
/-! SUPPORT. The sequence unit's commands and its Lanes' timers: O31 and O32. -/

namespace Sys2Proof.Machine

/-! ### Commands (R311, R312) -/

section
variable {s : State} {id : Nat} {c : Cmd} {e : Eng} (h : s.findCmd id = some c) (hp : e.phase ≠ .lane)
include h hp

theorem State.seqRun_of_cond (hc : s.seqConds (64 * e.quad + e.queue) c e ≠ []) :
    s.seqRun id e = s.seqEnd id (firstByOrder seqOrder (s.seqConds (64 * e.quad + e.queue) c e)) := by
  obtain ⟨st, sts, hcs⟩ := List.exists_cons_of_ne_nil hc
  simp only [State.seqRun, h, if_neg hp, hcs]

variable (hc : s.seqConds (64 * e.quad + e.queue) c e = [])
include hc

/-- A Lane that SQ_OPEN or SQ_ARM makes. -/
def Eng.newLane (e : Eng) (c : Cmd) : Lane :=
  let b := e.body
  let o := e.opnds.getD 0 ⟨0, 0, false, false⟩
  { state := if e.op = 1 then .held else .armed, config := slice b 2 18, cap := field b 20 4, ctx := c.ctx
    reqId := BitVec.ofNat 64 (field b 24 8), gen := BitVec.ofNat 32 (field b 48 4), base := gfaOff o.gfa
    cacheLen := o.len }

theorem State.seqRun_open (ho : e.op = 1 ∨ e.op = 2) :
    s.seqRun id e = (s.setLane (64 * e.quad + e.queue) fun _ => e.newLane c).seqEnd id stOk := by
  rcases ho with ho | ho <;> simp only [State.seqRun, h, if_neg hp, hc, ho, Eng.newLane] <;> rfl

theorem State.seqRun_setlen (ho : e.op = 3) : s.seqRun id e =
    (s.setLane (64 * e.quad + e.queue) fun x => { x with len := field e.body 4 4, cursor := 0 }).seqEnd id stOk := by
  simp only [State.seqRun, h, if_neg hp, hc, ho]
  rfl

theorem State.seqRun_offer (ho : e.op = 4) : s.seqRun id e =
    ((s.setLane (64 * e.quad + e.queue) fun x =>
      { x with state := .offered, peer := BitVec.ofNat 16 (field e.body 16 2), peerLane := field e.body 4 4, offGen := x.gen + 1
               offLen := x.len, offerOk := false, sent := 0, acked := 0, querying := false, since := s.now }).setEng id
        fun e => { e with phase := .lane }).sendOffer (64 * e.quad + e.queue) := by
  simp only [State.seqRun, h, if_neg hp, hc, ho]
  rfl

theorem State.seqRun_query (ho : e.op = 5) : s.seqRun id e =
    if (s.lane (64 * e.quad + e.queue)).state = .offered || (s.lane (64 * e.quad + e.queue)).state = .taken then
      (s.setEng id fun e => { e with phase := .lane }).sendQuery (64 * e.quad + e.queue)
    else s.seqEnd id stOk := by
  simp only [State.seqRun, h, if_neg hp, hc, ho]
  rfl

theorem State.seqRun_close (ho : e.op = 6) :
    s.seqRun id e = ((s.laneMoves (64 * e.quad + e.queue) fun _ => {}).owe .retireDue).seqEnd id stOk := by
  simp only [State.seqRun, h, if_neg hp, hc, ho]
  rfl

end

/-- Settles O31. -/
theorem sequenceCommandsAct : Obligations.SequenceCommandsAct := by
  unfold Obligations.SequenceCommandsAct
  intro s id c e h hp l x b o
  refine ⟨State.seqRun_of_cond h hp, fun hc => ⟨State.seqRun_open h hp hc, State.seqRun_setlen h hp hc,
    State.seqRun_offer h hp hc, fun ho hx => ?_, fun ho hx => ?_, State.seqRun_close h hp hc⟩⟩
  · refine (State.seqRun_query h hp hc ho).trans (if_neg ?_)
    rcases hx with hx | hx <;> (change ¬ (decide (x.state = _) || decide (x.state = _)) = true; rw [hx]; decide)
  · refine (State.seqRun_query h hp hc ho).trans (if_pos ?_)
    rcases hx with hx | hx <;> (change (decide (x.state = _) || decide (x.state = _)) = true; rw [hx]; decide)

/-! ### Timers of Lanes (R327, R330, R334) -/

section
variable {s : State} {l : Nat}

theorem State.laneDrop_of_held {v : Word} (hv : bit v 0 = true)
    (h : (s.lane l).state = .held ∨ (s.lane l).state = .offered ∨ (s.lane l).state = .taken) : s.laneDrop l v =
    ((s.laneMoves l fun x => { x with
      state := .lost, gen := 0, peer := 0xFFFF, querying := false, offerOk := false, got := [] }).countQ
        (l / 64) .sqStat 5).event 5 ([BitVec.ofNat 8 l] ++ List.replicate 7 0 ++ leBytes 8 (s.lane l).reqId.toNat) := by
  rcases h with h | h | h <;> simp [State.laneDrop, State.laneLost, h, hv]

/-- An offer's next piece is sent unless its cache is refused or poisoned. -/
theorem State.batonDataSend_of_offered (h : (s.lane l).state = .offered) (ho : (s.lane l).offerOk = true)
    (hs : (s.lane l).sent < (s.lane l).imageBytes) :
    let x := s.lane l
    let n := min 4096 (x.imageBytes - x.sent)
    let r := s.readRuns (s.imageRuns x x.sent n)
    s.batonDataSend l =
      if s.laneShut x then (s.laneCmds l 4).foldl (fun s id => s.seqEnd id stExtentRevoked) (s.laneHeld l)
      else if r.2.2 then (r.1.laneCmds l 4).foldl (fun s id => s.seqEnd id stPoison) (r.1.laneHeld l)
      else (r.1.setLane l fun x => { x with sent := x.sent + n }).batonSend l 0x49 x.sent r.2.1 := by
  intro x n r
  have piece : min 4096 ((s.lane l).imageBytes - (s.lane l).sent) ≠ 0 := by omega
  have goes : (x.state != .offered || !x.offerOk || decide (n = 0)) = false := by
    rw [h, ho, decide_eq_false piece]
    rfl
  exact if_neg (ne_true_of_eq_false goes)

theorem State.batonToExpiry_of_due (h : s.batonTo ≤ s.now - (s.lane l).since) : s.batonToExpiry l =
    match (s.lane l).state with
    | .receiving => s.laneArmed l
    | .taken => s.sendQuery l
    | .offered => if (s.lane l).querying then s.sendQuery l else s
    | _ => s := if_neg (Nat.not_lt.2 h)

end

/-- Settles O32. -/
theorem laneTimersComplete : Obligations.LaneTimersComplete := by
  unfold Obligations.LaneTimersComplete
  intro s l hs x
  refine ⟨fun hr h => ?_, fun h ho hlt => ?_, fun ht => ⟨fun h => ?_, fun h => ?_⟩⟩
  · refine hs.regRow_after rfl hr ?_
    change s.laneDrop (64 * (l.toNat / 64) + l.toNat % 64) _ = _
    rw [Nat.div_add_mod]
    exact State.laneDrop_of_held (by decide) h
  · intro n r
    have sends := State.batonDataSend_of_offered h ho hlt
    exact ⟨fun hx => hs.exec_after rfl (sends.trans (if_pos hx)),
      fun hx hr => hs.exec_after rfl (sends.trans ((if_neg (ne_true_of_eq_false hx)).trans (if_neg (ne_true_of_eq_false hr)))),
      fun hx hr => hs.exec_after rfl (sends.trans ((if_neg (ne_true_of_eq_false hx)).trans (if_pos hr)))⟩
  · refine hs.exec_after rfl ((State.batonToExpiry_of_due ht).trans ?_)
    rw [h]
    rfl
  · refine hs.exec_after rfl ((State.batonToExpiry_of_due ht).trans ?_)
    rcases h with h | ⟨h, hq⟩
    · rw [h]
      rfl
    · rw [h]
      exact if_pos hq

end Sys2Proof.Machine
end

section
/-! SUPPORT. Service extents and the control of engine units: O33 and O34. -/

namespace Sys2Proof.Machine

/-! ### Extents that serve a unit (R359, R395, R400) -/

/-- A written enable takes effect exactly when `ok` holds of the extent that it names. -/
theorem State.enableWrite_on {s : State} {a : RegAt} {v : Word} (ok : Nat → Bool) :
    let e := if bit (s.at a) 12 then bits (s.at a) 11 0 else bits (putBits v 12 12 1) 11 0
    s.enableWrite a (putBits v 12 12 1) ok =
      (s.putAt a (putBits (putBits (storedWrite s a (putBits v 12 12 1)) 12 12 (if ok e then 1 else 0)) 11 0 e),
        some (if ok e then stOk else stUnsupported)) := by
  intro e
  have on : bit (putBits v 12 12 1) 12 = true := bit_putBits_one v (by decide)
  refine (if_neg (by rw [on]; decide)).trans ?_
  by_cases h : ok e = true
  · refine (if_pos h).trans ?_
    rw [if_pos h, if_pos h]
  · refine (if_neg h).trans ?_
    rw [if_neg h, if_neg h]

/-- Settles O33. -/
theorem serviceExtentWrites : Obligations.ServiceExtentWrites := by
  unfold Obligations.ServiceExtentWrites
  intro s q v hs e w se gu sv
  refine ⟨fun hr hb => ?_, fun hr hb => ?_, fun hr => ?_, fun hr => ?_⟩
  · intro ok t t'
    refine hs.regRow_after rfl hr ?_
    change s.scratchWrite q.toNat (putBits v 12 12 1) = _
    unfold State.scratchWrite
    rw [if_neg (by rw [hb]; decide), State.enableWrite_on]
  · intro t
    refine hs.regRow_after rfl hr ?_
    exact (if_pos (bne_iff_ne.2 hb)).trans (if_pos (bit_putBits_one v (by decide)))
  · intro running ok t
    refine hs.regRow_next rfl hr ?_ rfl rfl
    change s.bufferWrite q.toNat (putBits v 12 12 1) = _
    unfold State.bufferWrite
    dsimp only
    rewrite [State.enableWrite_on]
    rfl
  · intro saved ok t
    refine hs.regRow_next rfl hr ?_ rfl rfl
    change s.saveWrite q.toNat (putBits v 12 12 1) = _
    unfold State.saveWrite
    dsimp only
    rewrite [State.enableWrite_on]
    rfl

/-! ### Units by their number: a hub unit has one place for every quadrant -/

/-- The quadrant under which a unit's register is written: 0 for a hub unit (R404). -/
def unitHome (u k : Nat) : Nat := if u ≤ 5 then k else 0

section
variable {s : State} {u k : Nat}

theorem unitKey_home (u k : Nat) : unitKey u (unitHome u k) = unitKey u k := by
  unfold unitKey unitHome
  split <;> rfl

theorem State.unit_home : s.unit u (unitHome u k) = s.unit u k := by
  unfold State.unit
  rw [unitKey_home]

theorem State.setUnit_home (f : EngUnit → EngUnit) : s.setUnit u (unitHome u k) f = s.setUnit u k f := by
  unfold State.setUnit
  rw [unitKey_home]

theorem State.unitCmds_home : s.unitCmds u (unitHome u k) = s.unitCmds u k := by
  unfold unitHome
  split
  · rfl
  · next h =>
    have hub : 5 < u := Nat.lt_of_not_le h
    simp only [State.unitCmds, hub, decide_true, Bool.true_or]

theorem engCtl_home (u k : Nat) : engCtl u (unitHome u k) = engCtl u k := by
  unfold engCtl unitHome
  split <;> rfl

theorem State.killUnit_home : s.killUnit u (unitHome u k) = s.killUnit u k := by
  unfold State.killUnit
  rw [State.unitCmds_home]

/-- A write of a unit's control register. -/
theorem State.regWrite_engCtl (h0 : u ≠ 0) (h8 : u < 8) (v : Word) :
    s.regWrite (engCtl u k) v = s.engCtlWrite u (unitHome u k) v := by
  unfold engCtl unitHome
  by_cases h : u ≤ 5
  · rw [if_pos h, if_pos h]
    change s.engCtlWrite (1 + (u - 1)) k v = _
    rw [Nat.add_sub_cancel' (Nat.pos_of_ne_zero h0)]
  · rw [if_neg h, if_neg h]
    change s.engCtlWrite (6 + (u - 6)) 0 v = _
    rw [Nat.add_sub_cancel' (by omega)]

end

/-- Two consequences with one effect leave the same step. -/
theorem State.after_owe_congr {s t : State} {d d' : Due} (ht : t.due = []) (h : ∀ x : State, x.handle d = x.handle d') :
    s.after (t.owe d) = s.after (t.owe d') := by
  have done (d : Due) : (t.owe d).settled = State.settleGo 1048575 (State.handle t d) := by
    have due : (t.owe d).due = d :: [] := by
      simp only [State.owe, ht, List.nil_append]
    refine (State.settleGo_cons 1048575 due).trans ?_
    have same : ({ t.owe d with due := [] } : State) = t := by
      rw [← ht]
      rfl
    rw [same]
  unfold State.after
  rw [done, done, h]

/-! ### Unit control (R404, R406) -/

section
variable {s : State} {u q : Nat}

/-- What leaves a unit DISABLED: its event, and ENABLED again where its microcode is reloaded. -/
def State.disabledUnit (s : State) (u q : Nat) (reload : Bool) : State :=
  let t := (s.setUnit u q fun x => { x with state := .disabled }).event 6
    [BitVec.ofNat 8 u, if u ≤ 5 then BitVec.ofNat 8 q else 0xFF]
  if reload then t.setUnit u q fun x => { x with state := .enabled, reload := false } else t

theorem State.unit_setUnit (hw : twf {} s.units = true) (f : EngUnit → EngUnit) : (s.setUnit u q f).unit u q = f (s.unit u q) :=
  tget_tset_same (twf_sorted hw)

theorem State.twf_setUnit (hw : twf {} s.units = true) (f : EngUnit → EngUnit) : twf {} (s.setUnit u q f).units = true :=
  twf_tmod hw

theorem State.engDisabled_of_busy (h : s.unitCmds u q ≠ []) : s.engDisabled u q = s := by
  refine if_neg ?_
  simp [h]

theorem State.engDisabled_of_idle (hst : (s.unit u q).state = .quiescing ∨ (s.unit u q).state = .killing)
    (h : s.unitCmds u q = []) (hw : twf {} s.units = true) : s.engDisabled u q = s.disabledUnit u q (s.unit u q).reload := by
  have goes : ((decide ((s.unit u q).state = .quiescing) || decide ((s.unit u q).state = .killing))
      && (s.unitCmds u q).isEmpty) = true := by
    rw [h]
    rcases hst with hst | hst <;> rw [hst] <;> rfl
  refine (if_pos goes).trans ?_
  have same (t : Nat) (b : List Byte) (x : State) : (x.event t b).unit u q = x.unit u q := by
    unfold State.unit
    rw [State.event_units]
  rw [same, State.unit_setUnit hw]
  rfl

theorem State.engOp_quiesce (h : (s.unit u q).state = .enabled) :
    s.engOp u q 1 = (s.setUnit u q fun _ => { state := .quiescing, lastStatus := stOk, since := s.now }).engDisabled u q :=
  if_pos h

theorem State.engOp_quiesce_of_other (h : (s.unit u q).state ≠ .enabled) :
    s.engOp u q 1 = s.setUnit u q fun x => { x with lastStatus := stUnsupported } := if_neg h

theorem State.engOp_kill (h : (s.unit u q).state = .enabled ∨ (s.unit u q).state = .quiescing) : s.engOp u q 2 =
    let s := s.setUnit u q fun x => { x with lastStatus := stOk }
    if (s.unitCmds u q).isEmpty then (s.setUnit u q fun x => { x with state := .killing }).engDisabled u q
    else s.startKill u q :=
  if_pos (by simpa using h)

theorem State.engOp_kill_of_other (h : (s.unit u q).state ≠ .enabled) (h' : (s.unit u q).state ≠ .quiescing) :
    s.engOp u q 2 = s.setUnit u q fun x => { x with lastStatus := stUnsupported } :=
  if_neg (by simp [h, h'])

theorem State.engOp_enable (h : (s.unit u q).state = .disabled) :
    s.engOp u q 3 = s.setUnit u q fun x => { x with state := .enabled, lastStatus := stOk } := if_pos h

theorem State.engOp_enable_of_other (h : (s.unit u q).state ≠ .disabled) :
    s.engOp u q 3 = s.setUnit u q fun x => { x with lastStatus := stUnsupported } := if_neg h

theorem State.quiesceExpiry_of_due (h : (s.unit u q).state = .quiescing) (ht : s.quiesceTo u q ≤ s.now - (s.unit u q).since)
    (hc : s.unitCmds u q ≠ []) : s.quiesceExpiry u q = (s.setUnit u q fun x => { x with state := .killing }).owe (.kill u q) :=
  if_pos (by simp [h, ht, hc])

end

/-! ### The same under the quadrant where the unit's register stands -/

section
variable {s : State} {u k : Nat}

theorem State.engDisabled_home : s.engDisabled u (unitHome u k) = s.engDisabled u k := by
  by_cases h : u ≤ 5
  · rw [unitHome, if_pos h]
  · simp only [State.engDisabled, State.unit_home, State.setUnit_home, State.unitCmds_home, if_neg h]

theorem State.engOp_quiesce_home : s.engOp u (unitHome u k) 1 = s.engOp u k 1 := by
  simp only [State.engOp, State.unit_home, State.setUnit_home, State.engDisabled_home]

theorem State.engOp_enable_home : s.engOp u (unitHome u k) 3 = s.engOp u k 3 := by
  simp only [State.engOp, State.unit_home, State.setUnit_home]

/-- KILL leaves the same step under either number: what is due of a hub unit's kill names it alone. -/
theorem State.after_engOp_kill_home {r : State} (hd : s.due = []) :
    r.after (s.engOp u (unitHome u k) 2) = r.after (s.engOp u k 2) := by
  simp only [State.engOp, State.unit_home, State.setUnit_home, State.engDisabled_home, State.unitCmds_home]
  split
  · split
    · rfl
    · simp only [State.startKill, State.setUnit_home]
      exact State.after_owe_congr hd fun x => State.killUnit_home
  · rfl

end

/-- A row that is an op of a unit's control register which it reaches. -/
theorem State.Ready.unitRow {s t : State} {c : Instr} {u k op : Nat} {v : Word} (hs : s.Ready) (h0 : u ≠ 0) (h8 : u < 8)
    (ho : op < 4) (hc : exec c s = s.perform fun s => s.unitOp u k v op) (hr : s.reaches (engCtl u k) = true)
    (ht : (s.putAt (engCtl u k) (storedWrite s (engCtl u k) (putBits v 36 35 op))).engOp u (unitHome u k) op = t) :
    exec c s = .next (s.after t) := by
  refine hs.exec_after hc ((if_neg h0).trans ((s.regRow_of_reaches _ hr).trans ?_))
  have written : bits (putBits v 36 35 op) 36 35 = op := by
    rw [bits_putBits v 36 35 op (by decide) (by decide)]
    omega
  rw [State.regWrite_engCtl h0 h8, State.engCtlWrite, written, engCtl_home, ht]

/-- Settles O34: each op by the state that its unit is in, under the quadrant where the unit's register stands. -/
theorem unitControlActs : Obligations.UnitControlActs := by
  unfold Obligations.UnitControlActs
  intro s unit q v hs
  refine ⟨fun h0 => ?_, fun hne => ?_⟩
  · subst h0
    exact ⟨hs.exec_next rfl (if_pos rfl) rfl rfl, hs.exec_next rfl (if_pos rfl) rfl rfl, hs.exec_next rfl (if_pos rfl) rfl rfl⟩
  intro u k a w x off done bad
  have h0 : u ≠ 0 := fun h => hne (BitVec.eq_of_toNat_eq h)
  have h8 : u < 8 := unit.isLt
  have kills {t : State} (hr : s.reaches a = true) (ht : (w 2).engOp u k 2 = t) : exec (.engKill unit q v) s = .next (s.after t) :=
    (hs.unitRow h0 h8 (by decide) rfl hr rfl).trans
      (congrArg Host.Outcome.next ((State.after_engOp_kill_home (s := w 2) hs.due).trans (congrArg _ ht)))
  refine ⟨fun hr => ⟨fun hx hc => ?_, fun hx hc hw => ?_, fun hx => ?_, fun hx hc => ?_, fun hx hc hw => ?_,
    fun hx hx' => ?_, fun hx => ?_, fun hx => ?_⟩, fun hx ht hc => ?_, fun hx hc hw => ?_⟩
  · rw [hs.unitRow h0 h8 (by decide) rfl hr (State.engOp_quiesce_home.trans ((State.engOp_quiesce (s := w 1) hx).trans
      (State.engDisabled_of_busy hc)))]
    exact congrArg _ (State.after_eq hs.due rfl)
  · refine hs.unitRow h0 h8 (by decide) rfl hr (State.engOp_quiesce_home.trans ((State.engOp_quiesce (s := w 1) hx).trans ?_))
    have now := State.unit_setUnit (s := w 1) (u := u) (q := k) hw fun _ => { state := .quiescing, lastStatus := stOk, since := s.now }
    refine (State.engDisabled_of_idle (.inl (congrArg EngUnit.state now)) hc (State.twf_setUnit (s := w 1) hw _)).trans ?_
    exact congrArg _ (congrArg EngUnit.reload now)
  · rw [hs.unitRow h0 h8 (by decide) rfl hr (State.engOp_quiesce_home.trans (State.engOp_quiesce_of_other (s := w 1) hx))]
    exact congrArg _ (State.after_eq hs.due rfl)
  · refine kills hr ((State.engOp_kill (s := w 2) hx).trans ?_)
    exact if_neg fun h => hc (List.isEmpty_iff.1 h)
  · have acked := State.unit_setUnit (s := w 2) (u := u) (q := k) hw fun x => { x with lastStatus := stOk }
    have killing := State.unit_setUnit (s := (w 2).setUnit u k fun x => { x with lastStatus := stOk }) (u := u) (q := k)
      (State.twf_setUnit (s := w 2) hw _) fun x => { x with state := .killing }
    refine kills hr ((State.engOp_kill (s := w 2) hx).trans ((if_pos (List.isEmpty_iff.2 hc)).trans ?_))
    refine (State.engDisabled_of_idle (.inr (congrArg EngUnit.state killing)) hc
      (State.twf_setUnit (State.twf_setUnit (s := w 2) hw _) _)).trans ?_
    have kept : (((w 2).setUnit u k fun x => { x with lastStatus := stOk }).unit u k).reload = ((w 2).unit u k).reload := by
      rw [acked]
    exact congrArg _ ((congrArg EngUnit.reload killing).trans kept)
  · rw [kills hr (State.engOp_kill_of_other (s := w 2) hx hx')]
    exact congrArg _ (State.after_eq hs.due rfl)
  · rw [hs.unitRow h0 h8 (by decide) rfl hr (State.engOp_enable_home.trans (State.engOp_enable (s := w 3) hx))]
    exact congrArg _ (State.after_eq hs.due rfl)
  · rw [hs.unitRow h0 h8 (by decide) rfl hr (State.engOp_enable_home.trans (State.engOp_enable_of_other (s := w 3) hx))]
    exact congrArg _ (State.after_eq hs.due rfl)
  · exact hs.exec_after rfl (State.quiesceExpiry_of_due hx ht hc)
  · exact hs.exec_after rfl (State.engDisabled_of_idle hx hc hw)

end Sys2Proof.Machine
end

section
/-! SUPPORT. The timers of the engine units, and how their commands begin: O35. -/

namespace Sys2Proof.Machine

section
variable {s : State} {id : Nat} {e : Eng}

/-! ### Timers (R133, R360, R386 to R391, R416, R421) -/

theorem State.threadFree_of_one {q n : Nat} (hw : s.threadless q = [(n, id)]) (ht : s.threadsBusy q < s.threads q) :
    s.threadFree q = (s.setEng id fun e => { e with phase := .thread [0, 0, 0, 0] }).owe (.eng id) := by
  refine (if_pos ht).trans ?_
  rw [hw]
  rfl

theorem State.heatRetry_of_due {k t b : Nat} {r : GuRun} {p : SentPart} (he : s.eng id = some e) (hr : e.gu? = some r)
    (hp : r.parts[k]? = some p) (hb : p.backoff = some (t, b)) (hd : b ≤ 2 * (s.now - t)) (hk : s.stopping id = false) :
    s.heatRetry id k = (s.setGu id fun r => { r with parts := r.parts.set k { p with backoff := none } }).sendPart id k
      { p with backoff := none } := by
  have part : ((s.eng id).bind fun e => e.gu?.bind fun r => r.parts[k]?) = some p := by
    rw [he, Option.bind_some, hr, Option.bind_some, hp]
  unfold State.heatRetry
  rw [part]
  dsimp only
  rw [hb]
  exact if_pos (by rw [hk, decide_eq_true hd]; rfl)

theorem State.heldTimeout_of_due {h : HeldPart} (hh : s.heat id = some h)
    (hr : ∀ i e r, s.groupCmd h.group = some (i, e, r) → e.round ≠ h.round) (hd : s.relayTo h.group ≤ s.now - h.since) :
    s.heldTimeout id = s.answerPart id stTimeout 0 0 [] := by
  unfold State.heldTimeout
  rw [hh]
  dsimp only
  cases hg : s.groupCmd h.group with
  | none => exact if_pos (by rw [decide_eq_true hd]; rfl)
  | some x => exact if_pos (by simp [hd, hr x.1 x.2.1 x.2.2 hg])

theorem State.detApply_of_whole {g : Nat} {r : GuRun} (hg : s.groupCmd g = some (id, e, r)) (ho : e.op = 2) (hd : e.det = true)
    (hr : r.ownDone = true) (ha : r.applying = false) (hf : r.refused = none) (hp : s.allParts g r = true) :
    s.detApply g = (s.setGu id fun x => { x with applying := true, work := s.roundAdds g e r }).owe (.eng id) := by
  unfold State.detApply
  rw [hg]
  exact if_neg (by simp [ho, hd, hr, ha, hf, hp])

theorem State.relayTimeout_of_due (he : s.eng id = some e) (hu : e.unit = 4) (hs : e.started = true) (hr : e.relay = true)
    (hc : isCommon e.op = false) (hd : s.relayTo e.grp ≤ s.now - e.since) : s.relayTimeout id = s.addCond id stTimeout := by
  unfold State.relayTimeout
  rw [he]
  exact if_pos (by simp [hu, hs, hr, hc, hd])

theorem State.watchTimeout_of_due {w : Watch} (hw : (s.hdl.watches.find? fun w => w.to_ = .cmd id) = some w)
    (h0 : w.timeout ≠ 0) (hd : w.timeout ≤ s.now - w.since) : s.watchTimeout id = s.endWatches (fun x => x.n = w.n) stTimeout := by
  unfold State.watchTimeout
  rw [hw]
  exact if_pos (by rw [bne_iff_ne.2 h0, decide_eq_true hd]; rfl)

theorem State.hdlPeerTimeout_of_due {tag t : Nat} {r : DevReq} (hr : (s.xp.reqs.find? (·.1 = tag)) = some (t, r))
    (hk : r.kind = .hdlPeer id) (he : s.eng id = some e) (hw : ¬ (e.op = 5 ∧ field e.body 28 4 = 0))
    (hd : field e.body 28 4 * 1000 + s.borrowTo ≤ s.now - r.since) : s.hdlPeerTimeout tag = s.endReq tag stTimeout false [] := by
  have timed : ¬ (decide (e.op = 5) && decide (field e.body 28 4 * 1000 = 0)) = true := by
    rw [Bool.and_eq_true, decide_eq_true_iff, decide_eq_true_iff]
    exact fun h => hw ⟨h.1, by omega⟩
  unfold State.hdlPeerTimeout
  rw [hr]
  dsimp only
  rw [hk]
  dsimp only
  rw [he]
  exact (if_neg timed).trans (if_pos hd)

theorem State.ecWriteBack_of_clean {q l : Nat} {x : EcLine} (hx : s.ecFind q l = some x) (hd : x.dirty = 0) (ev : Bool) :
    s.ecWriteBack q l ev = s := by
  unfold State.ecWriteBack
  rw [hx]
  exact if_pos hd

/-! ### How the commands begin (R145, R146, R358, R360, R371 to R373) -/

theorem State.flushWaits_iff : s.flushWaits e = true ↔ ∃ i ∈ e.awaited, s.findCmd i ≠ none := by
  simp only [State.flushWaits, List.any_eq_true, Option.isSome_iff_ne_none]

/-- The state in which a flush or invalidation goes on: what is dirty in its range is on its way. -/
def State.flushed (s : State) (id : Nat) (e : Eng) : State :=
  if e.issued then s
  else s.flushRange e.quad (field e.body 1 1 % 2 = 1) (e.opnds.getD 0 ⟨0, 0, false, false⟩).gfa
    (e.opnds.getD 0 ⟨0, 0, false, false⟩).len fun s ids =>
      s.setEng id fun e => { e with issued := true, phase := .cache (ids ++ e.awaited) }

theorem State.commonRun_of_waits {f : Eng} (hf : (s.flushed id e).eng id = some f) (hw : (s.flushed id e).flushWaits f = true) :
    s.commonRun id e = s.flushed id e := by
  unfold State.flushed at *
  unfold State.commonRun
  dsimp only
  rw [hf]
  exact if_pos hw

theorem State.commonRun_of_done {f : Eng} (hf : (s.flushed id e).eng id = some f) (hw : (s.flushed id e).flushWaits f = false) :
    s.commonRun id e = (if f.op = 0xF1 then
        (s.flushed id e |>.ecLines f.quad (field e.body 1 1 % 2 = 1) (e.opnds.getD 0 ⟨0, 0, false, false⟩).gfa
          (e.opnds.getD 0 ⟨0, 0, false, false⟩).len).foldl (fun s l => s.ecInval f.quad l) (s.flushed id e)
      else s.flushed id e).endEng id (firstByOrder [stExtentRevoked, stFenced, stTimeout] f.conds) [] := by
  unfold State.flushed at *
  unfold State.commonRun
  dsimp only
  rw [hf]
  exact if_neg (ne_true_of_eq_false hw)

/-- A query begins: its conditions first, then a thread if one is free. -/
theorem State.searchRun_begins (hp : e.phase = .none) (conds : List Byte)
    (hc : (s.indexBind e).2 ++ (if s.scratchOn e.quad then [] else [stUnsupported]) = conds) :
    s.searchRun id e = if conds != [] then s.searchEnd id (firstByOrder searchOrder conds)
      else if s.threadless e.quad = [] && s.threadsBusy e.quad < s.threads e.quad then
        (s.setEng id fun e => { e with phase := .thread [0, 0, 0, 0] }).owe (.eng id)
      else (s.setEng id fun x => { x with phase := .noThread ((s.threadless e.quad).foldl (fun m w => max m (w.1 + 1)) 0) }).countQ
        e.quad .seStat 6 := by
  subst hc
  unfold State.searchRun
  rw [hp]

theorem State.gatherRun_starts {c : Cmd} (hc : s.findCmd id = some c) (hg : e.gu? = none) :
    s.gatherRun id e = s.gatherStart id c e := by
  unfold State.gatherRun
  rw [hc]
  dsimp only
  rw [hg]

theorem State.gatherRun_indexes {c : Cmd} {r : GuRun} (hc : s.findCmd id = some c) (hg : e.gu? = some r) (hi : r.idx = none) :
    s.gatherRun id e = s.gatherIndex id e (tabOf r.hdr) := by
  unfold State.gatherRun
  rw [hc]
  dsimp only
  rw [hg]
  dsimp only
  rw [hi]

theorem State.gatherStart_waits (hr : e.relay = true) (hg : (s.group e.grp).active ≠ none) (c : Cmd) :
    s.gatherStart id c e = s :=
  if_pos (by rw [hr, Option.isSome_iff_ne_none.2 hg]; rfl)

theorem State.gatherStart_of_turn (hr : e.relay = false ∨ (s.group e.grp).active = none) :
    ¬ (e.relay && (s.group e.grp).active.isSome) = true := by
  rcases hr with h | h <;> simp [h]

end

/-- Settles O35: the rows by the lemma of each, the commands by how each begins. -/
theorem unitTimersComplete : Obligations.UnitTimersComplete := by
  unfold Obligations.UnitTimersComplete
  refine ⟨fun s hs => ⟨fun q n id hw ht => ?_, fun id k e r p t b he hr hp hb hd hk => ?_, fun id h hh hr hd => ?_,
    fun g id e r hg ho hd hr ha hf hp => ?_, fun id e he hu hst hr hc hd => ?_, fun id w hw h0 hd => ?_,
    fun tag t r id e hr hk he hw hd => ?_, fun q l x hx => ?_⟩, fun s id e f => ?_, fun s id e hp => ?_, fun s id c e hc => ?_⟩
  · exact hs.exec_after rfl (State.threadFree_of_one hw ht)
  · exact hs.exec_after rfl (State.heatRetry_of_due he hr hp hb hd hk)
  · exact hs.exec_after rfl (State.heldTimeout_of_due hh hr hd)
  · exact hs.exec_after rfl (State.detApply_of_whole hg ho hd hr ha hf hp)
  · exact hs.exec_after rfl (State.relayTimeout_of_due he hu hst hr hc hd)
  · exact hs.exec_after rfl (State.watchTimeout_of_due hw h0 hd)
  · exact hs.exec_after rfl (State.hdlPeerTimeout_of_due hr hk he hw hd)
  · exact ⟨fun h => hs.exec_after rfl (if_neg (ne_true_of_eq_false h)), fun h => hs.exec_after rfl (if_pos h),
      fun h => State.ecWriteBack_of_clean hx h true⟩
  · intro whole o u hf
    refine ⟨fun hw => State.commonRun_of_waits hf (State.flushWaits_iff.2 hw), fun hw => ?_⟩
    intro st
    have quiet : (s.flushed id e).flushWaits f = false :=
      Bool.eq_false_iff.2 fun h => (State.flushWaits_iff.1 h).elim fun i hi => hi.2 (hw i hi.1)
    exact ⟨fun h => (State.commonRun_of_done hf quiet).trans (by rw [if_neg h]; rfl),
      fun h => (State.commonRun_of_done hf quiet).trans (by rw [if_pos h]; rfl)⟩
  · intro conds
    have begins := State.searchRun_begins (id := id) hp conds rfl
    refine ⟨fun h => begins.trans (if_pos (bne_iff_ne.2 h)), fun h hw ht => ?_, fun h hw => ?_⟩
    · rw [begins, h]
      exact (if_neg Bool.false_ne_true).trans (if_pos (by rw [hw, decide_eq_true ht]; rfl))
    · rw [begins, h]
      refine (if_neg Bool.false_ne_true).trans (if_neg ?_)
      rcases hw with hw | hw
      · simp [hw]
      · simp [Nat.not_lt.2 hw]
  · refine ⟨fun hg hr => ⟨fun hd => ?_, fun t h bad hd hh => ?_⟩, fun hg hr ha => ?_, fun r t b bad hg hi hb => ?_⟩
    · exact (State.gatherRun_starts hc hg).trans ((if_neg (State.gatherStart_of_turn hr)).trans (if_pos (bne_iff_ne.2 hd)))
    · have here : ¬ (gfaDev e.tabGfa != s.ownId) = true := by rw [hd]; simp
      have starts : s.gatherStart id c e = _ := (if_neg (State.gatherStart_of_turn hr)).trans (if_neg here)
      rw [State.gatherRun_starts hc hg, starts, hh]
    · exact (State.gatherRun_starts hc hg).trans (State.gatherStart_waits hr ha c)
    · intro idx padding
      rw [State.gatherRun_indexes hc hg hi]
      unfold State.gatherIndex
      rw [hb]
      refine ⟨fun h => if_pos h, fun h hbad => (if_neg (ne_true_of_eq_false h)).trans (if_pos ?_),
        fun h hok => (if_neg (ne_true_of_eq_false h)).trans (if_neg ?_)⟩
      · obtain ⟨i, hi, hle, hp⟩ := hbad
        exact List.any_eq_true.2 ⟨i, hi, by rw [decide_eq_true hle]; exact (congrArg (!·) hp)⟩
      · intro hany
        obtain ⟨i, hi, h⟩ := List.any_eq_true.1 hany
        obtain ⟨hle, hp⟩ := Bool.and_eq_true_iff.1 h
        rcases hok i hi with hlt | hpad
        · exact absurd (of_decide_eq_true hle) (Nat.not_le.2 hlt)
        · exact absurd hp (ne_true_of_eq_false (congrArg (!·) hpad))

end Sys2Proof.Machine
end

section
/-! SUPPORT. The Hurdle commands: O36. -/

namespace Sys2Proof.Machine

/-- A test of a Hurdle that nothing watches changes nothing. -/
theorem State.testWatches_of_unwatched {s : State} {h : Nat} (hw : ∀ w ∈ s.hdl.watches, w.hurdle ≠ h) :
    s.testWatches h = (s, 0) := by
  have none_fires : ∀ v, (s.hdl.watches.filter fun w => w.hurdle = h && w.holds v) = [] := fun v =>
    List.filter_eq_nil_iff.2 fun w hm => by simp [hw w hm]
  have all_stay : ∀ v, (s.hdl.watches.filter fun w => !(w.hurdle = h && w.holds v)) = s.hdl.watches := fun v =>
    List.filter_eq_self.2 fun w hm => by simp [hw w hm]
  unfold State.testWatches
  dsimp only
  rw [none_fires, all_stay]
  rfl

theorem State.hurdleUpdate_of_unwatched {s : State} {h op : Nat} {v : Word} (hw : ∀ w ∈ s.hdl.watches, w.hurdle ≠ h) :
    s.hurdleUpdate h op v =
      ((s.setHurdle h fun x => { x with value := hurdleNew op (s.hurdle h).value v }).count .hubHdlStat 0, (s.hurdle h).value, 0) := by
  have quiet (t : State) (ht : t.hdl.watches = s.hdl.watches) : t.testWatches h = (t, 0) :=
    State.testWatches_of_unwatched (ht ▸ hw)
  unfold State.hurdleUpdate
  dsimp only
  rw [quiet]
  simp [State.setHurdle]

section
variable {s : State} {id : Nat} {c : Cmd} {e : Eng} (hc : s.findCmd id = some c) (hi : e.issued = false) (hp : e.phase = .none)
  (hd : field e.body 6 2 = s.ownId)
include hc hi hp hd

/-! ### A Hurdle command that begins on the device that holds the Hurdle (R411 to R428) -/

theorem State.hurdleRun_alloc_quota (ho : e.op = 1) (hq : s.hdlMax c.tenant ≤ s.hurdlesHeld c.tenant) :
    s.hurdleRun id e = s.hurdleBad id (field e.body 4 2) stQuota := by
  simp [State.hurdleRun, hc, hi, hp, hd, ho, hq]

theorem State.hurdleRun_alloc_full (ho : e.op = 1) (hq : s.hurdlesHeld c.tenant < s.hdlMax c.tenant)
    (hf : (leastBelow 16384 fun i => !(s.hurdle i).alloc) = none) :
    s.hurdleRun id e = s.hurdleBad id (field e.body 4 2) stRetry := by
  simp [State.hurdleRun, hc, hi, hp, hd, ho, Nat.not_le.2 hq, hf]

theorem State.hurdleRun_alloc_free {i : Nat} (ho : e.op = 1) (hq : s.hurdlesHeld c.tenant < s.hdlMax c.tenant)
    (hf : (leastBelow 16384 fun i => !(s.hurdle i).alloc) = some i) :
    s.hurdleRun id e = (s.setHurdle i fun _ => { alloc := true, peerOk := field e.body 1 1 = 1, tenant := c.tenant,
                                                 value := BitVec.ofNat 64 (field e.body 8 8) }).endEng id stOk
      (hurdleResult i false 0 (BitVec.ofNat 64 (field e.body 8 8))) := by
  simp [State.hurdleRun, hc, hi, hp, hd, ho, Nat.not_le.2 hq, hf]

theorem State.hurdleRun_free (ho : e.op = 2) (ha : (s.hurdle (field e.body 4 2)).alloc = true)
    (ht : (s.hurdle (field e.body 4 2)).tenant = c.tenant) :
    s.hurdleRun id e = (s.hurdleFree (field e.body 4 2)).endEng id stOk (hurdleResult (field e.body 4 2) false 0 0) := by
  simp [State.hurdleRun, hc, hi, hp, hd, ho, ha, ht]

theorem State.hurdleRun_refused (ho : e.op = 3 ∨ e.op = 4 ∨ e.op = 5) (hk : s.hurdleCheck c (field e.body 4 2) ≠ stOk) :
    s.hurdleRun id e = s.hurdleBad id (field e.body 4 2) (s.hurdleCheck c (field e.body 4 2)) := by
  have bad : ¬ s.hurdleCheck c (field e.body 4 2) = 0#8 := hk
  rcases ho with ho | ho | ho <;> simp [State.hurdleRun, hc, hi, hp, hd, ho, bad]

theorem State.hurdleRun_read (ho : e.op = 4) (hk : s.hurdleCheck c (field e.body 4 2) = stOk) :
    s.hurdleRun id e = s.endEng id stOk (hurdleResult (field e.body 4 2) false 0 (s.hurdle (field e.body 4 2)).value) := by
  simp [State.hurdleRun, hc, hi, hp, hd, ho, hk]

theorem State.hurdleRun_update (ho : e.op = 3) (hk : s.hurdleCheck c (field e.body 4 2) = stOk)
    (hw : ∀ w ∈ s.hdl.watches, w.hurdle ≠ field e.body 4 2) :
    s.hurdleRun id e = ((s.setHurdle (field e.body 4 2) fun x =>
        { x with value := hurdleNew (field e.body 2 1) (s.hurdle (field e.body 4 2)).value (BitVec.ofNat 64 (field e.body 8 8)) }).count
      .hubHdlStat 0).endEng id stOk (hurdleResult (field e.body 4 2) false 0 (s.hurdle (field e.body 4 2)).value) := by
  simp [State.hurdleRun, hc, hi, hp, hd, ho, hk, State.hurdleUpdate_of_unwatched hw]

theorem State.hurdleRun_watch (ho : e.op = 5) (hk : s.hurdleCheck c (field e.body 4 2) = stOk) :
    s.hurdleRun id e = s.hurdleWatch id c e := by
  simp [State.hurdleRun, hc, hi, hp, hd, ho, hk]

theorem State.hurdleRun_save (ho : e.op = 6) : s.hurdleRun id e = s.hurdleSave id c e := by
  simp [State.hurdleRun, hc, hi, hp, hd, ho]

theorem State.hurdleRun_restore (ho : e.op = 7) : s.hurdleRun id e = s.hurdleRestore id c e := by
  simp [State.hurdleRun, hc, hi, hp, hd, ho]

end

/-- Settles O36. -/
theorem hurdleCommandsAct : Obligations.HurdleCommandsAct := by
  unfold Obligations.HurdleCommandsAct
  refine ⟨fun s id c e hc hi hp hd => ?_, fun s id c e hc hi hp hd ho => ?_, fun s id c e hc hi hp hd => ?_⟩
  · intro h v free
    exact ⟨fun ho => ⟨State.hurdleRun_alloc_quota hc hi hp hd ho, State.hurdleRun_alloc_full hc hi hp hd ho,
        fun i => State.hurdleRun_alloc_free hc hi hp hd ho⟩,
      State.hurdleRun_free hc hi hp hd, State.hurdleRun_refused hc hi hp hd, State.hurdleRun_read hc hi hp hd,
      State.hurdleRun_update hc hi hp hd⟩
  · intro h owner hk
    rw [State.hurdleRun_watch hc hi hp hd ho hk]
    refine ⟨fun hq => if_pos hq, fun hq hl => (if_neg (Nat.not_le.2 hq)).trans (if_pos hl), fun hq hl => ?_⟩
    have room : s.hurdleWatch id c e = _ := (if_neg (Nat.not_le.2 hq)).trans (if_neg (Nat.not_le.2 hl))
    intro w added
    exact ⟨fun hr => room.trans (if_neg hr), fun hr => room.trans (if_pos hr)⟩
  · intro h n o own saved fails
    refine ⟨fun ho => ?_, fun ho => ?_⟩
    · rw [State.hurdleRun_save hc hi hp hd ho]
      have fresh : ¬ e.issued = true := ne_true_of_eq_false hi
      have mine (ht : ∀ x ∈ own, x.2.tenant = c.tenant) : ¬ (own.any fun x => x.2.tenant != c.tenant) = true := fun hany => by
        obtain ⟨x, hx, hne⟩ := List.any_eq_true.1 hany
        exact bne_iff_ne.1 hne (ht x hx)
      refine ⟨fun ⟨x, hx, ht⟩ => ?_, fun ht hl => ?_, fun ht hl ⟨x, hx, hf⟩ => ?_, fun ht hl => ?_⟩
      · have other : (own.any fun x => x.2.tenant != c.tenant) = true := List.any_eq_true.2 ⟨x, hx, bne_iff_ne.2 ht⟩
        exact (if_neg fresh).trans (if_pos other)
      · exact (if_neg fresh).trans ((if_neg (mine ht)).trans (if_pos hl))
      · exact (if_neg fresh).trans ((if_neg (mine ht)).trans ((if_neg (Nat.not_lt.2 hl)).trans
          (if_pos (List.any_eq_true.2 ⟨x, hx, hf⟩))))
      · have sound : ¬ (own.any fun x => x.2.faulted) = true := fun hany => by
          obtain ⟨x, hx, hf⟩ := List.any_eq_true.1 hany
          exact ne_true_of_eq_false (ht x hx).2 hf
        exact (if_neg fresh).trans ((if_neg (mine fun x hx => (ht x hx).1)).trans ((if_neg (Nat.not_lt.2 hl)).trans (if_neg sound)))
    · rw [State.hurdleRun_restore hc hi hp hd ho]
      refine ⟨fun ⟨i, hi, ha⟩ => if_pos (List.any_eq_true.2 ⟨i, List.mem_range.2 hi, ha⟩), fun t r ha hr u cs gs hu => ?_⟩
      have free : ¬ ((List.range n).any fun i => (s.hurdle (h + i)).alloc) = true := fun hany => by
        obtain ⟨i, hi, hal⟩ := List.any_eq_true.1 hany
        exact ne_true_of_eq_false (ha i (List.mem_range.1 hi)) hal
      have restores : s.hurdleRestore id c e = _ := if_neg free
      rw [hr] at restores
      dsimp only at restores
      rw [hu] at restores
      cases cs with
      | nil => exact ⟨fun hne => absurd rfl hne, fun _ => restores⟩
      | cons x xs => exact ⟨fun _ => restores, fun h => absurd h (List.cons_ne_nil x xs)⟩

end Sys2Proof.Machine
end

section
/-! SUPPORT. Frames, pauses, flow rules, policers and gate lists: O37, O39 and O40. -/

namespace Sys2Proof.Machine

section
variable {s t : State} {i o : Nat} {e : EthFrame} {upset : Bool}

/-! ### A frame that reaches the switch (R433, R444, R462) -/

theorem State.switches_of_live {p : Nat} (h : s.switching = true) (hl : s.portLive p = true) :
    ¬ (!s.switching || !s.portLive p) = true := by
  rw [h, hl]
  decide

theorem State.dead_of_idle {p : Nat} (h : s.switching = false ∨ s.portLive p = false) : (!s.switching || !s.portLive p) = true := by
  rcases h with h | h <;> simp [h]

/-- The frame that came in has no route. -/
theorem State.frameReceive_of_unrouted (h : s.switching = true) (hl : s.portLive i = true) (ht : (s.frameSeen i upset).mirrorIn i e = t)
    (hr : t.routeOf e = none) : s.frameReceive i e upset = t.count .swStat 2 := by
  subst ht
  have seen : s.frameReceive i e upset = _ := if_neg (State.switches_of_live h hl)
  dsimp only at seen
  rw [hr] at seen
  exact seen

/-- What the switch finds wrong with a routed frame. -/
def State.frameLost (t : State) (i o : Nat) (e : EthFrame) (upset : Bool) : Bool :=
  !e.fcsOk || upset || (i < 32 && o < 32 && (e.ttl.toNat ≤ 1 || t.starting))

theorem State.frameLost_iff : t.frameLost i o e upset = true ↔
    e.fcsOk = false ∨ upset = true ∨ i < 32 ∧ o < 32 ∧ (e.ttl.toNat ≤ 1 ∨ t.starting = true) := by
  simp [State.frameLost, or_assoc, and_assoc]

theorem State.frameReceive_of_routed (h : s.switching = true) (hl : s.portLive i = true) (ht : (s.frameSeen i upset).mirrorIn i e = t)
    (hr : t.routeOf e = some o) : s.frameReceive i e upset = if t.frameLost i o e upset then t.count .swStat 2
      else if !t.mayLeave i o e then t
      else (if 32 ≤ i then t.admitFrame i o { e with ttl := 64 } false else t.policed i o e).sweep := by
  subst ht
  have seen : s.frameReceive i e upset = _ := if_neg (State.switches_of_live h hl)
  dsimp only at seen
  rw [hr] at seen
  exact seen

/-! ### An output that sends (R447, R460) -/

theorem State.outputService_of_dead (h : s.switching = false ∨ s.portLive o = false) : s.outputService o = s := by
  have none_served : s.serveOutput o = (s, none) := if_pos (State.dead_of_idle h)
  unfold State.outputService
  rw [none_served]

theorem State.outputService_of_none (h : s.switching = true) (hl : s.portLive o = true) (hn : s.sweep.nextFrame o = none) :
    s.outputService o = s.sweep := by
  have served : s.serveOutput o = _ := if_neg (State.switches_of_live h hl)
  dsimp only at served
  rw [hn] at served
  unfold State.outputService
  rw [served]

variable {c : Nat} {x : QItem}

theorem State.serveOutput_of_next (h : s.switching = true) (hl : s.portLive o = true) (hn : s.sweep.nextFrame o = some (c, x)) :
    s.serveOutput o = if 32 ≤ o then (s.sweep.takeFrame o c x, some x.frame) else ((s.sweep.takeFrame o c x).sendOut o x, none) := by
  have served : s.serveOutput o = _ := if_neg (State.switches_of_live h hl)
  dsimp only at served
  rw [hn] at served
  exact served

theorem State.outputService_external (h : s.switching = true) (hl : s.portLive o = true) (hn : s.sweep.nextFrame o = some (c, x))
    (ho : o < 32) : s.outputService o = (s.sweep.takeFrame o c x).sendOut o x := by
  unfold State.outputService
  rw [State.serveOutput_of_next h hl hn, if_neg (Nat.not_le.2 ho)]

theorem State.outputService_quiet (h : s.switching = true) (hl : s.portLive o = true) (hn : s.sweep.nextFrame o = some (c, x))
    (ho : 32 ≤ o) (hm : (if o = 32 then EthFrame.message x.frame else none) = none) :
    s.outputService o = s.sweep.takeFrame o c x := by
  unfold State.outputService
  rw [State.serveOutput_of_next h hl hn, if_pos ho]
  dsimp only
  rw [hm]

theorem State.outputService_message {typ : Byte} {f : Frame} (h : s.switching = true) (hl : s.portLive 32 = true)
    (hn : s.sweep.nextFrame 32 = some (c, x)) (hm : EthFrame.message x.frame = some (typ, f)) :
    s.outputService 32 = (s.sweep.takeFrame 32 c x).message typ f := by
  unfold State.outputService
  rw [State.serveOutput_of_next h hl hn, if_pos (Nat.le_refl 32)]
  dsimp only
  rw [if_pos rfl, hm]

end

/-- Settles O37: the branches of a frame's reception and of an output's service. -/
theorem framesAreSwitched : Obligations.FramesAreSwitched := by
  unfold Obligations.FramesAreSwitched
  refine fun s hs => ⟨fun i e upset => ⟨fun h => ?_, fun h hl => ?_⟩, fun o => ⟨fun h => ?_, fun h hl => ?_⟩⟩
  · exact hs.exec_next rfl (if_pos (State.dead_of_idle h)) rfl rfl
  · intro t
    refine ⟨fun hr => hs.exec_after rfl (State.frameReceive_of_unrouted h hl rfl hr), fun o hr => ?_⟩
    intro lost
    have routed := State.frameReceive_of_routed h hl rfl hr
    have sound (hn : ¬ lost) : ¬ t.frameLost i o e upset = true := fun hx => hn (State.frameLost_iff.1 hx)
    have leaves (hm : t.mayLeave i o e = true) : ¬ (!t.mayLeave i o e) = true := by rw [hm]; decide
    refine ⟨fun hx => ?_, fun hx hm => ?_, fun hx hm hi => ?_, fun hx hm hi => ?_⟩
    · exact hs.exec_after rfl (routed.trans (if_pos (State.frameLost_iff.2 hx)))
    · exact hs.exec_after rfl (routed.trans ((if_neg (sound hx)).trans (if_pos (congrArg (!·) hm))))
    · exact hs.exec_after rfl (routed.trans ((if_neg (sound hx)).trans ((if_neg (leaves hm)).trans
        (congrArg State.sweep (if_pos hi)))))
    · have policed : s.frameReceive i e upset = (t.policed i o e).sweep :=
        routed.trans ((if_neg (sound hx)).trans ((if_neg (leaves hm)).trans (congrArg State.sweep (if_neg (Nat.not_le.2 hi)))))
      exact ⟨fun hc => hs.exec_after rfl (policed.trans (congrArg State.sweep (if_pos hc))),
        fun hc => hs.exec_after rfl (policed.trans (congrArg State.sweep (if_neg hc)))⟩
  · exact hs.exec_next rfl (State.outputService_of_dead h) rfl rfl
  · intro d
    refine ⟨fun hn => hs.exec_after rfl (State.outputService_of_none h hl hn), fun c x hn => ?_⟩
    intro u
    refine ⟨fun ho => hs.exec_after rfl ?_, fun typ f ho hm => ?_, fun ho => hs.exec_after rfl (State.outputService_external h hl hn ho)⟩
    · rcases ho with ho | ⟨ho, hm⟩
      · exact State.outputService_quiet h hl hn ho.le (if_neg ho.ne')
      · exact State.outputService_quiet h hl hn ho.ge ((if_pos ho).trans hm)
    · subst ho
      exact hs.exec_after rfl (State.outputService_message h hl hn hm)

/-! ### Pauses, flow rules and policers (R438, R443, R444, R455) -/

section
variable {s : State} {p c : Nat}

theorem State.pauseRepeat_of_due {k t : Nat} (hs : s.err.stopped = false) (hp : (s.sw.paused.find? (·.1 = 8 * p + c)) = some (k, t))
    (ht : 10000 ≤ s.now - t) (hx : s.xon < s.inTotal p c) :
    let u := (State.count { s with out := s.out ++ [.pause p c 0xFFFF] } .swStat 1).count .swStat 8
    s.pauseRepeat p c = { u with sw := { u.sw with
      paused := u.sw.paused.map fun x => if x.1 = 8 * p + c then (8 * p + c, s.now) else x } } := by
  intro u
  have due : ¬ (decide (s.now - t < 10000) || decide (s.inTotal p c ≤ s.xon)) = true := by
    rw [decide_eq_false (Nat.not_lt.2 ht), decide_eq_false (Nat.not_le.2 hx)]
    decide
  have sent : (s.swPause p c 0xFFFF).count .swStat 8 = u := congrArg (fun s => State.count s .swStat 8) (if_neg (ne_true_of_eq_false hs))
  have same : u.now = s.now := by simp [u]
  unfold State.pauseRepeat
  dsimp only
  rw [hp]
  refine (if_neg due).trans ?_
  rw [sent, same]

theorem State.pauseReceive_of_link {n : BitVec 16} (h : s.serving = true) (hl : s.linkUp p = true) :
    let rest := s.sw.rxPause.filter (·.1 != 8 * p + c)
    let r := portRate (s.optical (p / 4)).mode
    let u := s.count .swStat 0
    s.pauseReceive p c n = { u with sw := { u.sw with
      rxPause := if n = 0 then rest else rest ++ [(8 * p + c, s.now + (64 * n.toNat + r - 1) / r)] } } := by
  have carries : ¬ (!s.serving || !s.linkUp p) = true := by rw [h, hl]; decide
  intro rest r u
  obtain ⟨st, counted⟩ := State.count_shape (s := s) .swStat 0 1 0
  refine (if_neg carries).trans ?_
  dsimp only [u]
  rw [counted]
  rfl

end

/-- Settles O39. -/
theorem pausesAndSwitchWrites : Obligations.PausesAndSwitchWrites := by
  unfold Obligations.PausesAndSwitchWrites
  refine ⟨fun s p c hs => ⟨fun t hp ht hx => ?_, fun n h hl => ?_, hs.exec_next rfl rfl rfl rfl⟩,
    fun s v hs => ⟨fun r hr => ?_, fun p hp hr => ?_⟩⟩
  · intro u
    exact hs.exec_next rfl (State.pauseRepeat_of_due hs.runs hp ht hx)
      (show u.due = s.due by simp [u]) (show u.pending = s.pending by simp [u])
  · intro rest r u
    exact hs.exec_next rfl (State.pauseReceive_of_link h hl) (show u.due = s.due by simp [u])
      (show u.pending = s.pending by simp [u])
  · intro m w
    exact hs.regRow_next rfl hr rfl rfl rfl
  · intro a x t b cbs pbs on on'
    have row : exec (.swPolRate p v) s = .next (s.after (s.polWrite .swPolRate p v)) :=
      hs.exec_after rfl ((if_pos hp).trans (s.regRow_of_reaches v hr))
    refine ⟨fun h h' => ?_, fun h => ?_⟩
    · have fills : s.polWrite .swPolRate p v = t.setPolicer p { tc := cbs, tp := pbs, last := t.now } :=
        if_pos (show (!on && on') = true by rw [h, h']; rfl)
      rw [row, fills, State.after_eq (s := s) (t := t.setPolicer p _) hs.due rfl]
    · have caps : s.polWrite .swPolRate p v = t.setPolicer p { x with tc := min cbs x.tc, tp := min pbs x.tp } :=
        if_neg (show ¬ (!on && on') = true by rcases h with h | h <;> simp [h])
      rw [row, caps, State.after_eq (s := s) (t := t.setPolicer p _) hs.due rfl]

/-! ### What a write of a bit range leaves of the ranges above and below it -/

theorem bits_eq_mod_div (w : Word) {hi lo : Nat} (h : lo ≤ hi + 1) : bits w hi lo = w.toNat % 2 ^ (hi + 1) / 2 ^ lo := by
  have e : 2 ^ (hi + 1) = 2 ^ lo * 2 ^ (hi + 1 - lo) := by rw [← Nat.pow_add, Nat.add_sub_cancel' h]
  rw [e, Nat.mod_mul_right_div_self]
  rfl

theorem bits_putBits_below (w : Word) {hi lo x i j : Nat} (h : hi < 64) (hl : lo ≤ hi) (hj : j ≤ i) (hi' : i < lo) :
    bits (putBits w hi lo x) i j = bits w i j := by
  have split : (putBits w hi lo x).toNat = w.toNat % 2 ^ lo + 2 ^ lo * (w.toNat / 2 ^ (hi + 1) * 2 ^ (hi + 1 - lo) + x % 2 ^ (hi + 1 - lo)) := by
    have top : w.toNat / 2 ^ (hi + 1) * 2 ^ (hi + 1) = w.toNat / 2 ^ (hi + 1) * (2 ^ (hi + 1 - lo) * 2 ^ lo) := by
      rw [← Nat.pow_add]
      congr 2
      omega
    rw [putBits_toNat w hi lo x h hl, top]
    ring
  have divides : 2 ^ (i + 1) ∣ 2 ^ lo := Nat.pow_dvd_pow 2 hi'
  rw [bits_eq_mod_div _ (by omega), bits_eq_mod_div _ (by omega), split, Nat.add_mod,
    Nat.mod_eq_zero_of_dvd (Nat.dvd_mul_right_of_dvd divides _), Nat.add_zero, Nat.mod_mod, Nat.mod_mod_of_dvd _ divides]

theorem bits_putBits_above (w : Word) {hi lo x i j : Nat} (h : hi < 64) (hl : lo ≤ hi) (hj : hi < j) :
    bits (putBits w hi lo x) i j = bits w i j := by
  have small : x % 2 ^ (hi + 1 - lo) * 2 ^ lo + w.toNat % 2 ^ lo < 2 ^ (hi + 1) := by
    have e : 2 ^ (hi + 1) = 2 ^ (hi + 1 - lo) * 2 ^ lo := by rw [← Nat.pow_add]; congr 1; omega
    have hx : x % 2 ^ (hi + 1 - lo) + 1 ≤ 2 ^ (hi + 1 - lo) := Nat.mod_lt _ (Nat.two_pow_pos _)
    have hr : w.toNat % 2 ^ lo < 2 ^ lo := Nat.mod_lt _ (Nat.two_pow_pos _)
    have := Nat.mul_le_mul_right (2 ^ lo) hx
    rw [Nat.add_mul, Nat.one_mul, ← e] at this
    omega
  have cut (n : Nat) : n / 2 ^ j = n / 2 ^ (hi + 1) / 2 ^ (j - (hi + 1)) := by
    rw [Nat.div_div_eq_div_mul, ← Nat.pow_add, Nat.add_sub_cancel' hj]
  unfold bits
  rw [cut, cut w.toNat, putBits_toNat w hi lo x h hl, Nat.add_comm (w.toNat / _ * _), Nat.add_mul_div_right _ _ (Nat.two_pow_pos _),
    Nat.div_eq_of_lt small, Nat.zero_add]

theorem bit_putBits_below (w : Word) {hi lo x i : Nat} (h : hi < 64) (hl : lo ≤ hi) (hi' : i < lo) :
    bit (putBits w hi lo x) i = bit w i := by
  rw [bit_eq_bits, bit_eq_bits, bits_putBits_below w h hl (Nat.le_refl i) hi']

theorem bit_putBits_above (w : Word) {hi lo x i : Nat} (h : hi < 64) (hl : lo ≤ hi) (hi' : hi < i) :
    bit (putBits w hi lo x) i = bit w i := by
  rw [bit_eq_bits, bit_eq_bits, bits_putBits_above w h hl hi']

/-! ### Gate lists (R450, R452) -/

/-- The state in which a COMMIT is judged: the control written, the list in operation at its entry, no frame left that
no open time holds. -/
def State.gateWritten (s : State) (k : Nat) (v : Word) : State :=
  ((s.putAt { reg := .swGateCtl, i := k } (storedWrite s { reg := .swGateCtl, i := k } v)).gateEntry k).sweep

theorem State.switches_gateWritten (s : State) (k : Nat) (v : Word) :
    (s.putAt { reg := .swGateCtl, i := k } (storedWrite s { reg := .swGateCtl, i := k } v)).Switches (s.gateWritten k v) :=
  (State.switches_gateEntry _ _).trans (State.switches_sweep _)

/-- A committed list that is no list. -/
def State.badGateList (w : State) (k n : Nat) : Prop :=
  n = 0 ∨ 256 < n ∨ ((w.gateList k (!(w.gates k).oper) n).any fun x => x.2 = 0) = true ∨ 1000000000 ≤ bits (w.hub .swGateBns k) 29 0

theorem State.gateCtlWrite_commit {s : State} {k n : Nat} {v : Word} (h0 : bit v 0 = true) (h1 : bit v 1 = true)
    (hn : bits v 40 32 = n) :
    let w := s.gateWritten k v
    let g := w.gates k
    let es := w.gateList k (!g.oper) n
    (g.pending = true → s.gateCtlWrite k v = w.setGates k fun g => { g with lastStatus := stUnsupported }) ∧
    (g.pending = false → w.badGateList k n → s.gateCtlWrite k v = w.setGates k fun g => { g with lastStatus := stMalformed }) ∧
    (g.pending = false → ¬ w.badGateList k n → s.gateCtlWrite k v = w.setGates k fun x => { x with
      lastStatus := stOk, pending := true
      nextStart := firstStart (bits (w.hub .swGateBs k) 47 0 * 1000000000 + bits (w.hub .swGateBns k) 29 0) (cycleOf es) (w.now + 1000)
      len0 := if g.oper then n else g.len0
      len1 := if g.oper then g.len1 else n }) := by
  have enabled : ¬ (!bit v 0) = true := by rw [h0]; decide
  have commits : ¬ (!bit v 1) = true := by rw [h1]; decide
  have judged : s.gateCtlWrite k v = _ := (if_neg enabled).trans (if_neg commits)
  subst hn
  intro w g es
  exact ⟨fun h => judged.trans (if_pos h), fun h hb => judged.trans ((if_neg (ne_true_of_eq_false h)).trans (if_pos hb)),
    fun h hb => judged.trans ((if_neg (ne_true_of_eq_false h)).trans (if_neg hb))⟩

/-- Settles O40. -/
theorem gatesComplete : Obligations.GatesComplete := by
  unfold Obligations.GatesComplete
  intro s e v hs k g a
  refine ⟨fun hr => ?_, fun hr => ?_, fun he hp hn => ?_, fun hg => ?_⟩
  · intro w
    refine hs.regRow_next rfl hr (if_pos ?_) rfl rfl
    rw [bit_putBits_zero v (by decide)]
    rfl
  · intro w
    have low : bit (putBits v 1 1 1) 0 = bit v 0 := bit_putBits_below v (by decide) (by decide) (by decide)
    refine ⟨fun h => ?_, fun h => ?_⟩
    · refine hs.regRow_next rfl hr (if_pos ?_) rfl rfl
      rw [low, h]
      rfl
    · intro w g n es bns bad
      have length : bits (putBits v 1 1 1) 40 32 = n := bits_putBits_above v (by decide) (by decide) (by decide)
      obtain ⟨pending, malformed, committed⟩ := State.gateCtlWrite_commit (s := s) (k := k) (low.trans h)
        (bit_putBits_one v (i := 1) (by decide)) length
      have quiet := s.switches_gateWritten k (putBits v 1 1 1)
      exact ⟨fun hp => hs.regRow_next rfl hr (pending hp) quiet.due quiet.pending,
        fun hp hb => hs.regRow_next rfl hr (malformed hp hb) quiet.due quiet.pending,
        fun hp hb => hs.regRow_next rfl hr (committed hp hb) quiet.due quiet.pending⟩
  · have starts : ((s.gateEn k && g.pending) && g.nextStart ≤ s.now) = true := by rw [he, hp, decide_eq_true hn]; rfl
    have quiet := (State.startList s k).switches_sweep
    exact hs.exec_next rfl (if_pos starts) quiet.due quiet.pending
  · exact hs.exec_next rfl (if_pos hg) rfl rfl

end Sys2Proof.Machine
end

section
/-! SUPPORT. Links, neighbours, LLDP and the fabric's operations: O41 and O42. -/

namespace Sys2Proof.Machine

section
variable {s : State} {p : Nat}

/-! ### Links and neighbours (R456, R457, R463) -/

/-- A link that goes down: its lanes go and its queues are flushed (d), then its pauses go (t), then its neighbour. -/
theorem State.portDown_of_link {d t : State} (h : s.linkUp p = true)
    (hd : (s.setOptical (p / 4) fun x => { x with
      link := x.link &&& ~~~(BitVec.ofNat 4 (2 ^ (p % 4))), lanesOk := x.lanesOk &&& ~~~(subLanes x.mode (p % 4)) }).flushPort p = d)
    (ht : { d with sw := { d.sw with rxPause := d.sw.rxPause.filter fun x => x.1 / 8 != p
                                     paused := d.sw.paused.filter fun x => x.1 / 8 != p } } = t) :
    s.portDown p = if (t.nbr p).valid then t.setNbr p {} else t := by
  subst hd ht
  exact if_neg (by rw [h]; decide)

theorem State.portUp_of_ready (h : s.canLink p = true) (hb : s.boot.phase ≠ .reset) :
    s.portUp p = s.setOptical (p / 4) fun x =>
      { x with link := x.link ||| BitVec.ofNat 4 (2 ^ (p % 4)), lanesOk := x.lanesOk ||| subLanes x.mode (p % 4) } :=
  if_pos (by rw [h, bne_iff_ne.2 hb]; rfl)

theorem State.lldpSend_of_due (h : s.serving = true) (hb : bit (s.hub .fabHbCfg) 32 = true)
    (ht : s.lldpInt * 1000000 ≤ s.now - s.fab.lldpLast) :
    let t : State := { s with fab := { s.fab with lldpLast := s.now } }
    s.lldpSend = (((List.range 32).filter s.linkUp).foldl (fun t q => t.admitFrame 32 q (t.lldpFrame q) false) t).sweep :=
  if_neg (by rw [h, hb, decide_eq_false (Nat.not_lt.2 ht)]; decide)

/-- Frames that the device sends on some ports touch the switch only. -/
theorem State.switches_lldp (t : State) (ps : List Nat) :
    t.Switches (ps.foldl (fun t q => t.admitFrame 32 q (t.lldpFrame q) false) t).sweep :=
  (State.switches_foldl (fun t q => t.switches_admitFrame 32 q (t.lldpFrame q) false) ps t).trans (State.switches_sweep _)

/-- The record of a neighbour that told only its address. -/
def lldpPlain (l : LldpFrame) (now : Nat) : Neighbour :=
  { valid := true, mac := l.srcMac, expires := now + l.ttl.toNat * 1000000000 }

/-- The record of a neighbour that told its identity. -/
def State.lldpKnown (s : State) (l : LldpFrame) (b : List Byte) : Neighbour :=
  { lldpPlain l s.now with
    crarid := true
    idValid := decide (field b 2 1 % 2 = 1)
    state := BitVec.ofNat 2 (field b 2 1 / 2)
    port := BitVec.ofNat 5 (field b 3 1)
    device := BitVec.ofNat 16 (field b 0 2)
    epoch := BitVec.ofNat 32 (field b 4 4)
    unit := BitVec.ofNat 64 (field b 8 8)
    conflict := decide (field b 2 1 % 2 = 1) && decide (field b 0 2 = s.ownId) && BitVec.ofNat 64 (field b 8 8) != s.unitId }

variable {l : LldpFrame}

theorem State.lldpReceive_of_bye (h : s.serving = true) (hl : s.linkUp p = true) (ht : l.ttl = 0) :
    s.lldpReceive p l = (s.count .swStat 0).setNbr p {} :=
  (if_neg (by rw [h, hl]; decide)).trans (if_pos ht)

theorem State.lldpReceive_of_plain (h : s.serving = true) (hl : s.linkUp p = true) (ht : l.ttl ≠ 0)
    (hk : l.info = none ∨ l.oui.toNat ≠ bits (s.hub .fabHbCfg) 63 40 ∨ l.subtype ≠ 1) :
    s.lldpReceive p l = (s.count .swStat 0).setNbr p (lldpPlain l s.now) := by
  obtain ⟨st, counted⟩ := State.count_shape (s := s) .swStat 0 1 0
  have seen : s.lldpReceive p l = _ := (if_neg (show ¬ (!s.serving || !s.linkUp p) = true by rw [h, hl]; decide)).trans (if_neg ht)
  rw [counted] at seen ⊢
  refine seen.trans ?_
  dsimp only
  split
  · next b known hi hk' =>
    obtain ⟨oui, subtype⟩ := Bool.and_eq_true_iff.1 hk'
    have tells : l.oui.toNat = bits (s.hub .fabHbCfg) 63 40 ∧ l.subtype = 1 := ⟨of_decide_eq_true oui, of_decide_eq_true subtype⟩
    rcases hk with hk | hk | hk
    · exact absurd (hi.symm.trans hk) (by simp)
    · exact absurd tells.1 hk
    · exact absurd tells.2 hk
  · rfl

theorem State.lldpReceive_of_known {b : List Byte} (h : s.serving = true) (hl : s.linkUp p = true) (ht : l.ttl ≠ 0)
    (hi : l.info = some b) (ho : l.oui.toNat = bits (s.hub .fabHbCfg) 63 40) (hk : l.subtype = 1) :
    s.lldpReceive p l = (s.count .swStat 0).setNbr p (s.lldpKnown l b) := by
  obtain ⟨st, counted⟩ := State.count_shape (s := s) .swStat 0 1 0
  have seen : s.lldpReceive p l = _ := (if_neg (show ¬ (!s.serving || !s.linkUp p) = true by rw [h, hl]; decide)).trans (if_neg ht)
  rw [counted] at seen ⊢
  refine seen.trans ?_
  rw [hi]
  dsimp only
  have tells : (l.oui.toNat = bits (State.hub { s with stat := st } .fabHbCfg) 63 40 && l.subtype = 1) = true := by
    simp only [hk, decide_true, Bool.and_true, decide_eq_true_eq]
    exact ho
  rw [tells]
  rfl

end

/-- Settles O41. -/
theorem linksAndNeighbours : Obligations.LinksAndNeighbours := by
  unfold Obligations.LinksAndNeighbours
  intro s p hs k
  refine ⟨fun h => ?_, fun h hb => ?_, fun h hb ht => ?_, fun q => ⟨?_, rfl, rfl, rfl⟩, fun l h hl => ?_, fun hv he => ?_⟩
  · intro d t
    have down := State.portDown_of_link (d := d) (t := t) h rfl rfl
    exact ⟨fun hv => hs.exec_after rfl (down.trans (if_neg (ne_true_of_eq_false hv))), fun hv => hs.exec_after rfl (down.trans (if_pos hv))⟩
  · exact hs.exec_next rfl (State.portUp_of_ready h hb) rfl rfl
  · intro t
    exact hs.exec_next rfl (State.lldpSend_of_due h hb ht) (t.switches_lldp _).due (t.switches_lldp _).pending
  · simp [State.lldpTlvs, State.lldpInfo]
  · intro s'
    exact ⟨fun ht => hs.exec_after rfl (State.lldpReceive_of_bye h hl ht),
      fun ht hk => hs.exec_after rfl (State.lldpReceive_of_plain h hl ht hk),
      fun b ht hi ho hk => hs.exec_after rfl (State.lldpReceive_of_known h hl ht hi ho hk)⟩
  · intro t
    have due : ¬ (!(s.nbr k).valid || s.now < (s.nbr k).expires) = true := by
      rw [hv, decide_eq_false (Nat.not_lt.2 he)]
      decide
    exact hs.exec_after rfl (if_neg due)

/-! ### The operations of FAB_CTL (R458, R472) -/

section
variable {s t : State} {v : Word} {ep : Word32}

/-- The state in which an op of FAB_CTL acts: its fields as written, the lease anew when its length changes. -/
def State.ctlWritten (s : State) (v : Word) : State :=
  let t := s.putAt { reg := .fabCtl } (storedWrite s { reg := .fabCtl } v)
  if t.leaseTo = s.leaseTo then t else { t with fab := { t.fab with leaseFrom := t.now } }

/-- What a written FAB_CTL leaves as it was. -/
theorem State.ctlWritten_keeps (s : State) (v : Word) :
    (s.ctlWritten v).due = s.due ∧ (s.ctlWritten v).pending = s.pending ∧ (s.ctlWritten v).fab.state = s.fab.state := by
  unfold State.ctlWritten
  dsimp only
  split <;> exact ⟨rfl, rfl, rfl⟩

theorem State.fabCtlWrite_join (v : Word) (h : bits v 36 35 = 1) : s.fabCtlWrite v = (s.ctlWritten v).fabJoin := by
  rw [State.fabCtlWrite, h]
  rfl

theorem State.fabCtlWrite_isolate (v : Word) (h : bits v 36 35 = 2) : s.fabCtlWrite v = (s.ctlWritten v).fabIsolate := by
  rw [State.fabCtlWrite, h]
  rfl

theorem State.fabCtlWrite_release (v : Word) (h : bits v 36 35 = 3) : s.fabCtlWrite v = (s.ctlWritten v).fabRelease := by
  rw [State.fabCtlWrite, h]
  rfl

theorem bits_fabOp (v : Word) {op : Nat} (h : op < 4) : bits (putBits v 36 35 op) 36 35 = op := by
  rw [bits_putBits v 36 35 op (by decide) (by decide)]
  omega

/-! ### Staged changes and their commit (R464, R467) -/

/-- The status of a commit at epoch `ep`. -/
def State.commitStatus (s : State) (ep : Word32) : Byte :=
  if s.fab.state = .isolated then stUnsupported
  else if s.fab.state = .member && !(1 ≤ (ep - s.fab.curEpoch).toNat && (ep - s.fab.curEpoch).toNat < 2 ^ 30) then stMalformed
  else if s.fab.staged.any fun r => r.2.1 < r.1 then stMalformed
  else stOk

theorem State.fabCommitAt_of_refused {st : Byte} (h : s.commitStatus ep = st) (hne : st ≠ stOk) :
    s.fabCommitAt ep = { s with fab := { s.fab with epochStatus := st } } := by
  subst h
  exact if_pos (bne_iff_ne.2 hne)

theorem State.fabCommitAt_of_ok (h : s.commitStatus ep = stOk) :
    let t := s.fab.staged.foldl (fun s r => s.applyRange ep r) { s with fab := { s.fab with epochStatus := stOk } }
    let t := (State.count { t with fab := { t.fab with curEpoch := ep, staged := [] } } .fabStat 1).clampEpochs
    let left := ((s.fab.members.filter fun x => x.2.kind = .member).map (·.1)).filter fun x => (t.member x).kind != .member
    let t := left.foldl (fun s x => if x = s.ownId then s else s.memberLeaves x) t
    s.fabCommitAt ep = if (t.member t.ownId).kind != .member then t.isolateNow 3 else t := by
  have goes : ¬ (s.commitStatus ep != stOk) = true := by rw [h]; decide
  rw [← h]
  exact if_neg goes

theorem State.commitStatus_of_isolated (h : s.fab.state = .isolated) : s.commitStatus ep = stUnsupported := if_pos h

theorem State.commitStatus_of_stale (h : s.fab.state = .member)
    (hd : ¬ (1 ≤ (ep - s.fab.curEpoch).toNat ∧ (ep - s.fab.curEpoch).toNat < 2 ^ 30)) : s.commitStatus ep = stMalformed := by
  refine (if_neg (by rw [h]; decide)).trans (if_pos ?_)
  generalize (ep - s.fab.curEpoch).toNat = d at hd ⊢
  simp [h]
  omega

theorem State.commitStatus_of_reversed {r : Nat × Nat × Nat} (hr : r ∈ s.fab.staged) (h : s.fab.state ≠ .isolated)
    (hlt : r.2.1 < r.1) : s.commitStatus ep = stMalformed := by
  refine (if_neg h).trans ?_
  split
  · rfl
  · exact if_pos (List.any_eq_true.2 ⟨r, hr, decide_eq_true hlt⟩)

theorem State.commitStatus_of_sound (h : s.fab.state ≠ .isolated)
    (hd : s.fab.state = .member → 1 ≤ (ep - s.fab.curEpoch).toNat ∧ (ep - s.fab.curEpoch).toNat < 2 ^ 30)
    (hr : ∀ r ∈ s.fab.staged, r.1 ≤ r.2.1) : s.commitStatus ep = stOk := by
  refine (if_neg h).trans ((if_neg ?_).trans (if_neg ?_))
  · intro bad
    obtain ⟨member, stale⟩ := Bool.and_eq_true_iff.1 bad
    obtain ⟨h1, h2⟩ := hd (of_decide_eq_true member)
    rw [decide_eq_true h1, decide_eq_true h2] at stale
    exact absurd stale (by decide)
  · simpa using hr

theorem bits_fabEpoch (v : Word) {i : Nat} (h : i = 32 ∨ i = 33) : bits (putBits v i i 1) 31 0 = bits v 31 0 := by
  rcases h with rfl | rfl <;> exact bits_putBits_below v (by decide) (by decide) (by decide) (by decide)

theorem State.fabCommitWrite_commit (v : Word) (he : BitVec.ofNat 32 (bits v 31 0) = ep) :
    s.fabCommitWrite (putBits v 32 32 1) = if bit v 33 then
      { s.fabCommitAt ep with fab := { (s.fabCommitAt ep).fab with staged := [] } } else s.fabCommitAt ep := by
  subst he
  unfold State.fabCommitWrite
  rw [bit_putBits_one v (by decide), bit_putBits_above v (by decide) (by decide) (by decide), bits_fabEpoch v (.inl rfl)]
  rfl

theorem State.fabCommitWrite_discard (v : Word) (he : BitVec.ofNat 32 (bits v 31 0) = ep) :
    s.fabCommitWrite (putBits v 33 33 1) =
      let t := if bit v 32 then s.fabCommitAt ep else s
      { t with fab := { t.fab with staged := [] } } := by
  subst he
  unfold State.fabCommitWrite
  rw [bit_putBits_one v (by decide), bit_putBits_below v (by decide) (by decide) (by decide), bits_fabEpoch v (.inr rfl)]
  rfl

end

/-- Settles O42. -/
theorem fabricOpsComplete : Obligations.FabricOpsComplete := by
  unfold Obligations.FabricOpsComplete
  intro s v hs ctl w
  have kept (op : Nat) : (w op).due = s.due ∧ (w op).pending = s.pending ∧ (w op).fab.state = s.fab.state := s.ctlWritten_keeps _
  refine ⟨fun hr => ⟨?_, ?_, ?_⟩, fun hr h0 => ?_, fun hr h0 => ?_, fun hr => ?_, fun hr => ?_⟩
  · intro t
    obtain ⟨hd, hp, -⟩ := kept 1
    have joins : s.regWrite ctl (putBits v 36 35 1) = t.fabJoin := s.fabCtlWrite_join _ (bits_fabOp v (by decide))
    refine ⟨fun h1 h2 h3 => hs.regRow_next rfl hr (joins.trans (if_pos ?_)) hd hp,
      fun hn => hs.regRow_next rfl hr (joins.trans (if_neg ?_)) hd hp⟩
    · simp [h1, h2, h3]
    · simpa [and_assoc] using hn
  · intro t
    obtain ⟨hd, hp, hst⟩ := kept 2
    have acts : s.regWrite ctl (putBits v 36 35 2) = t.fabIsolate := s.fabCtlWrite_isolate _ (bits_fabOp v (by decide))
    exact ⟨fun h => hs.regRow_after rfl hr (acts.trans (if_pos (hst.trans h))),
      fun h => hs.regRow_next rfl hr (acts.trans (if_neg fun h' => h (hst.symm.trans h'))) hd hp⟩
  · intro t
    obtain ⟨hd, hp, hst⟩ := kept 3
    have acts : s.regWrite ctl (putBits v 36 35 3) = t.fabRelease := s.fabCtlWrite_release _ (bits_fabOp v (by decide))
    exact ⟨fun h => hs.regRow_next rfl hr (acts.trans (if_pos (hst.trans h))) hd hp,
      fun h => hs.regRow_next rfl hr (acts.trans (if_neg fun h' => h (hst.symm.trans h'))) hd hp⟩
  · exact hs.regRow_next rfl hr (if_pos h0) rfl rfl
  · exact ⟨fun hl => hs.regRow_next rfl hr ((if_neg h0).trans (if_pos hl)) rfl rfl,
      fun hl => hs.regRow_next rfl hr ((if_neg h0).trans (if_neg (Nat.not_le.2 hl))) rfl rfl⟩
  · intro ep d
    have commits (h33 : bit v 33 = false) : s.regWrite { reg := .fabCommit } (putBits v 32 32 1) = s.fabCommitAt ep :=
      (s.fabCommitWrite_commit v rfl).trans (if_neg (ne_true_of_eq_false h33))
    have refused {st : Byte} (h : s.commitStatus ep = st) (hne : st ≠ stOk) (h33 : bit v 33 = false) :
        exec (.fabCommit v) s = .next { s with fab := { s.fab with epochStatus := st } } :=
      hs.regRow_next rfl hr ((commits h33).trans (State.fabCommitAt_of_refused h hne)) rfl rfl
    refine ⟨fun h => refused (State.commitStatus_of_isolated h) (by decide),
      fun h hd => refused (State.commitStatus_of_stale h hd) (by decide),
      fun r hm h hlt => refused (State.commitStatus_of_reversed hm h hlt) (by decide), fun h hd h33 hm => ?_, fun h33 => ?_,
      fun h32 => ?_, fun h32 => ?_⟩
    · exact hs.regRow_after rfl hr ((commits h33).trans (State.fabCommitAt_of_ok (State.commitStatus_of_sound h hd hm)))
    · exact hs.regRow_after rfl hr ((s.fabCommitWrite_commit v rfl).trans (if_pos h33))
    · exact hs.regRow_after rfl hr ((s.fabCommitWrite_discard v rfl).trans (by rw [h32]; rfl))
    · exact hs.regRow_next rfl hr ((s.fabCommitWrite_discard v rfl).trans (by rw [h32]; rfl)) rfl rfl
  · exact hs.regRow_next rfl hr (if_pos (bit_putBits_one v (by decide))) rfl rfl

end Sys2Proof.Machine
end

section
/-! SUPPORT. The fabric's timers and the time source: O43. -/

namespace Sys2Proof.Machine

section
variable {s : State} {st : Table Word}

/-! ### The lease and heartbeats (R472, R473) -/

theorem State.leaseExpiry_of_due (h : s.fab.state = .member) (h0 : s.leaseTo ≠ 0) (ht : s.leaseTo ≤ s.now - s.fab.leaseFrom) :
    s.leaseExpiry = s.isolateNow 4 :=
  if_pos (by rw [h, bne_iff_ne.2 h0, decide_eq_true ht]; rfl)

theorem State.heartbeat_of_due {t : State} (h0 : bits (s.hub .fabHbCfg) 15 0 ≠ 0) (hi : s.idValid = true)
    (ht : bits (s.hub .fabHbCfg) 15 0 * 100000 ≤ s.now - s.fab.hbLast) (hr : s.fabReport 1 0 0 = some t) :
    s.heartbeat = State.count { t with fab := { t.fab with hbLast := t.now } } .fabStat 2 := by
  unfold State.heartbeat
  rw [hr]
  exact if_neg (by rw [decide_eq_false h0, hi, decide_eq_false (Nat.not_lt.2 ht)]; decide)

/-! ### The time source (R478, R479) -/

/-- A PTP message that was seen has at most been counted. -/
theorem State.ptpSeen_shape (s : State) (p : Nat) : ∃ st, s.ptpSeen p = { s with stat := st } := by
  unfold State.ptpSeen
  split
  · exact s.count_shape _ _ _ _
  · exact ⟨s.stat, rfl⟩

/-- A Sync that is not the master's, or not for this device's time source (R478). -/
def State.syncRefused (s : State) (p : PtpSync) : Bool :=
  !s.serving || !s.ptpEn || p.port != s.ptpPort || p.domain.toNat != bits (s.hub .fabPtpCfg) 63 56
    || p.mapping.toNat != s.ptpMapping || !s.linkUp p.port
    || !(match s.fab.servo.source with
      | some x => x = p.source || 3 * sec ≤ s.now - s.fab.servo.lastSync
      | none => true)

variable {p : PtpSync}

theorem State.syncTaken_iff : s.syncRefused p = false ↔ (s.serving = true ∧ s.ptpEn = true ∧ p.port = s.ptpPort ∧
    p.domain.toNat = bits (s.hub .fabPtpCfg) 63 56 ∧ p.mapping.toNat = s.ptpMapping ∧ s.linkUp p.port = true ∧
    (∀ x, s.fab.servo.source = some x → x = p.source ∨ 3000000000 ≤ s.now - s.fab.servo.lastSync)) := by
  unfold State.syncRefused
  cases s.fab.servo.source with
  | none => simp [and_assoc]
  | some x =>
    simp only [sec, Bool.or_eq_false_iff, Bool.not_eq_false', bne_eq_false_iff_eq, Bool.or_eq_true, decide_eq_true_eq, and_assoc,
      Option.some.injEq, forall_eq']

/-- What a Sync that was taken leaves in the servo, and the Delay_Req that follows it at most sixteen times a second. -/
def State.syncNoted (u : State) (p : PtpSync) (o : Int) (stepBy : Nat) (times : List Nat) : State :=
  let recent := times.filter fun t => u.now - t < 1000000000
  let n : State := u.setServo fun v => { v with tracking := true, offset := o, source := some p.source, lastSync := u.now }
  if recent.length < 16 then
    let n : State := n.setServo fun v => { v with
      reqSeq := some p.seqId, transit := (p.arrival : Int) + stepBy - p.origin, reqTimes := recent ++ [u.now] }
    State.count { n with out := n.out ++ [.delayReq p.port p.seqId] } .swStat 1
  else n.setServo fun v => { v with reqTimes := recent }

theorem State.ptpSync_of_refused (h : s.syncRefused p = true) : s.ptpSync p = s.ptpSeen p.port := by
  obtain ⟨st, seen⟩ := s.ptpSeen_shape p.port
  unfold State.ptpSync
  rw [seen]
  exact if_pos h

/-- The same in one write of the servo, as the Sync does it. -/
def State.syncTail (u : State) (p : PtpSync) (o : Int) (stepBy : Nat) (times : List Nat) : State :=
  let recent := times.filter fun t => u.now - t < sec
  let ask : Bool := recent.length < 16
  let n := u.setServo fun v =>
    { v with
        tracking := true
        offset := o
        source := some p.source
        lastSync := u.now
        reqSeq := if ask then some p.seqId else v.reqSeq
        transit := if ask then (p.arrival : Int) + stepBy - p.origin else v.transit
        reqTimes := if ask then recent ++ [u.now] else recent }
  if ask then State.count { n with out := n.out ++ [.delayReq p.port p.seqId] } .swStat 1 else n

theorem State.syncTail_eq (u : State) (p : PtpSync) (o : Int) (stepBy : Nat) (times : List Nat) :
    u.syncTail p o stepBy times = u.syncNoted p o stepBy times := by
  unfold State.syncTail State.syncNoted
  by_cases h : (times.filter fun t => u.now - t < 1000000000).length < 16
  · have ask : decide ((times.filter fun t => u.now - t < sec).length < 16) = true := decide_eq_true h
    dsimp only
    rw [ask, if_pos h]
    rfl
  · have ask : decide ((times.filter fun t => u.now - t < sec).length < 16) = false := decide_eq_false h
    dsimp only
    rw [ask, if_neg h]
    rfl

/-- A Sync that is taken: the counter steps forward, slews back or follows the rate, then the servo notes it. -/
theorem State.ptpSync_of_taken {c : State} {o : Int} {thr : Nat} (h : s.syncRefused p = false) (hc : s.ptpSeen p.port = c)
    (ho : (p.arrival : Int) - p.origin - s.fab.servo.delay = o) (ht : bits (s.hub .fabPtpCfg) 31 0 = thr) :
    let stepBy := if (thr : Int) ≤ -o then (-o).toNat else 0
    s.ptpSync p = (if (thr : Int) ≤ -o then (c.setServo fun v => { v with slewLeft := 0 }).timeStep stepBy
      else if (thr : Int) ≤ o then c.setServo fun v => { v with slewLeft := 2 * (o - thr).toNat + 1 }
      else c.draw.1.setServo fun v => { v with slewLeft := 0, ppm := max (-100) (min 100 (Config.ratePpm c.draw.2)) }).syncNoted p o
        stepBy s.fab.servo.reqTimes := by
  obtain ⟨st, seen⟩ := s.ptpSeen_shape p.port
  subst hc ho ht
  intro stepBy
  rw [← State.syncTail_eq]
  unfold State.ptpSync
  rw [seen]
  exact if_neg (ne_true_of_eq_false h)

theorem State.ptpSync_steps {c : State} {o : Int} {thr : Nat} (h : s.syncRefused p = false) (hc : s.ptpSeen p.port = c)
    (ho : (p.arrival : Int) - p.origin - s.fab.servo.delay = o) (ht : bits (s.hub .fabPtpCfg) 31 0 = thr) (hs : (thr : Int) ≤ -o) :
    s.ptpSync p = ((c.setServo fun v => { v with slewLeft := 0 }).timeStep (-o).toNat).syncNoted p o (-o).toNat s.fab.servo.reqTimes := by
  rw [State.ptpSync_of_taken h hc ho ht, if_pos hs, if_pos hs]

theorem State.ptpSync_slews {c : State} {o : Int} {thr : Nat} (h : s.syncRefused p = false) (hc : s.ptpSeen p.port = c)
    (ho : (p.arrival : Int) - p.origin - s.fab.servo.delay = o) (ht : bits (s.hub .fabPtpCfg) 31 0 = thr) (hs : -o < (thr : Int))
    (hl : (thr : Int) ≤ o) :
    s.ptpSync p = (c.setServo fun v => { v with slewLeft := 2 * (o - thr).toNat + 1 }).syncNoted p o 0 s.fab.servo.reqTimes := by
  rw [State.ptpSync_of_taken h hc ho ht, if_neg (Int.not_le.2 hs), if_neg (Int.not_le.2 hs), if_pos hl]

theorem State.ptpSync_follows {c : State} {o : Int} {thr : Nat} (h : s.syncRefused p = false) (hc : s.ptpSeen p.port = c)
    (ho : (p.arrival : Int) - p.origin - s.fab.servo.delay = o) (ht : bits (s.hub .fabPtpCfg) 31 0 = thr) (hs : -o < (thr : Int))
    (hl : o < (thr : Int)) :
    s.ptpSync p = (c.draw.1.setServo fun v =>
      { v with slewLeft := 0, ppm := max (-100) (min 100 (Config.ratePpm c.draw.2)) }).syncNoted p o 0 s.fab.servo.reqTimes := by
  rw [State.ptpSync_of_taken h hc ho ht, if_neg (Int.not_le.2 hs), if_neg (Int.not_le.2 hs), if_neg (Int.not_le.2 hl)]

/-- A Delay_Resp that answers this device's Delay_Req. -/
def State.respRefused (s : State) (port : Nat) (source : BitVec 80) (seqId : BitVec 16) : Bool :=
  !s.serving || !s.ptpEn || port != s.ptpPort || s.fab.servo.source != some source || s.fab.servo.reqSeq != some seqId

variable {port sent received : Nat} {source : BitVec 80} {seqId : BitVec 16}

theorem State.respTaken_iff : s.respRefused port source seqId = false ↔ (s.serving = true ∧ s.ptpEn = true ∧ port = s.ptpPort ∧
    s.fab.servo.source = some source ∧ s.fab.servo.reqSeq = some seqId) := by
  simp [State.respRefused, and_assoc]

theorem State.ptpDelayResp_eq : s.ptpDelayResp port source seqId sent received =
    if s.respRefused port source seqId then s.ptpSeen port
    else (s.ptpSeen port).setServo fun v => { v with
      delay := (s.fab.servo.transit + ((received : Int) - sent)) / 2, reqSeq := none } := by
  obtain ⟨st, seen⟩ := s.ptpSeen_shape port
  unfold State.ptpDelayResp
  rw [seen]
  rfl

theorem State.ptpSilence_of_due (h : s.fab.servo.tracking = true) (ht : 3000000000 ≤ s.now - s.fab.servo.lastSync) :
    s.ptpSilence = s.setServo fun v => { v with tracking := false, source := none, reqSeq := none } :=
  if_pos (by rw [h, decide_eq_true (show 3 * sec ≤ s.now - s.fab.servo.lastSync from ht)]; rfl)

end

/-- Settles O43. -/
theorem fabricTimersComplete : Obligations.FabricTimersComplete := by
  unfold Obligations.FabricTimersComplete
  intro s hs
  have seen_quiet (k : Nat) : (s.ptpSeen k).due = s.due ∧ (s.ptpSeen k).pending = s.pending := by
    obtain ⟨st, seen⟩ := s.ptpSeen_shape k
    rw [seen]
    exact ⟨rfl, rfl⟩
  refine ⟨fun h h0 ht => hs.exec_after rfl (State.leaseExpiry_of_due h h0 ht),
    fun t h0 hi ht hr => hs.exec_after rfl (State.heartbeat_of_due h0 hi ht hr), fun d => hs.exec_next rfl rfl rfl rfl,
    fun p => ?_, fun t n => rfl, fun port source seqId sent received => ?_,
    fun h ht => hs.exec_next rfl (State.ptpSilence_of_due h ht) rfl rfl⟩
  · intro c v taken o thr noted
    obtain ⟨hd, hp⟩ := seen_quiet p.port
    have goes (ht : taken) : s.syncRefused p = false := State.syncTaken_iff.2 ht
    refine ⟨fun ht => ?_, fun ht h => hs.exec_after rfl (State.ptpSync_steps (goes ht) rfl rfl rfl h),
      fun ht h hl => hs.exec_after rfl (State.ptpSync_slews (goes ht) rfl rfl rfl h hl),
      fun ht h hl => hs.exec_after rfl (State.ptpSync_follows (goes ht) rfl rfl rfl h hl)⟩
    exact hs.exec_next rfl (State.ptpSync_of_refused (Bool.of_not_eq_false fun h => ht (State.syncTaken_iff.1 h))) hd hp
  · intro c mine
    obtain ⟨hd, hp⟩ := seen_quiet port
    refine ⟨fun hm => hs.exec_next rfl (State.ptpDelayResp_eq.trans (if_neg (ne_true_of_eq_false (State.respTaken_iff.2 hm)))) hd hp,
      fun hm => hs.exec_next rfl (State.ptpDelayResp_eq.trans (if_pos ?_)) hd hp⟩
    exact Bool.of_not_eq_false fun h => hm (State.respTaken_iff.1 h)

end Sys2Proof.Machine
end

section
/-! SUPPORT. Scrubbing, the error log, injection, lost units and watchdogs: O44 and O45. -/

namespace Sys2Proof.Machine

section
variable {s : State}

/-! ### Scrubbing and injection (R485, R487) -/

theorem State.scrubRead_of_turn {k n found : Nat} (hr : s.err.stopped = false) (hb : s.boot.phase = .running) (h0 : s.scrubH ≠ 0)
    (hk : s.stackDead k = false) :
    s.scrubRead k n found = (s.scrubMeet (k * 2 ^ 30 + n % 2 ^ 30) found).scrubTurn k :=
  if_neg (by rw [hb, hr, hk, decide_eq_false h0]; decide)

theorem State.inject_of_off {v : Word} (h : bit (s.hub .hubErrCfg) 40 = false) : s.inject v = s := if_pos (by rw [h]; rfl)

theorem State.inject_of_none {v : Word} (h : s.findExt (bits v 46 6 * 64) = none) : s.inject v = s := by
  unfold State.inject
  dsimp only
  rw [h]
  exact ite_self s

theorem State.inject_of_tier {v : Word} {n : Nat} (h : s.findExt (bits v 46 6 * 64) = some n) (ht : s.extTier n ≠ 0) :
    s.inject v = s := by
  have other : (s.extTier n != 0) = true := bne_iff_ne.2 ht
  unfold State.inject
  dsimp only
  rw [h]
  dsimp only
  rw [other]
  split
  · rfl
  · split
    · rfl
    · rfl

theorem State.inject_at {v : Word} {n a : Nat} (he : bit (s.hub .hubErrCfg) 40 = true) (h : s.findExt (bits v 46 6 * 64) = some n)
    (ht : s.extTier n = 0) (hl : s.locOf n (bits v 46 6 * 64 - s.extOff n) = .hbm a) :
    s.inject v = if bits v 63 62 = 1 then { s with mem := { s.mem with flawed := sinsert (a / 64) s.mem.flawed } }
      else if bits v 63 62 = 2 then { s with mem := { s.mem with broken := sinsert (a / 64) s.mem.broken } } else s := by
  have tier : ¬ (s.extTier n != 0) = true := by rw [ht]; decide
  unfold State.inject
  dsimp only
  rw [h]
  dsimp only
  rw [hl]
  exact (if_neg (by rw [he]; decide)).trans (if_neg tier)

end

/-- Settles O44. -/
theorem scrubLogAndInjectionComplete : Obligations.ScrubLogAndInjectionComplete := by
  unfold Obligations.ScrubLogAndInjectionComplete
  refine fun s hs => ⟨fun k n found hb h0 hk => hs.exec_after rfl (State.scrubRead_of_turn hs.runs hb h0 hk),
    fun v hr => hs.regRow_next rfl hr rfl rfl rfl, fun v hr => ?_⟩
  intro off
  refine ⟨fun h => hs.regRow_next rfl hr (State.inject_of_off h) rfl rfl, fun n a he h ht hl => ?_,
    fun h => hs.regRow_next rfl hr (State.inject_of_none h) rfl rfl,
    fun n h ht => hs.regRow_next rfl hr (State.inject_of_tier h ht) rfl rfl⟩
  have injects := State.inject_at he h ht hl
  exact ⟨fun h1 => hs.regRow_next rfl hr (injects.trans (if_pos h1)) rfl rfl,
    fun h2 => hs.regRow_next rfl hr (injects.trans ((if_neg (by rw [h2]; decide)).trans (if_pos h2))) rfl rfl,
    fun h1 h2 => hs.regRow_next rfl hr (injects.trans ((if_neg h1).trans (if_neg h2))) rfl rfl⟩

/-! ### Watchdogs (R488, R496, R497) -/

section
variable {s t : State}

/-- A watchdog that expired at `last` as well, within the last second. -/
def expiredBefore (last : Option Nat) (now : Nat) : Bool := match last with
  | some t => now - t < sec
  | none => false

theorem expiredBefore_iff {last : Option Nat} {now : Nat} :
    expiredBefore last now = true ↔ ∃ t, last = some t ∧ now - t < 1000000000 := by
  cases last <;> simp [expiredBefore, sec]

theorem not_expiredBefore {last : Option Nat} {now : Nat} (h : ∀ t, last = some t → 1000000000 ≤ now - t) :
    ¬ expiredBefore last now = true := fun he => by
  obtain ⟨t, ht, hlt⟩ := expiredBefore_iff.1 he
  exact absurd (h t ht) (Nat.not_le.2 hlt)

theorem State.starterExpiry_eq {ok : Bool} (hr : s.err.stopped = false) (hb : s.boot.phase = .running) :
    s.starterExpiry ok = if expiredBefore s.err.starterLast s.now || !ok then s.deviceStop { type := 10, severity := 2, die := 0 }
      else State.starterRestart { s with err := { s.err with starterLast := some s.now } } :=
  if_neg (by rw [hb, hr]; decide)

theorem State.starterExpiry_stops {ok : Bool} (hr : s.err.stopped = false) (hb : s.boot.phase = .running)
    (h : ok = false ∨ ∃ t, s.err.starterLast = some t ∧ s.now - t < 1000000000) :
    s.starterExpiry ok = s.deviceStop { type := 10, severity := 2, die := 0 } := by
  refine (State.starterExpiry_eq hr hb).trans (if_pos ?_)
  rcases h with h | h
  · rw [h]
    exact Bool.or_true _
  · rw [expiredBefore_iff.2 h]
    rfl

theorem State.starterExpiry_restarts (hr : s.err.stopped = false) (hb : s.boot.phase = .running)
    (h : ∀ t, s.err.starterLast = some t → 1000000000 ≤ s.now - t) :
    s.starterExpiry true = State.starterRestart { s with err := { s.err with starterLast := some s.now } } := by
  refine (State.starterExpiry_eq hr hb).trans (if_neg ?_)
  rw [Bool.not_true, Bool.or_false]
  exact not_expiredBefore h

theorem State.flashExpiry_eq (h : s.flash.state = .ready ∨ s.flash.state = .starting)
    (ht : { s with flash := { s.flash with wdLast := some s.now } } = t) :
    s.flashExpiry = if expiredBefore s.flash.wdLast s.now then t.failFlash
      else t.flash.syncs.foldl (fun s x => s.owe (.eng x.1)) { t with flash := { t.flash with state := .starting } } := by
  subst ht
  refine (if_neg ?_).trans rfl
  rcases h with h | h <;> rw [h] <;> decide

/-- A microcode watchdog that expires on a unit that works: what is recorded, then what is done. -/
theorem State.microcodeExpiry_eq {q u : Nat} {recent : List (Nat × Nat)} (hb : s.boot.phase = .running) (hq : s.quadDead q = false)
    (h1 : 1 ≤ u) (h5 : u ≤ 5) (hu : (s.unit u q).state ≠ .disabled)
    (hr : (s.err.ucodeTimes.filter fun x => s.now - x.2 < 1000000000) = recent)
    (ht : { s with err := { s.err with ucodeTimes := recent ++ [(8 * q + u, s.now)] } } = t) :
    s.microcodeExpiry q u = if recent.any (·.1 = 8 * q + u) then t.setQuad q .failed
      else if (s.unitCmds u q).isEmpty then
        ((t.setUnit u q fun x => { x with reload := true }).setUnit u q fun x => { x with state := .killing }).engDisabled u q
      else (t.setUnit u q fun x => { x with reload := true }).startKill u q := by
  subst hr ht
  refine (if_neg ?_).trans rfl
  rw [hb, hq, decide_eq_false (Nat.not_lt.2 h1), decide_eq_false (Nat.not_lt.2 h5), decide_eq_false hu]
  decide

theorem State.dspExpiry_eq {p : Nat} (h : s.photHealth p ≠ .failed) (hl : s.pwr.dspLoaded.getLsbD p = true) :
    let recent := (s.err.dspTimes.filter fun x => s.now - x.2 < 3600 * 1000000000) ++ [(p, s.now)]
    let t := State.photLost { s with err := { s.err with dspTimes := recent } } p
    s.dspExpiry p = if 3 ≤ recent.countP (·.1 = p) then t.setPhot p .failed else t.setPhot p .degraded :=
  if_neg (by rw [decide_eq_false h, hl]; decide)

end

/-- Settles O45. -/
theorem failuresComplete : Obligations.FailuresComplete := by
  unfold Obligations.FailuresComplete
  refine fun s hs => ⟨fun k => ⟨hs.exec_next rfl rfl rfl rfl, fun hb => hs.exec_after rfl (if_neg ?_)⟩,
    fun q hb => hs.exec_after rfl (if_neg (by rw [hb]; decide)),
    fun ok hb => ⟨fun h => hs.exec_after rfl (State.starterExpiry_stops hs.runs hb h), fun ho h => ?_⟩,
    hs.exec_next rfl rfl rfl rfl, fun q unit hb hq h1 h5 hu => ?_, fun h => ?_,
    fun p h hl => hs.exec_after rfl (State.dspExpiry_eq h hl)⟩
  · rw [hb, hs.runs]
    decide
  · subst ho
    exact hs.exec_after rfl (State.starterExpiry_restarts hs.runs hb h)
  · intro recent t u
    have expires := State.microcodeExpiry_eq (t := t) hb hq h1 h5 hu rfl rfl
    refine ⟨fun h => hs.exec_after rfl (expires.trans (if_pos h)),
      fun h hc => hs.exec_after rfl (expires.trans ((if_neg (ne_true_of_eq_false h)).trans (if_neg ?_))),
      fun h hc => hs.exec_after rfl (expires.trans ((if_neg (ne_true_of_eq_false h)).trans (if_pos (List.isEmpty_iff.2 hc))))⟩
    exact fun he => hc (List.isEmpty_iff.1 he)
  · intro t
    have expires := State.flashExpiry_eq (t := t) h rfl
    exact ⟨fun hw => hs.exec_after rfl (expires.trans (if_pos (expiredBefore_iff.2 hw))),
      fun hw => hs.exec_after rfl (expires.trans (if_neg (not_expiredBefore hw)))⟩

end Sys2Proof.Machine
end

section
/-! SUPPORT. Attestation, updates and the recovery path: O46 and O47. -/

namespace Sys2Proof.Machine

section
variable {s : State}

/-! ### Attestation and updates (R520, R522, R523) -/

theorem State.attestSigned_of_first {id : Nat} {rest : List Nat} {c : Cmd} {o : Origin} {what : Nat} {nonce : List Byte}
    (ha : s.attests = id :: rest) (hc : s.findCmd id = some c) (hsrc : c.src = .msg o) (hb : c.body = .attest what nonce) :
    s.attestSigned = ((s.dropCmd id).sendCpl o stOk (s.report nonce
      ++ edSign idSecret (asciiBytes "MZ1600-ATT") (digest64 (s.report nonce)))).count .secStat 0 := by
  unfold State.attestSigned
  rw [ha]
  dsimp only
  rw [hc]
  dsimp only
  rw [hsrc, hb]

/-- The state in which an op of SEC_UPD_CTL acts. -/
def State.updWritten (s : State) (op : Nat) (v : Word) : State :=
  s.putAt { reg := .secUpdCtl } (storedWrite s { reg := .secUpdCtl } (putBits v 36 34 op))

theorem bits_secOp (v : Word) {op : Nat} (h : op < 8) : bits (putBits v 36 34 op) 36 34 = op := by
  rw [bits_putBits v 36 34 op (by decide) (by decide)]
  omega

theorem State.updCtlWrite_stage (v : Word) : s.updCtlWrite (putBits v 36 34 1) = (s.updWritten 1 v).updStage := by
  rw [State.updCtlWrite, bits_secOp v (by decide)]
  rfl

theorem State.updCtlWrite_activate (v : Word) : s.updCtlWrite (putBits v 36 34 2) = (s.updWritten 2 v).updActivate := by
  rw [State.updCtlWrite, bits_secOp v (by decide)]
  rfl

theorem State.updCtlWrite_confirm (v : Word) : s.updCtlWrite (putBits v 36 34 3) = (s.updWritten 3 v).updConfirm := by
  rw [State.updCtlWrite, bits_secOp v (by decide)]
  rfl

theorem State.updCtlWrite_cancel (v : Word) : s.updCtlWrite (putBits v 36 34 4) = (s.updWritten 4 v).updCancel := by
  rw [State.updCtlWrite, bits_secOp v (by decide)]
  rfl

theorem State.updConfirm_of_trial {t : State} (h : s.boot.trial = true) (ht : s.writeRec s.boot.slot false 0 = t) :
    s.updConfirm = { t with boot := { t.boot with trial := false, updStatus := stOk } } := by
  subst ht
  exact if_pos h

/-- A boot record is written to NOR and changes nothing else. -/
theorem State.writeRec_shape (s : State) (active trial : Bool) (tries : Nat) :
    ∃ b, s.writeRec active trial tries = { s with boot := b } := ⟨_, rfl⟩

theorem State.writeRec_quiet (s : State) (active trial : Bool) (tries : Nat) :
    (s.writeRec active trial tries).due = s.due ∧ (s.writeRec active trial tries).pending = s.pending := by
  obtain ⟨b, written⟩ := s.writeRec_shape active trial tries
  rw [written]
  exact ⟨rfl, rfl⟩

theorem State.updDone_of_verified {ok : Bool} {st : Byte} (h : s.boot.updState = .verifying) (hc : s.updComplete = true)
    (hst : imageCheck (slice s.boot.updImage) s.boot.idOk s.unitId = st) :
    s.updDone ok = if st = stOk then (State.setUpd { s with boot := { s.boot with updDigest := digest64 s.boot.updImage } }
      .writing stOk).eraseTarget.updReads else s.updFails st := by
  subst hst
  have complete : ¬ (!s.updComplete) = true := by rw [hc]; decide
  unfold State.updDone
  dsimp only
  rw [h]
  refine (if_neg complete).trans ?_
  by_cases hok : imageCheck (slice s.boot.updImage) s.boot.idOk s.unitId = stOk
  · rw [if_pos hok]
    exact if_neg (by rw [hok]; decide)
  · rw [if_neg hok]
    exact if_pos (bne_iff_ne.2 hok)

theorem State.updDone_of_written (h : s.boot.updState = .writing) (hc : s.updComplete = true)
    (hd : digest64 s.boot.updImage = s.boot.updDigest) :
    let t := s.norWrite (slotBase s.target) s.boot.updImage
    s.updDone true = (State.setUpd { t with boot := { t.boot with progress := 100, updImage := [], updLen := 0, updDigest := [] } }
      .staged stOk).count .secStat 1 := by
  intro t
  unfold State.updDone
  dsimp only
  rw [h]
  refine (if_neg (by rw [hc]; decide)).trans (if_pos ?_)
  rw [decide_eq_true hd]
  rfl

theorem State.updDone_of_failed {ok : Bool} (h : s.boot.updState = .writing) (hc : ¬ (ok = true ∧ s.updComplete = false))
    (hd : ¬ (ok = true ∧ digest64 s.boot.updImage = s.boot.updDigest)) :
    s.updDone ok = s.draw.1.eraseTarget.updFails (BitVec.ofNat 8 ((Config.norStatus s.draw.2).val + 1)) := by
  unfold State.updDone
  dsimp only
  rw [h]
  refine (if_neg ?_).trans (if_neg ?_)
  · simpa using hc
  · simpa using hd

end

/-- Settles O46. -/
theorem updateAndAttestationComplete : Obligations.UpdateAndAttestationComplete := by
  unfold Obligations.UpdateAndAttestationComplete
  refine fun s v hs => ⟨fun id rest c o what nonce ha hc hsrc hb => hs.exec_after rfl (State.attestSigned_of_first ha hc hsrc hb),
    fun hr => ?_, fun h hc => ?_, fun h hc hd => hs.exec_after rfl (State.updDone_of_written h hc hd),
    fun h ok hc hd => hs.exec_after rfl (State.updDone_of_failed h hc hd)⟩
  · intro w no
    refine ⟨fun h ht => ?_, fun h => ?_, fun h => ?_, fun h => ?_, fun h => ?_, fun h => ?_, fun h => ?_, fun h => ?_⟩
    · refine hs.regRow_after rfl hr ((s.updCtlWrite_stage v).trans (if_pos ?_))
      change ((decide (s.boot.updState = .idle) || decide (s.boot.updState = .staged)) && !s.boot.trial) = true
      rw [ht]
      rcases h with h | h <;> rw [h] <;> rfl
    · refine hs.regRow_next rfl hr ((s.updCtlWrite_stage v).trans (if_neg ?_)) rfl rfl
      change ¬ ((decide (s.boot.updState = .idle) || decide (s.boot.updState = .staged)) && !s.boot.trial) = true
      simpa using h
    · exact hs.regRow_after rfl hr ((s.updCtlWrite_activate v).trans (if_pos h))
    · exact hs.regRow_next rfl hr ((s.updCtlWrite_activate v).trans (if_neg h)) rfl rfl
    · intro t
      obtain ⟨hd, hp⟩ := (w 3).writeRec_quiet s.boot.slot false 0
      have written : (w 3).writeRec s.boot.slot false 0 = t := rfl
      rw [written] at hd hp
      clear_value t
      exact hs.regRow_next rfl hr ((s.updCtlWrite_confirm v).trans (State.updConfirm_of_trial h written)) hd hp
    · exact hs.regRow_next rfl hr ((s.updCtlWrite_confirm v).trans (if_neg (ne_true_of_eq_false h))) rfl rfl
    · exact hs.regRow_after rfl hr ((s.updCtlWrite_cancel v).trans (if_pos h))
    · exact hs.regRow_next rfl hr ((s.updCtlWrite_cancel v).trans (if_neg h)) rfl rfl
  · intro st ok
    exact hs.exec_after rfl (State.updDone_of_verified h hc rfl)

/-! ### The recovery path (R523, R527) -/

section
variable {s : State} {v : Word}

/-- The state in which an op of SEC_REC_CTL acts. -/
def State.recWritten (s : State) (op : Nat) (v : Word) : State :=
  s.putAt { reg := .secRecCtl } (storedWrite s { reg := .secRecCtl } (putBits v 36 34 op))

theorem State.recCtlWrite_of_busy {op : Nat} (h1 : 1 ≤ op) (h3 : op ≤ 3) (hb : s.boot.recBusy ≠ none) :
    s.recCtlWrite (putBits v 36 34 op) = s.setRec stRetry := by
  unfold State.recCtlWrite
  rw [bits_secOp v (by omega)]
  exact if_pos (by rw [decide_eq_true h1, decide_eq_true h3, Option.isSome_iff_ne_none.2 hb]; rfl)

theorem State.rec_free (op : Nat) (hb : s.boot.recBusy = none) :
    ¬ (decide (1 ≤ op) && decide (op ≤ 3) && s.boot.recBusy.isSome) = true := by
  rw [hb]
  simp

theorem State.recCtlWrite_write (hb : s.boot.recBusy = none) :
    s.recCtlWrite (putBits v 36 34 1) = if bits v 12 0 != (if bit v 32 = s.boot.recSlot then s.boot.recNext else 0) then
        (s.recWritten 1 v).setRec stMalformed
      else { s.recWritten 1 v with boot := { s.boot with recBusy := some (1, bit v 32, bits v 12 0, (s.recWritten 1 v).recChunk) } } := by
  unfold State.recCtlWrite
  rw [bits_secOp v (by decide), bit_putBits_below v (by decide) (by decide) (by decide),
    bits_putBits_below v (by decide) (by decide) (by decide) (by decide)]
  exact if_neg (State.rec_free 1 hb)

theorem State.recCtlWrite_commit (hb : s.boot.recBusy = none) : s.recCtlWrite (putBits v 36 34 2) =
    { s.recWritten 2 v with boot := { s.boot with recBusy := some (2, bit v 32, 0, []) } } := by
  unfold State.recCtlWrite
  rw [bits_secOp v (by decide), bit_putBits_below v (by decide) (by decide) (by decide)]
  exact if_neg (State.rec_free 2 hb)

theorem State.recCtlWrite_reset (hb : s.boot.recBusy = none) : s.recCtlWrite (putBits v 36 34 3) =
    { s.recWritten 3 v with pwr := { s.pwr with resetAt := some (s.now + 10000) } } := by
  unfold State.recCtlWrite
  rw [bits_secOp v (by decide)]
  exact if_neg (State.rec_free 3 hb)

/-! An operation of the recovery path that ends, from the state t in which it no longer runs. -/

variable {t u : State} {k : Nat} {b : Bool} {d : List Byte}

theorem State.recDone_of_failed {x : Nat × Bool × Nat × List Byte} (hb : s.boot.recBusy = some x)
    (ht : { s with boot := { s.boot with recBusy := none } } = t) :
    s.recDone false = t.draw.1.setRec (BitVec.ofNat 8 ((Config.norStatus t.draw.2).val + 1)) := by
  subst ht
  unfold State.recDone
  rw [hb]
  exact if_pos rfl

theorem State.recDone_of_write (hb : s.boot.recBusy = some (1, b, k, d))
    (ht : State.norWrite { s with boot := { s.boot with recBusy := none } } (slotBase b + k * 4096) d = t) :
    s.recDone true = { t with boot := { t.boot with recNext := k + 1, recSlot := b, recStatus := stOk } } := by
  subst ht
  unfold State.recDone
  rw [hb]
  exact (if_neg (by decide)).trans (if_pos rfl)

theorem State.recDone_of_commit (hb : s.boot.recBusy = some (2, b, k, d))
    (ht : { s with boot := { s.boot with recBusy := none } } = t)
    (hu : (if t.slotCheck b = stOk then t.writeRec b false 0 else t) = u) :
    s.recDone true = { u with boot := { u.boot with recNext := 0, recStatus := t.slotCheck b } } := by
  unfold State.recDone
  rw [hb]
  dsimp only
  rw [if_neg (show ¬ (!true) = true by decide), if_neg (show ¬ 2 = 1 by decide), ht, hu]

end

/-- Settles O47. -/
theorem recoveryCommandsComplete : Obligations.RecoveryCommandsComplete := by
  unfold Obligations.RecoveryCommandsComplete
  intro s v hs hr w slot chunk next
  refine ⟨fun hb => ⟨?_, ?_, ?_⟩, fun hb => ⟨fun hc => ?_, fun hc => ?_, ?_, ?_⟩, fun b k d hb => ?_, fun b k d hb => ?_,
    fun x hb => ?_, fun ok hb => ?_⟩
  · exact hs.regRow_next rfl hr (State.recCtlWrite_of_busy (by decide) (by decide) hb) rfl rfl
  · exact hs.regRow_next rfl hr (State.recCtlWrite_of_busy (by decide) (by decide) hb) rfl rfl
  · exact hs.regRow_next rfl hr (State.recCtlWrite_of_busy (by decide) (by decide) hb) rfl rfl
  · refine hs.regRow_next rfl hr ((State.recCtlWrite_write hb).trans (if_neg ?_)) rfl rfl
    exact fun h => bne_iff_ne.1 h hc
  · exact hs.regRow_next rfl hr ((State.recCtlWrite_write hb).trans (if_pos (bne_iff_ne.2 hc))) rfl rfl
  · exact hs.regRow_next rfl hr (State.recCtlWrite_commit hb) rfl rfl
  · exact hs.regRow_next rfl hr (State.recCtlWrite_reset hb) rfl rfl
  · intro t
    exact hs.exec_next rfl (State.recDone_of_write (t := t) hb rfl) rfl rfl
  · intro t st u
    have quiet : u.due = s.due ∧ u.pending = s.pending := by
      unfold u
      split
      · exact t.writeRec_quiet b false 0
      · exact ⟨rfl, rfl⟩
    exact hs.exec_next rfl (State.recDone_of_commit (t := t) (u := u) hb rfl rfl) quiet.1 quiet.2
  · intro d
    exact hs.exec_next rfl (State.recDone_of_failed hb rfl) rfl rfl
  · refine hs.exec_next rfl ?_ rfl rfl
    unfold State.recDone
    rw [hb]

end Sys2Proof.Machine
end

section
/-! SUPPORT. Rows that are register writes, and the SMBus: O48 and O49. -/

namespace Sys2Proof.Machine

section
variable {s t : State} {c : Instr} {g : State → State}

/-! ### Rows that act on a stopped device too -/

/-- A row that acts on any device between two steps, by what its effect is. -/
theorem State.exec_act (hd : s.due = []) (hc : exec c s = s.act g) (hg : g s = t) : exec c s = .next (s.after t) := by
  rw [hc, State.act_eq hd, hg]

/-- The same, of an effect that leaves nothing due. -/
theorem State.exec_act_next (hd : s.due = []) (hc : exec c s = s.act g) (hg : g s = t) (htd : t.due = s.due)
    (hp : t.pending = s.pending) : exec c s = .next t := by
  rw [State.exec_act hd hc hg, State.after_eq (htd.trans hd) hp]

/-! ### Writes of single registers (R539, R544, R561, R573, R580) -/

theorem State.avsWrite_quiet (s : State) (mv : Nat) (ok : Bool) :
    (s.avsWrite mv ok).due = s.due ∧ (s.avsWrite mv ok).pending = s.pending := by
  cases ok with
  | true => exact ⟨rfl, rfl⟩
  | false => exact ⟨State.count_due .., State.count_pending ..⟩

variable {v : Word}

theorem State.evtPop_of_record (he : s.evtEn = false) (hq : s.mgt.queue ≠ []) :
    s.evtPop (putBits v 0 0 1) = State.count { s with mgt := { s.mgt with queue := s.mgt.queue.drop 1 } } .hubEvtStat 1 :=
  if_neg (by rw [bit_putBits_one v (by decide), he, decide_eq_false hq]; decide)

theorem State.evtPop_of_none (h : s.evtEn = true ∨ s.mgt.queue = []) : s.evtPop v = s :=
  if_pos (by rcases h with h | h <;> simp [h])

theorem State.rstWrite_of_key (v : Word) : s.rstWrite (putBits (putBits v 0 0 1) 31 16 0xD1E5) =
    { s with pwr := { s.pwr with resetAt := some (s.now + 10000) } } := by
  have low : bit (putBits (putBits v 0 0 1) 31 16 0xD1E5) 0 = true := by
    rw [bit_putBits_below _ (by decide) (by decide) (by decide), bit_putBits_one v (by decide)]
  have key : bits (putBits (putBits v 0 0 1) 31 16 0xD1E5) 31 16 = 0xD1E5 := bits_putBits _ 31 16 0xD1E5 (by decide) (by decide)
  exact if_pos (by rw [low, key]; decide)

/-- A write that reaches whatever register stands at a package offset (R14). -/
def State.writeAt (s : State) (off : Nat) (v : Word) : State := match s.regHere off with
  | some a => s.regRow a v
  | none => s

theorem State.writeAt_of_none {off : Nat} (h : s.regHere off = none) : s.writeAt off v = s := by
  unfold State.writeAt
  rw [h]

theorem State.writeAt_of_some {off : Nat} {a : RegAt} (h : s.regHere off = some a) (hr : s.reaches a = true) :
    s.writeAt off v = s.regWrite a v := by
  unfold State.writeAt
  rw [h]
  exact s.regRow_of_reaches v hr

end

/-- Settles O48. -/
theorem registerRowsComplete : Obligations.RegisterRowsComplete := by
  unfold Obligations.RegisterRowsComplete
  refine fun s v hs => ⟨fun off => ⟨fun h => ?_, fun a h hr => ?_⟩,
    fun hr => hs.regRow_next rfl hr rfl rfl rfl, fun hr => ⟨fun he hq => ?_, fun h => ?_⟩, fun hr ok => ?_, fun p k => ?_,
    fun hr => hs.regRow_next rfl hr (State.rstWrite_of_key v) rfl rfl⟩
  · exact hs.exec_next (g := fun s => s.writeAt off.toNat v) rfl (State.writeAt_of_none h) rfl rfl
  · exact hs.exec_after (g := fun s => s.writeAt off.toNat v) rfl (State.writeAt_of_some h hr)
  · exact hs.regRow_next rfl hr (State.evtPop_of_record he hq) (State.count_due ..) (State.count_pending ..)
  · exact hs.regRow_next rfl hr (State.evtPop_of_none h) rfl rfl
  · intro w
    exact hs.exec_next rfl (if_pos hr) (w.avsWrite_quiet _ ok).1 (w.avsWrite_quiet _ ok).2
  · intro a w e hr
    exact ⟨fun h => hs.regRow_next rfl hr (if_pos h) rfl rfl, fun h => hs.regRow_after rfl hr (if_neg h)⟩

/-! ### SMBus (R535, R537, R545) -/

section
variable {s : State} (hp : s.pwr.pwrgd = true)
include hp

theorem State.smbRead_of_power (n off : Nat) (pec code : Bool) :
    s.smbRead n off pec code =
      State.smbDone { s with out := s.out ++ [Out.smb ([9, (s.smbCheck false n 4 off pec code).1] ++ leBytes 8
        (match (s.smbCheck false n 4 off pec code).2 with | some a => s.regRead a | none => (0 : Word)).toNat)] }
        (s.smbCheck false n 4 off pec code).1 :=
  (if_neg (by rw [hp]; decide)).trans rfl

theorem State.smbWrite_of_refused {n off : Nat} {v : Word} {pec code : Bool} {st : Byte}
    (h : s.smbCheck true n 12 off pec code = (st, none)) :
    s.smbWrite n off v pec code = State.smbDone { s with mgt := { s.mgt with smbStatus := st } } st := by
  refine (if_neg (by rw [hp]; decide)).trans ?_
  rw [h]

theorem State.smbWrite_of_ok {n off : Nat} {v : Word} {pec code : Bool} {a : RegAt} {t : State}
    (h : s.smbCheck true n 12 off pec code = (stOk, some a)) (ht : s.regWrite a v = t) :
    s.smbWrite n off v pec code = { t with mgt := { t.mgt with smbStatus := stOk } } := by
  refine (if_neg (by rw [hp]; decide)).trans ?_
  rw [h]
  dsimp only
  rw [ht]
  rfl

theorem State.smbAlertResponse_of_alert (ha : s.alerting = true) : s.smbAlertResponse =
    { s with out := s.out ++ [Out.smb [BitVec.ofNat 8 (2 * (0x48 + s.pwr.smbAddr.toNat))]] } :=
  if_pos (by rw [hp, ha]; rfl)

end

/-- Settles O49. -/
theorem smbusComplete : Obligations.SmbusComplete := by
  unfold Obligations.SmbusComplete
  refine fun s off v hd hp => ⟨fun n pec code => ?_, fun n pec code => ?_, State.exec_act_next hd rfl (if_pos hp) rfl rfl,
    fun ha => State.exec_act_next hd rfl (State.smbAlertResponse_of_alert hp ha) rfl rfl⟩
  · intro c x
    exact State.exec_act (g := fun s => s.smbRead n off.toNat pec code) hd rfl (State.smbRead_of_power hp n off.toNat pec code)
  · intro c
    refine ⟨fun st h => State.exec_act (g := fun s => s.smbWrite n off.toNat v pec code) hd rfl (State.smbWrite_of_refused hp h), fun a h => ?_⟩
    intro t
    exact State.exec_act (g := fun s => s.smbWrite n off.toNat v pec code) hd rfl (State.smbWrite_of_ok (t := t) hp h rfl)

end Sys2Proof.Machine
end

section
/-! SUPPORT. Throttling, the regulator, trips, clocks, supplies and test access: O50. -/

namespace Sys2Proof.Machine

section
variable {s : State}

/-! ### Throttling (R564, R565) -/

/-- A temperature among those reported that stands at or above a limit; 0xFF is none. -/
def hotAt (lim : Nat) (ts : List Nat) : Bool := ts.any fun t => t != 0xFF && lim ≤ t

/-- The limits that the readings reach. -/
def State.trigOf (s : State) (x : Sensors) (die stk : List Nat) : BitVec 3 :=
  (if hotAt s.throtTj die then 1 else 0) ||| (if hotAt s.hbmTmax stk then 2 else 0) ||| (if s.pCoreMax < x.coreW then 4 else 0)

/-- The readings stand below every limit by its hysteresis. -/
def State.coolOf (s : State) (x : Sensors) (die stk : List Nat) : Bool :=
  !hotAt (s.throtTj - s.hyst + 1) die && !hotAt (s.hbmTmax - s.hyst + 1) stk && decide (x.coreW * 100 < 95 * s.pCoreMax)

/-- What the dies report. -/
def State.dieReports (s : State) (x : Sensors) : List Nat := x.die.zipIdx.map fun t => Machine.report (s.dieFailed t.2) t.1

/-- What the stacks report. -/
def State.stkReports (s : State) (x : Sensors) : List Nat :=
  x.stk.zipIdx.map fun t => Machine.report (s.stackHealth t.2 = .failed) t.1

/-- The state with its sensors read. -/
def State.sensed (s : State) (x : Sensors) : State :=
  { s with pwr := { s.pwr with dieTemp := s.dieReports x, stkTemp := s.stkReports x, coreW := x.coreW
                               trig := s.trigOf x (s.dieReports x) (s.stkReports x) } }

/-- Counting the time throttled changes that counter and where the count stands. -/
theorem State.countThrottled_shape (s : State) :
    ∃ st since, s.countThrottled = { s with stat := st, pwr := { s.pwr with throtSince := since } } := by
  unfold State.countThrottled
  dsimp only
  split
  · exact ⟨s.stat, s.pwr.throtSince, rfl⟩
  · obtain ⟨st, counted⟩ := State.count_shape (s := { s with pwr := { s.pwr with
      throtSince := s.pwr.throtSince + (s.now - s.pwr.throtSince) / 1000 * 1000 } }) .hubPwrStat 1 ((s.now - s.pwr.throtSince) / 1000) 0
    exact ⟨st, _, counted⟩

/-- What the evaluation does with its readings: throttle, note how long it is cool, or end throttling. -/
def State.throttleActs (c : State) (trig : BitVec 3) (cool : Bool) : State :=
  if !c.pwr.throttled then
    if trig = 0 then c
    else
      let w := c.avsWrite c.thrMv true
      let w : State := { w with pwr := { w.pwr with throttled := true, throtSince := w.now, clearSince := none } }
      (w.event 1 ([1, 0] ++ leBytes 2 w.thrMv)).count .hubPwrStat 0
  else if !cool then { c with pwr := { c.pwr with clearSince := none } }
  else match c.pwr.clearSince with
    | none => { c with pwr := { c.pwr with clearSince := some c.now } }
    | some t =>
      if c.now - t < 10000000 then c
      else
        let w := c.avsWrite c.opMv true
        let w : State := { w with pwr := { w.pwr with throttled := false, clearSince := none } }
        w.event 1 ([0, 0] ++ leBytes 2 w.opMv)

theorem State.throttleEval_eq {x : Sensors} (hr : s.err.stopped = false) (hb : s.boot.phase ≠ .reset) :
    s.throttleEval x = (s.sensed x).countThrottled.throttleActs (s.trigOf x (s.dieReports x) (s.stkReports x))
      (s.coolOf x (s.dieReports x) (s.stkReports x)) :=
  if_neg (by rw [hr, decide_eq_false hb]; decide)

variable {trig : BitVec 3} {cool : Bool}

theorem State.countThrottled_of_free (h : s.pwr.throttled = false) : s.countThrottled = s := if_pos (by rw [h]; rfl)

/-- While the device is not throttled. -/
theorem State.throttleActs_free (h : s.pwr.throttled = false) :
    s.throttleActs trig cool = if trig = 0 then s
      else
        let w := s.avsWrite s.thrMv true
        let w : State := { w with pwr := { w.pwr with throttled := true, throtSince := w.now, clearSince := none } }
        (w.event 1 ([1, 0] ++ leBytes 2 w.thrMv)).count .hubPwrStat 0 :=
  if_pos (by rw [h]; rfl)

theorem State.throttleActs_hot (h : s.pwr.throttled = true) :
    s.throttleActs trig false = { s with pwr := { s.pwr with clearSince := none } } :=
  (if_neg (by rw [h]; decide)).trans (if_pos rfl)

theorem State.throttleActs_cools (h : s.pwr.throttled = true) (hc : s.pwr.clearSince = none) :
    s.throttleActs trig true = { s with pwr := { s.pwr with clearSince := some s.now } } := by
  refine (if_neg (by rw [h]; decide)).trans ((if_neg (by decide)).trans ?_)
  rw [hc]

theorem State.throttleActs_cooling {t : Nat} (h : s.pwr.throttled = true) (hc : s.pwr.clearSince = some t)
    (ht : s.now - t < 10000000) : s.throttleActs trig true = s := by
  refine (if_neg (by rw [h]; decide)).trans ((if_neg (by decide)).trans ?_)
  rw [hc]
  exact if_pos ht

theorem State.throttleActs_cooled {t : Nat} (h : s.pwr.throttled = true) (hc : s.pwr.clearSince = some t)
    (ht : 10000000 ≤ s.now - t) :
    s.throttleActs trig true =
      let w := s.avsWrite s.opMv true
      let w : State := { w with pwr := { w.pwr with throttled := false, clearSince := none } }
      w.event 1 ([0, 0] ++ leBytes 2 w.opMv) := by
  refine (if_neg (by rw [h]; decide)).trans ((if_neg (by decide)).trans ?_)
  rw [hc]
  exact if_neg (Nat.not_lt.2 ht)

/-! ### Trips, clocks, supplies and the regulator (R561, R568, R571) -/

theorem State.avsRetry_of_pending {mv : Nat} (h : s.pwr.avsPending = some mv) (ok : Bool) : s.avsRetry ok = s.avsWrite mv ok := by
  unfold State.avsRetry
  rw [h]

theorem State.avsRetry_of_none (h : s.pwr.avsPending = none) (ok : Bool) : s.avsRetry ok = s := by
  unfold State.avsRetry
  rw [h]

theorem State.avsWrite_runs (mv : Nat) (hr : s.err.stopped = false) :
    s.avsWrite mv true = { s with out := s.out ++ [.avs mv], pwr := { s.pwr with reqMv := mv, avsPending := none } } := by
  refine (if_pos rfl).trans ?_
  rw [hr]
  rfl

variable {t : State} {stack : Bool} {i temp : Nat}

theorem State.clockLost_of_present (hi : i < 7) (hc : s.pwr.clkAbsent.getLsbD i = false)
    (ht : State.count { s with pwr := { s.pwr with clkAbsent := s.pwr.clkAbsent ||| BitVec.ofNat 7 (2 ^ i)
                                                   clkSeen := s.pwr.clkSeen ||| BitVec.ofNat 7 (2 ^ i) } } .hubPwrStat 3 = t) :
    s.clockLost i = if i = 0 then t.stopFor 0
      else if i ≤ 2 then t.photLost (i - 1)
      else (List.range 4).foldl (fun s k => s.trainingLoss (4 * (i - 3) + k) false) t := by
  subst ht
  exact if_neg (by rw [decide_eq_false (Nat.not_le.2 hi), hc]; decide)

theorem State.supplyLow_of_down (ht : (List.range 8).foldl State.opticalDown s = t) :
    s.supplyLow i = { t with pwr := { t.pwr with released := true, thermtrip := t.pwr.thermtrip && i != 7 } } := by
  subst ht
  unfold State.supplyLow
  rfl

theorem State.thermalTrip_of_cold (h : temp < (if stack then 110 else 125)) : s.thermalTrip stack i temp = s :=
  if_pos (by rw [decide_eq_true h]; simp)

theorem State.thermalTrip_of_hot (hp : s.pwr.pwrgd = true) (h : (if stack then 110 else 125) ≤ temp)
    (hi : i < (if stack then 16 else 8)) :
    s.thermalTrip stack i temp = if s.boot.phase = .reset then { s with pwr := { s.pwr with thermtrip := true } }
      else ({ s with pwr := { s.pwr with tripped := true, thermtrip := true } }).stopFor (if stack then i / 4 + 1 else i) := by
  refine if_neg ?_
  rw [hp, decide_eq_false (Nat.not_lt.2 h)]
  cases stack <;> simpa using hi

end

/-- Settles O50. -/
theorem powerEventsComplete : Obligations.PowerEventsComplete := by
  unfold Obligations.PowerEventsComplete
  refine fun s hd => ⟨fun x hr hb => ?_, fun mv amps => ⟨State.exec_act_next (g := fun s => s.avsRead true mv amps) hd rfl rfl rfl rfl,
      State.exec_act_next (g := fun s => s.avsRead false mv amps) hd rfl rfl (State.count_due ..) (State.count_pending ..)⟩, fun mv hp hr => ⟨?_, ?_⟩,
    fun ok hp => State.exec_act_next (g := fun s => s.avsRetry ok) hd rfl (State.avsRetry_of_none hp ok) rfl rfl, fun stack i temp hp hb ht hi => ?_,
    fun stack i temp hp hb ht hi => ?_, fun stack i temp ht => State.exec_act_next (g := fun s => s.thermalTrip stack i temp) hd rfl
      (State.thermalTrip_of_cold ht) rfl rfl,
    fun i hi hc => ?_, fun i => State.exec_act_next (g := fun s => s.clockBack i.toNat) hd rfl rfl rfl rfl, fun i => ?_, fun ir => ?_⟩
  · intro die stk hot trig m
    have hs : s.Ready := ⟨hd, hr⟩
    have acts := State.throttleEval_eq (x := x) hr hb
    have free (ht : s.pwr.throttled = false) : s.throttleEval x = m.throttleActs trig (s.coolOf x die stk) :=
      acts.trans (congrArg (·.throttleActs trig (s.coolOf x die stk)) (State.countThrottled_of_free (s := m) ht))
    refine ⟨fun ht h0 => ?_, fun ht h0 => ?_, fun ht => ?_⟩
    · exact hs.exec_next rfl ((free ht).trans ((State.throttleActs_free (s := m) ht).trans (if_pos h0))) rfl rfl
    · exact hs.exec_after rfl ((free ht).trans ((State.throttleActs_free (s := m) ht).trans (if_neg h0)))
    · intro cool c
      have evaluates : s.throttleEval x = c.throttleActs trig cool := acts
      obtain ⟨st, since, counted⟩ := State.countThrottled_shape m
      have shape : c = { m with stat := st, pwr := { m.pwr with throtSince := since } } := counted
      clear_value c
      subst shape
      refine ⟨fun h => ?_, fun h hc => ?_, fun t h hc hlt => ?_, fun t h hc hle => ?_⟩ <;> rw [h] at evaluates
      · exact hs.exec_next rfl (evaluates.trans (State.throttleActs_hot ht)) rfl rfl
      · exact hs.exec_next rfl (evaluates.trans (State.throttleActs_cools ht hc)) rfl rfl
      · exact hs.exec_next rfl (evaluates.trans (State.throttleActs_cooling ht hc hlt)) rfl rfl
      · exact hs.exec_after rfl (evaluates.trans (State.throttleActs_cooled ht hc hle))
  · exact State.exec_act_next (g := fun s => s.avsRetry true) hd rfl ((State.avsRetry_of_pending hp true).trans (State.avsWrite_runs mv hr)) rfl rfl
  · exact State.exec_act_next (g := fun s => s.avsRetry false) hd rfl (State.avsRetry_of_pending hp false)
      (State.count_due ..) (State.count_pending ..)
  · exact State.exec_act (g := fun s => s.thermalTrip stack i temp) hd rfl ((State.thermalTrip_of_hot hp ht hi).trans (if_neg hb))
  · exact State.exec_act_next (g := fun s => s.thermalTrip stack i temp) hd rfl ((State.thermalTrip_of_hot hp ht hi).trans (if_pos hb)) rfl rfl
  · intro b t
    have lost := State.clockLost_of_present (t := t) hi hc rfl
    by_cases h0 : i = 0
    · rw [if_pos h0]
      exact State.exec_act (g := fun s => s.clockLost i.toNat) hd rfl (lost.trans (if_pos (congrArg BitVec.toNat h0)))
    · rw [if_neg h0]
      exact State.exec_act (g := fun s => s.clockLost i.toNat) hd rfl (lost.trans (if_neg fun h => h0 (BitVec.eq_of_toNat_eq h)))
  · intro t
    exact State.exec_act (g := fun s => s.supplyLow i.toNat) hd rfl (State.supplyLow_of_down (t := t) rfl)
  · intro r t
    by_cases h : r = .idcode
    · rw [if_pos h]
      exact State.exec_act_next (g := fun s => s.tap ir) hd rfl (if_pos h) rfl rfl
    · rw [if_neg h]
      exact State.exec_act_next (g := fun s => s.tap ir) hd rfl (if_neg h) rfl rfl

end Sys2Proof.Machine
end

section
/-! SUPPORT. Starts, resets and connectors: O51. -/

namespace Sys2Proof.Machine

section
variable {s : State}

/-! ### Pins that reset, and the start (R514, R559, R560, R580, R581) -/

theorem State.perstFall_of_long {ns : Nat} {resets : Bool} (h : 50 ≤ ns ∨ 20 ≤ ns ∧ resets = true) :
    s.perstFall ns resets = { s.deviceReset with pwr := { s.deviceReset.pwr with perst := false } } := by
  refine if_neg ?_
  rcases h with h | ⟨h, hr⟩
  · rw [decide_eq_false (show ¬ ns < 20 by omega), decide_eq_false (show ¬ ns < 50 by omega)]
    exact Bool.false_ne_true
  · rw [decide_eq_false (show ¬ ns < 20 by omega), hr]
    simp

theorem State.perstFall_of_short {ns : Nat} {resets : Bool} (h : ns < 20 ∨ ns < 50 ∧ resets = false) : s.perstFall ns resets = s := by
  refine if_pos ?_
  rcases h with h | ⟨h, hr⟩
  · simp [h]
  · simp [h, hr]

variable {smb : BitVec 3} {recovery nor ident : Bool} {nand : NandPop}

theorem State.perstRise_of_started (h : s.boot.phase ≠ .reset ∨ s.pwr.pwrgd = false) :
    s.perstRise smb recovery nor ident nand = s :=
  if_pos (by rcases h with h | h <;> simp [h])

theorem State.perstRise_of_reset (hb : s.boot.phase = .reset) (hp : s.pwr.pwrgd = true) :
    s.perstRise smb recovery nor ident nand = State.startDevice { s with
      pwr := { s.pwr with perst := true, smbAddr := smb, recovery := recovery }
      boot := { s.boot with norOk := nor, idOk := ident }
      flash := { s.flash with pop := some nand } } :=
  if_neg (by rw [hb, hp]; decide)

theorem State.startComplete_of_starting {links : BitVec 32} (hb : s.boot.phase = .starting) (hr : s.err.stopped = false) :
    s.startComplete links = (List.range 32).foldl (fun s p =>
        if links.getLsbD p then (s.setOptical (p / 4) fun x => { x with conn := true }).portUp p else s)
      { s with boot := { s.boot with phase := .running } } :=
  if_neg (by rw [hb, hr]; decide)

theorem State.pwrgdFall_of_power {t : State} (hp : s.pwr.pwrgd = true) (ht : (if s.pwr.perst then s.deviceReset else s) = t) :
    s.pwrgdFall = { t with pwr := { t.pwr with pwrgd := false, perst := false } } := by
  subst ht
  exact if_neg (by rw [hp]; decide)

theorem State.coreUndervolt_of_low {mv : Nat} (hv : mv < 570) (hp : s.pwr.pwrgd = true) (ht : s.pwr.perst = true) :
    s.coreUndervolt mv = { s.deviceReset with pwr := { s.deviceReset.pwr with perst := false } } :=
  if_pos (by rw [hp, ht, decide_eq_true hv]; rfl)

theorem State.coreUndervolt_of_high {mv : Nat} (hv : 570 ≤ mv) : s.coreUndervolt mv = s :=
  if_neg (by rw [decide_eq_false (Nat.not_lt.2 hv)]; exact Bool.false_ne_true)

theorem State.registerReset_of_due {t : Nat} (h : s.pwr.resetAt = some t) (ht : t ≤ s.now) :
    s.registerReset = s.deviceReset.startDevice := by
  unfold State.registerReset
  rw [h]
  exact if_pos ht

theorem State.registerReset_of_none (h : s.pwr.resetAt = none) : s.registerReset = s := by
  unfold State.registerReset
  rw [h]

end

/-- Settles O51. -/
theorem startAndResetsComplete : Obligations.StartAndResetsComplete := by
  unfold Obligations.StartAndResetsComplete
  refine fun s hd => ⟨fun ns resets h => ?_, fun ns resets h => ?_, fun smb recovery nor ident nand h => ?_,
    fun smb recovery nor ident nand hb hp => ?_, fun links hb hr => ?_, fun hp => ?_, fun hp => ?_,
    fun mv => ⟨fun hv hp ht => ?_, fun hv => ?_⟩, fun t h ht => ?_, fun h => ?_, fun e => ⟨?_, ?_⟩⟩
  · exact State.exec_act (g := fun s => s.perstFall ns resets) hd rfl (State.perstFall_of_long h)
  · exact State.exec_act_next (g := fun s => s.perstFall ns resets) hd rfl (State.perstFall_of_short h) rfl rfl
  · exact State.exec_act_next (g := fun s => s.perstRise smb recovery nor ident nand) hd rfl (State.perstRise_of_started h) rfl rfl
  · exact State.exec_act (g := fun s => s.perstRise smb recovery nor ident nand) hd rfl (State.perstRise_of_reset hb hp)
  · exact State.exec_act (g := fun s => s.startComplete links) hd rfl (State.startComplete_of_starting hb hr)
  · intro t
    exact State.exec_act (g := State.pwrgdFall) hd rfl (State.pwrgdFall_of_power (t := t) hp rfl)
  · exact State.exec_act_next (g := State.pwrgdRise) hd rfl (if_neg (ne_true_of_eq_false hp)) rfl rfl
  · exact State.exec_act (g := fun s => s.coreUndervolt mv) hd rfl (State.coreUndervolt_of_low hv hp ht)
  · exact State.exec_act_next (g := fun s => s.coreUndervolt mv) hd rfl (State.coreUndervolt_of_high hv) rfl rfl
  · exact State.exec_act (g := State.registerReset) hd rfl (State.registerReset_of_due h ht)
  · exact State.exec_act_next (g := State.registerReset) hd rfl (State.registerReset_of_none h) rfl rfl
  · exact State.exec_act_next (g := fun s => s.seat e.toNat) hd rfl rfl rfl rfl
  · exact State.exec_act (g := fun s => s.unseat e.toNat) hd rfl rfl

end Sys2Proof.Machine
end

section
/-! SUPPORT. Rows whose moment has not come, by chapter: each leaves the state as it is. O52. -/

namespace Sys2Proof.Machine

section
variable {s : State}

/-! ### Sessions, streams and commands that wait (03, 04) -/

theorem State.ackDelayExpiry_early {n c : Nat} (h : ∀ t, (s.rxOf n c).ackDue = some t →
    s.now - t < s.ackDelay ∨ (s.sess n).state ≠ .open ∧ (s.sess n).state ≠ .closing) : s.ackDelayExpiry n c = s := by
  unfold State.ackDelayExpiry
  cases ht : (s.rxOf n c).ackDue with
  | none => rfl
  | some t => exact if_neg (by rcases h t ht with h | ⟨h1, h2⟩ <;> simp [*])

theorem State.retxTimerExpiry_early {n c : Nat} (h : ∀ t, (s.txOf n c).armed = some t →
    (s.txOf n c).unacked = [] ∨ s.now - t < (s.txOf n c).rto) : s.retxTimerExpiry n c = s := by
  unfold State.retxTimerExpiry
  dsimp only
  cases ht : (s.txOf n c).armed with
  | none => rfl
  | some t =>
    cases hu : (s.txOf n c).unacked with
    | nil => rfl
    | cons m ms => exact if_pos ((h t ht).resolve_left (by simp [hu]))

theorem State.openingTimeout_early {n : Nat} (h : (s.sess n).state = .opening → s.now - (s.sess n).since < s.rtoMax) :
    s.openingTimeout n = s :=
  if_neg (by simpa using h)

theorem State.sessionDrained_early {n : Nat} (h : s.sessCmds n (s.sess n).inc ≠ [] ∨
    (s.sess n).state ≠ .closing ∧ (s.sess n).state ≠ .failed ∨
    (s.sess n).state = .closing ∧ ((s.sess n).tx.all fun t => t.2.unacked.isEmpty && t.2.waiting.isEmpty) = false) :
    s.sessionDrained n = s := by
  unfold State.sessionDrained
  dsimp only
  rcases h with h | ⟨h1, h2⟩ | ⟨h, ht⟩
  · exact if_pos (bne_iff_ne.2 h)
  · split
    · rfl
    · split
      · next hc => exact absurd hc h1
      · next hf => exact absurd hf h2
      · rfl
  · split
    · rfl
    · rw [h]
      exact if_neg (ne_true_of_eq_false ht)

section
variable {id : Nat} {c : Cmd} {o : Origin} (hc : s.findCmd id = some c) (hsrc : c.src = .msg o)
include hc hsrc

theorem State.fenceComplete_early {upto : List (Nat × Word32)} (hb : c.body = .fence upto) (hl : s.sessLive o.sess o.inc = true)
    (hd : s.fenceDone id o upto = false) : s.fenceComplete id = s := by
  unfold State.fenceComplete
  rw [hc]
  dsimp only
  rw [hsrc, hb]
  exact if_neg (by rw [hl, hd]; decide)

theorem State.drainComplete_early {ids : List Nat} (hb : c.body = .drain ids) (h : (s.cmds.any fun c => ids.contains c.id) = true) :
    s.drainComplete id = s := by
  unfold State.drainComplete
  rw [hc]
  dsimp only
  rw [hsrc, hb]
  exact if_pos h

theorem State.orderedSignalRelease_early {a : Access} (hb : c.body = .held a) (h : s.signalWaits o = true) :
    s.orderedSignalRelease id = s := by
  unfold State.orderedSignalRelease
  rw [hc]
  dsimp only
  rw [hsrc, hb]
  exact if_pos h

end

section
variable {tag t : Nat} {r : DevReq} (hr : (s.xp.reqs.find? (·.1 = tag)) = some (t, r))
include hr

theorem State.recallTimeout_early {l i : Nat} (hk : r.kind = .recall l i) (h : s.now - r.since < s.recallTo (s.entry l).domain) :
    s.recallTimeout tag = s := by
  unfold State.recallTimeout
  rw [hr]
  dsimp only
  rw [hk]
  exact if_neg (Nat.not_le.2 h)

theorem State.borrowTimeout_early {c p : Nat} {b : Bool} (hk : r.kind = .fwd c p b) (h : s.now - r.since < s.borrowTo) :
    s.borrowTimeout tag = s := by
  unfold State.borrowTimeout
  rw [hr]
  dsimp only
  rw [hk]
  exact if_neg (Nat.not_le.2 h)

theorem State.hdlPeerTimeout_early {id : Nat} {e : Eng} (hk : r.kind = .hdlPeer id) (he : s.eng id = some e)
    (h : e.op = 5 ∧ field e.body 28 4 = 0 ∨ s.now - r.since < field e.body 28 4 * 1000 + s.borrowTo) :
    s.hdlPeerTimeout tag = s := by
  unfold State.hdlPeerTimeout
  rw [hr]
  dsimp only
  rw [hk]
  dsimp only
  rw [he]
  dsimp only
  rcases h with ⟨ho, h0⟩ | h
  · exact if_pos (by rw [ho, h0]; decide)
  · split
    · rfl
    · exact if_neg (Nat.not_le.2 h)

end

/-! ### The directory, extents and regions (02, 05, 06) -/

theorem State.domainEnterDown_early {d : Nat} (h : s.domState d ≠ .failing ∨
    (s.cmds.any fun c => c.ctx != 0 && (s.slotIn d c.ctx).isSome) = true ∨ (s.dir.entries.any fun x => x.2.domain = d) = true) :
    s.domainEnterDown d = s := by
  refine if_neg ?_
  rcases h with h | h | h
  · rw [decide_eq_false h]
    exact Bool.false_ne_true
  · rw [h, Bool.not_true, Bool.and_false, Bool.false_and]
    exact Bool.false_ne_true
  · rw [h, Bool.not_true, Bool.and_false]
    exact Bool.false_ne_true

theorem State.parkedStart_early {l : Nat} (h : s.busy l = true ∨ s.dir.parked.find? (·.1 = l) = none) : s.parkedStart l = s := by
  unfold State.parkedStart
  rcases h with h | h
  · exact if_pos h
  · rw [h]
    exact ite_self s

theorem State.retryBackoff_of_none {id : Nat} (h : s.acc id = none) : s.retryBackoff id = s := by
  unfold State.retryBackoff
  rw [h]

theorem State.flashRetry_of_none {id : Nat} (h : s.acc id = none) : s.flashRetry id = s := by
  unfold State.flashRetry
  rw [h]

theorem State.tier1Timeout_of_none {id : Nat} (h : s.acc id = none) : s.tier1Timeout id = s := by
  unfold State.tier1Timeout
  rw [h]

theorem State.extentDrained_early {e : Nat} (h : s.extState e ≠ .revoking ∨ s.extInFlight e ≠ 0) : s.extentDrained e = s :=
  if_pos (by rcases h with h | h <;> simp [h])

theorem State.foldPage_early {r p : Nat} (h : (s.region r).state ≠ .ready ∧ (s.region r).state ≠ .folding ∨ s.foldable r p = none) :
    s.foldPage r p = s := by
  unfold State.foldPage
  dsimp only
  rcases h with ⟨h1, h2⟩ | h
  · exact if_pos (by rw [bne_iff_ne.2 h1, bne_iff_ne.2 h2]; rfl)
  · rw [h]
    exact ite_self s

theorem State.foldingDone_early {r : Nat} (h : (s.region r).state ≠ .folding ∨ (s.vr.pages.any fun g => g.region = r) = true) :
    s.foldingDone r = s :=
  if_neg (by rcases h with h | h <;> simp only [h, decide_false, Bool.false_and, Bool.not_true, Bool.and_false] <;> decide)

/-! ### The flash tier, the Pacer and the engines (07 to 12) -/

theorem State.flashStarted_early {ok : Bool} (h1 : s.flash.state ≠ .starting) (h2 : s.flash.state ≠ .ready ∨ ok = true) :
    s.flashStarted ok = s := by
  unfold State.flashStarted
  split
  · next h => exact absurd h h1
  · next h => exact absurd h h1
  · next h =>
    rcases h2 with h2 | h2
    · exact absurd h h2
    · exact absurd h2 Bool.false_ne_true
  · rfl

theorem State.not_ready (h : s.flash.state ≠ .ready) (b : Bool) : (s.flash.state != .ready || b) = true := by
  rw [bne_iff_ne.2 h]
  rfl

theorem State.paceFetch_early {q k : Nat} (h : (s.stream q k).state ≠ .running ∨
    (s.stream q k).head + (s.stream q k).lead ≤ (s.stream q k).nextFetch ∨ s.maxInflight q ≤ (s.stream q k).inflight.length ∨
    (s.stream q k).beyond (s.stream q k).nextFetch = true) : s.paceFetch q k = s :=
  if_pos (by rcases h with h | h | h | h <;> simp [h])

theorem State.tileStaged_early {q k t : Nat} (h : (s.stream q k).state ≠ .running ∧ (s.stream q k).state ≠ .draining ∨
    (s.stream q k).inflight.contains (t, 0) = false) : s.tileStaged q k t = s := by
  refine if_neg ?_
  rcases h with ⟨h1, h2⟩ | h
  · rw [decide_eq_false h1, decide_eq_false h2]
    exact Bool.false_ne_true
  · rw [h, Bool.and_false]
    exact Bool.false_ne_true

theorem State.streamIdle_early {q k : Nat}
    (hd : (s.stream q k).state = .draining → (s.stream q k).inflight ≠ [] ∨ (s.stream q k).beyond (s.stream q k).head = false)
    (he : (s.stream q k).state = .ending → ((s.stream q k).inflight.all fun e => e.2 = 0) = false) : s.streamIdle q k = s := by
  refine if_pos ?_
  cases hs : (s.stream q k).state with
  | draining => rcases hd hs with h | h <;> simp [h]
  | ending => simpa using he hs
  | _ => rfl

theorem State.lateTimeout_early {id : Nat} {e : Eng} (he : s.eng id = some e)
    (h : ∀ t, (e.prog?.bind fun p => p.waitSince) = some t → s.now - t < s.lateTo e.quad) : s.lateTimeout id = s := by
  unfold State.lateTimeout
  rw [he]
  dsimp only
  cases ht : e.prog?.bind fun p => p.waitSince with
  | none => rfl
  | some t => exact if_neg (Nat.not_le.2 (h t ht))

theorem State.entryBegin_of_none {q k op : Nat} (h : s.nextEntry q k op = none) : s.entryBegin q k op = s := by
  unfold State.entryBegin
  rw [h]

theorem State.batonDataSend_early {l : Nat} (h : (s.lane l).state ≠ .offered ∨ (s.lane l).offerOk = false ∨
    (s.lane l).imageBytes ≤ (s.lane l).sent) : s.batonDataSend l = s := by
  refine if_pos ?_
  rcases h with h | h | h
  · simp [h]
  · simp [h]
  · simp [Nat.sub_eq_zero_of_le h]

theorem State.threadFree_early {q : Nat} (h : s.threads q ≤ s.threadsBusy q ∨ s.threadless q = []) : s.threadFree q = s := by
  unfold State.threadFree
  rcases h with h | h
  · exact if_neg (Nat.not_lt.2 h)
  · rw [h]
    exact ite_self s

theorem State.relayTimeout_early {id : Nat} {e : Eng} (he : s.eng id = some e)
    (h : e.unit ≠ 4 ∨ e.started = false ∨ e.relay = false ∨ s.now - e.since < s.relayTo e.grp) : s.relayTimeout id = s := by
  unfold State.relayTimeout
  rw [he]
  exact if_neg (by rcases h with h | h | h | h <;> simp [h])

theorem State.heldTimeout_early {id : Nat} {h : HeldPart} (hh : s.heat id = some h) (ht : s.now - h.since < s.relayTo h.group) :
    s.heldTimeout id = s := by
  unfold State.heldTimeout
  rw [hh]
  exact if_neg (by rw [decide_eq_false (Nat.not_le.2 ht), Bool.and_false]; exact Bool.false_ne_true)

theorem State.watchTimeout_early {id : Nat} {w : Watch} (hw : (s.hdl.watches.find? fun w => w.to_ = .cmd id) = some w)
    (h : w.timeout = 0 ∨ s.now - w.since < w.timeout) : s.watchTimeout id = s := by
  unfold State.watchTimeout
  rw [hw]
  exact if_neg (by rcases h with h | h <;> simp [h])

theorem State.quiesceExpiry_early {u q : Nat} (h : (s.unit u q).state ≠ .quiescing ∨ s.now - (s.unit u q).since < s.quiesceTo u q) :
    s.quiesceExpiry u q = s :=
  if_neg (by rcases h with h | h <;> simp [h])

theorem State.engDisabled_early {u q : Nat} (h : (s.unit u q).state ≠ .quiescing ∧ (s.unit u q).state ≠ .killing ∨
    s.unitCmds u q ≠ []) : s.engDisabled u q = s :=
  if_neg (by rcases h with ⟨h1, h2⟩ | h <;> simp [*])

/-! ### The switch and the fabric (13, 14) -/

theorem State.pauseRepeat_of_none {p c : Nat} (h : s.sw.paused.find? (·.1 = 8 * p + c) = none) : s.pauseRepeat p c = s := by
  unfold State.pauseRepeat
  dsimp only
  rw [h]

theorem State.gateListStart_early {e : Nat} (h : s.gateEn e = false ∨ (s.gates e).pending = false ∨ s.now < (s.gates e).nextStart) :
    s.gateListStart e = s :=
  if_neg (by rcases h with h | h | h <;> simp [h])

theorem State.portUp_early {p : Nat} (h : s.canLink p = false) : s.portUp p = s :=
  if_neg (by rw [h]; exact Bool.false_ne_true)

theorem State.neighbourExpiry_early {p : Nat} (h : (s.nbr p).valid = false ∨ s.now < (s.nbr p).expires) : s.neighbourExpiry p = s :=
  if_pos (by rcases h with h | h <;> simp [h])

theorem State.lldpReceive_early {p : Nat} {l : LldpFrame} (h : s.serving = false ∨ s.linkUp p = false) : s.lldpReceive p l = s :=
  if_pos (by rcases h with h | h <;> simp [h])

theorem State.lldpSend_early (h : s.serving = false ∨ bit (s.hub .fabHbCfg) 32 = false ∨
    s.now - s.fab.lldpLast < s.lldpInt * 1000000) : s.lldpSend = s :=
  if_pos (by rcases h with h | h | h <;> simp [h])

theorem State.leaseExpiry_early (h : s.fab.state ≠ .member ∨ s.leaseTo = 0 ∨ s.now - s.fab.leaseFrom < s.leaseTo) :
    s.leaseExpiry = s :=
  if_neg (by rcases h with h | h | h <;> simp [h])

theorem State.heartbeat_early (h : bits (s.hub .fabHbCfg) 15 0 = 0 ∨ s.idValid = false ∨
    s.now - s.fab.hbLast < bits (s.hub .fabHbCfg) 15 0 * 100000) : s.heartbeat = s :=
  if_pos (by rcases h with h | h | h <;> simp [h])

theorem State.ptpSilence_early (h : s.fab.servo.tracking = false ∨ s.now - s.fab.servo.lastSync < 3000000000) : s.ptpSilence = s :=
  if_neg (by rcases h with h | h <;> simp [h, sec])

/-! ### Errors, boot, management and power (15 to 18) -/

theorem State.flashExpiry_early (h1 : s.flash.state ≠ .ready) (h2 : s.flash.state ≠ .starting) : s.flashExpiry = s :=
  if_pos (by rw [bne_iff_ne.2 h1, bne_iff_ne.2 h2]; rfl)

theorem State.dspExpiry_early {p : Nat} (h : s.photHealth p = .failed ∨ s.pwr.dspLoaded.getLsbD p = false) : s.dspExpiry p = s :=
  if_pos (by rcases h with h | h <;> simp [h])

theorem State.attestSigned_of_none (h : s.attests = []) : s.attestSigned = s := by
  unfold State.attestSigned
  rw [h]

theorem State.eventSend_early (h : s.evtEn = false ∨ (s.sess s.evtSess).state ≠ .open) : s.eventSend = s :=
  if_pos (by rcases h with h | h <;> simp [h])

theorem State.registerReset_early {t : Nat} (h : s.pwr.resetAt = some t) (ht : s.now < t) : s.registerReset = s := by
  unfold State.registerReset
  rw [h]
  exact if_neg (Nat.not_le.2 ht)

theorem State.not_running (h : s.boot.phase ≠ .running) (b : Bool) : (s.boot.phase != .running || b) = true := by
  rw [bne_iff_ne.2 h]
  rfl

end

end Sys2Proof.Machine
end

section
/-! SUPPORT. Rows that may not act do nothing: O52. -/

namespace Sys2Proof.Machine

section
variable {s : State} {c : Instr} {g : State → State} (hs : s.Ready)
include hs

/-- A row of a device that works, whose effect is nothing. -/
theorem State.Ready.idles (hc : exec c s = s.perform g) (hg : g s = s) : exec c s = .next s := hs.exec_next hc hg rfl rfl

/-- A row of any device, whose effect is nothing. -/
theorem State.Ready.idles_act (hc : exec c s = s.act g) (hg : g s = s) : exec c s = .next s :=
  State.exec_act_next hs.due hc hg rfl rfl

/-! ### Rows that write a register which the write does not reach (R526, R534) -/

variable {a : RegAt} {v : Word} {n u k op : Nat} {q : BitVec 2} {ok : Bool}

omit hs in
theorem State.regRow_of_unreached (v : Word) (h : s.reaches a = false) : s.regRow a v = s := if_neg (ne_true_of_eq_false h)

theorem State.Ready.regRow_idles (hc : exec c s = s.perform fun s => s.regRow a v) (hr : s.reaches a = false) : exec c s = .next s :=
  hs.idles hc (s.regRow_of_unreached v hr)

theorem State.Ready.unitOp_idles (hc : exec c s = s.perform fun s => s.unitOp u k v op) (hr : s.reaches (engCtl u k) = false) :
    exec c s = .next s := by
  refine hs.idles hc ?_
  unfold State.unitOp
  rw [s.regRow_of_unreached _ hr]
  exact ite_self s

theorem State.Ready.sessAbort_idles (hr : s.reaches { reg := .hubSessCtl, i := n } = false) : exec (.sessAbort n v) s = .next s := by
  refine hs.idles (g := fun s => if n < 81920 then s.regRow { reg := .hubSessCtl, i := n } (putBits v 0 0 1) else s) rfl ?_
  rw [s.regRow_of_unreached _ hr]
  exact ite_self s

theorem State.Ready.swPolRate_idles (hr : s.reaches { reg := .swPolRate, i := n } = false) : exec (.swPolRate n v) s = .next s := by
  refine hs.idles (g := fun s => if n < 1023 then s.regRow { reg := .swPolRate, i := n } v else s) rfl ?_
  rw [s.regRow_of_unreached _ hr]
  exact ite_self s

theorem State.Ready.pwrCfgWrite_idles (hr : s.reaches { reg := .hubPwrCfg } = false) : exec (.pwrCfgWrite v ok) s = .next s :=
  hs.idles (g := fun s => if s.reaches { reg := .hubPwrCfg } then s.pwrCfgWrite v ok else s) rfl (if_neg (ne_true_of_eq_false hr))

end

/-- Settles O52: each early row by its lemma; each register row by whether its write reaches the register. -/
theorem rowsThatMayNotActDoNothing : Obligations.RowsThatMayNotActDoNothing := by
  unfold Obligations.RowsThatMayNotActDoNothing
  refine ⟨fun s hs => ?_, fun s c a v n q k g h r e w p u ok hs hr hm => ?_⟩
  · intro idle
    have i {c : Instr} {g : State → State} (hc : exec c s = s.perform g) (hg : g s = s) : idle c := hs.idles hc hg
    refine ⟨fun n c h => i rfl (State.ackDelayExpiry_early h), fun n c h => i rfl (State.retxTimerExpiry_early h),
      fun n h => i rfl (State.openingTimeout_early h), fun n h => i rfl (State.sessionDrained_early h),
      fun id c o hc hsrc => ⟨fun upto hb hl hd => i rfl (State.fenceComplete_early hc hsrc hb hl hd),
        fun ids hb h => i rfl (State.drainComplete_early hc hsrc hb h), fun a hb h => i rfl (State.orderedSignalRelease_early hc hsrc hb h)⟩,
      fun tag t r hr => ⟨fun l k hk h => i rfl (State.recallTimeout_early hr hk h), fun c p b hk h => i rfl (State.borrowTimeout_early hr hk h),
        fun id e hk he h => i rfl (State.hdlPeerTimeout_early hr hk he h)⟩,
      fun d h => i rfl (State.domainEnterDown_early h), fun l h => i rfl (State.parkedStart_early h),
      fun id h => ⟨i rfl (State.retryBackoff_of_none h), i rfl (State.flashRetry_of_none h), i rfl (State.tier1Timeout_of_none h)⟩,
      fun e => ⟨fun h => i rfl (if_neg h), fun h => i rfl (State.extentDrained_early h)⟩,
      fun r => ⟨fun h => i rfl (if_pos (bne_iff_ne.2 h)), fun p h => i rfl (State.foldPage_early h), fun h => i rfl (State.foldingDone_early h)⟩,
      fun ok h1 h2 => i rfl (State.flashStarted_early h1 h2), fun h => ?_, fun q k => ?_,
      fun id e he h => i rfl (State.lateTimeout_early he h), fun q k row op hm hn => ?_,
      fun l => ⟨fun h => i rfl (State.batonDataSend_early h), fun h => i rfl (if_pos h)⟩, fun q h => i rfl (State.threadFree_early h),
      fun id e he h => i rfl (State.relayTimeout_early he h), fun id h hh ht => i rfl (State.heldTimeout_early hh ht),
      fun id w hw h => i rfl (State.watchTimeout_early hw h), fun u q => ?_, fun p c h => i rfl (State.pauseRepeat_of_none h),
      fun e => ⟨fun h => i rfl (State.gateListStart_early h), fun h => i rfl (if_neg (ne_true_of_eq_false h))⟩,
      fun p => ⟨fun h => i rfl (if_pos (congrArg (!·) h)), fun h => i rfl (State.portUp_early h), fun h => i rfl (State.neighbourExpiry_early h),
        fun f h => i rfl (State.lldpReceive_early h)⟩,
      fun h => i rfl (State.lldpSend_early h), fun h => i rfl (State.leaseExpiry_early h), fun h => i rfl (State.heartbeat_early h),
      fun h => i rfl (State.ptpSilence_early h), fun h => ?_, fun h1 h2 => i rfl (State.flashExpiry_early h1 h2),
      fun p h => i rfl (State.dspExpiry_early h), fun h => i rfl (State.attestSigned_of_none h), fun h => i rfl (State.eventSend_early h),
      fun x h => ?_, fun links h => ?_, fun t h ht => ?_, fun h => ?_, fun h => ?_⟩
    · exact ⟨i rfl (if_pos (bne_iff_ne.2 h)), fun c => ⟨i rfl (if_pos (s.not_ready h _)), fun b => i rfl (if_pos (s.not_ready h _))⟩,
        fun p a b => i rfl (if_pos (s.not_ready h _))⟩
    · intro x
      exact ⟨fun h => i rfl (State.paceFetch_early h), fun t h => i rfl (State.tileStaged_early h),
        fun hd he => i rfl (State.streamIdle_early hd he)⟩
    · refine (show ∀ x ∈ _, s.nextEntry q.toNat k.toNat x.2 = none → idle (x.1 q k) from ?_) (row, op) hm hn
      simp only [List.forall_mem_cons]
      exact ⟨fun h => i rfl (State.entryBegin_of_none h), fun h => i rfl (State.entryBegin_of_none h),
        fun h => i rfl (State.entryBegin_of_none h), fun h => i rfl (State.entryBegin_of_none h),
        fun h => i rfl (State.entryBegin_of_none h), fun h => i rfl (State.entryBegin_of_none h), fun x hx => absurd hx List.not_mem_nil⟩
    · intro x
      exact ⟨fun h => i rfl (State.quiesceExpiry_early h), fun h => i rfl (State.engDisabled_early h)⟩
    · refine ⟨fun k n f => i rfl (if_pos ?_), fun k => i rfl (if_pos ?_), fun q => i rfl (if_pos (bne_iff_ne.2 h)),
        fun ok => i rfl (if_pos (s.not_running h _)), fun q u => i rfl (if_pos ?_)⟩
      · simp [h]
      · simp [h]
      · simp [h]
    · exact i rfl (if_pos (by rw [h]; simp))
    · exact hs.idles_act (g := fun s => s.startComplete links) rfl (if_pos (by rw [bne_iff_ne.2 h]; rfl))
    · exact hs.idles_act (g := State.registerReset) rfl (State.registerReset_early h ht)
    · exact hs.idles_act (g := State.pwrgdRise) rfl (if_pos h)
    · have off : (!s.pwr.pwrgd) = true := congrArg (!·) h
      exact ⟨hs.idles_act (g := State.pwrgdFall) rfl (if_pos off), hs.idles_act (g := State.smbStatusRead) rfl (if_neg (ne_true_of_eq_false h)),
        hs.idles_act (g := State.smbAlertResponse) rfl (if_neg (by rw [h]; exact Bool.false_ne_true)),
        fun mv => hs.idles_act (g := fun s => s.coreUndervolt mv) rfl (if_neg (by simp [h])),
        fun n off' a b => hs.idles_act (g := fun s => s.smbRead n off'.toNat a b) rfl (if_pos off),
        fun n off' v a b => hs.idles_act (g := fun s => s.smbWrite n off'.toNat v a b) rfl (if_pos off)⟩
  · refine (show ∀ x ∈ _, s.reaches x.2 = false → exec x.1 s = .next s from ?_) (c, a) hm hr
    have row {c : Instr} {a : RegAt} {v : Word} (hc : exec c s = s.perform fun s => s.regRow a v) (hr : s.reaches a = false) :
        exec c s = .next s := hs.regRow_idles hc hr
    have unit {c : Instr} {op : Nat} (hc : exec c s = s.perform fun s => s.unitOp u.toNat q.toNat v op)
        (hr : s.reaches (engCtl u.toNat q.toNat) = false) : exec c s = .next s := hs.unitOp_idles hc hr
    simp only [List.cons_append, List.nil_append, List.forall_mem_cons]
    exact ⟨hs.sessAbort_idles, row rfl, row rfl, row rfl, row rfl, row rfl, row rfl, row rfl, row rfl, row rfl, row rfl, row rfl, row rfl,
      row rfl, row rfl, row rfl, row rfl, row rfl, unit rfl, unit rfl, unit rfl, row rfl, hs.swPolRate_idles, row rfl, row rfl, row rfl,
      row rfl, row rfl, row rfl, row rfl, row rfl, row rfl, row rfl, row rfl, row rfl, row rfl, row rfl, row rfl, row rfl, row rfl,
      row rfl, row rfl, row rfl, hs.pwrCfgWrite_idles, row rfl, row rfl, fun x hx => absurd hx List.not_mem_nil⟩

end Sys2Proof.Machine
end
